-- ==== Sys2Proof/Word.lean ====
section
/-! DEFINITION. The word types of the machine and their plainest arithmetic (R5). -/

namespace Sys2Proof

/-- A byte of memory, a channel word or a code line (R5). -/
abbrev Byte := BitVec 8
/-- A scalar register `s0`–`s15`. -/
abbrev Word := BitVec 64
/-- The data of a vector register: 32 lanes of 32 bits, lane `i` in bits `[32i+31:32i]` (R5). -/
abbrev VData := BitVec 1024
/-- A predicate register: one bit per lane. -/
abbrev Pred := BitVec 32

/-- The bits `[lo+w-1:lo]` of a natural number (R5: bit 0 is the least significant). -/
def bits (x lo w : Nat) : Nat := x / 2 ^ lo % 2 ^ w

/-- One bit of a natural number. -/
def bitOf (x i : Nat) : Bool := x / 2 ^ i % 2 == 1

/-- Element `e` of width `w` of a register: bits `[w·e + w − 1 : w·e]` (R28). -/
def elem (w e : Nat) (v : VData) : BitVec w := v.extractLsb' (w * e) w

/-- A register from its first `n` elements of width `w`; all higher bits are zero (R28). -/
def ofElems (w : Nat) (f : Nat → BitVec w) : Nat → VData
  | 0 => 0#1024
  | n + 1 => ofElems w f n ||| ((f n).setWidth 1024 <<< (w * n))

/-- Lane `i` of a register (R5). -/
abbrev lane (v : VData) (i : Nat) : BitVec 32 := elem 32 i v

/-- A register from its 32 lanes (R5). -/
abbrev ofLanes (f : Nat → BitVec 32) : VData := ofElems 32 f 32

/-- Little-endian value of a list of bytes: the first byte holds bits [7:0] (R5). -/
def leNat : List Byte → Nat
  | [] => 0
  | b :: bs => b.toNat + 256 * leNat bs

/-- The `n` low bytes of a value, lowest first (R5). -/
def leBytes : Nat → Nat → List Byte
  | 0, _ => []
  | n + 1, x => BitVec.ofNat 8 x :: leBytes n (x / 256)

end Sys2Proof
end

