-- ==== Sys2Proof/Config.lean ====
section
/-! DEFINITION. What the spec leaves open: free values, which nothing in the model constrains, and the fixed
numbers of the module (R2). -/

namespace Sys2Proof.Config

/-- A byte that the spec leaves undefined (R90, R302, R317): by the epoch at which it became undefined, and its
address. -/
opaque freeByte (epoch addr : Nat) : Byte

/-- A choice that the spec leaves to timing or to the device: the `n`-th one drawn. -/
opaque freeChoice (n : Nat) : Nat

/-- A 64-bit value that the spec leaves open, by what it is a value of. -/
opaque freeWord (n : Nat) : Word

/-- The result that the device gives for a special function inside the bounds of its rule (R220): by the number
of the function and the encoding of its operand. -/
opaque special (fn operand : Nat) : Nat

/-- A byte of what an attestation key pair holds (R362): by its kind, what names it, and its place. -/
opaque sealByte (kind : Nat) (covers : List Byte) (i : Nat) : Byte

/-- R91: 64 ms of the 1.1 GHz reference clock. -/
def retention : Nat := 70400000

/-- R2: logical columns. -/
def columns : Nat := 256
/-- R2: logical rows. -/
def rows : Nat := 240
/-- R2: clusters of a module. -/
def clusters : Nat := 960

end Sys2Proof.Config
end

