-- ==== Sys2Proof/Syntax.lean ====
section
/-! DEFINITION. The instruction set as syntax: one constructor per row of the table of operations and events.
The core instructions of R110, the Deck words of R297, and the whole and indivisible events of the machine. -/

namespace Sys2Proof

/-- R107: a scalar register number. -/
abbrev SReg := Fin 16
/-- R107: a vector register number. -/
abbrev VReg := Fin 8
/-- R107: a predicate register number. -/
abbrev PReg := Fin 4
/-- R107: a weight register number. -/
abbrev WReg := Fin 4
/-- R297: a Dealer register number. -/
abbrev DReg := Fin 16

/-- R38: the rounding modes. -/
inductive RMode where
  | rne | rtz | rdn | rup
  deriving DecidableEq, Repr

/-- R38: the 2-bit field codes. -/
def RMode.code : RMode → Nat
  | .rne => 0 | .rtz => 1 | .rdn => 2 | .rup => 3

/-- R102: a branch target, a signed line offset and a slot. -/
structure Target where
  loff : BitVec 19
  slot : BitVec 5
  deriving DecidableEq, Repr

/-- R106: the type codes 0–10. -/
inductive VTy where
  | s32 | f32 | bf16 | e4m3 | e5m2 | e2m1 | cb4 | s8 | n32 | n8 | raw
  deriving DecidableEq, Repr

/-- R106: the code of a type. -/
def VTy.code : VTy → Nat
  | .s32 => 0 | .f32 => 1 | .bf16 => 2 | .e4m3 => 3 | .e5m2 => 4 | .e2m1 => 5
  | .cb4 => 6 | .s8 => 7 | .n32 => 8 | .n8 => 9 | .raw => 10

/-- R106: the format tag that a type requires or produces. -/
def VTy.tag : VTy → BitVec 4
  | .s32 => 0 | .f32 => 1 | .bf16 => 2 | .e4m3 => 3 | .e5m2 => 4 | .e2m1 => 5
  | .cb4 => 6 | .s8 => 7 | .n32 => 0 | .n8 => 7 | .raw => 8

/-- R163, R189: the four mesh directions. -/
inductive Dir where
  | n | e | s | w
  deriving DecidableEq, Repr

/-- R163: the direction codes. -/
def Dir.code : Dir → Nat
  | .n => 0 | .e => 1 | .s => 2 | .w => 3

/-- R179: the fence kinds. -/
inductive FenceKind where
  | acq | rel | full | lb | put
  deriving DecidableEq, Repr

/-- R163: the fence kind codes. -/
def FenceKind.code : FenceKind → Nat
  | .acq => 0 | .rel => 1 | .full => 2 | .lb => 3 | .put => 4

/-- R4: the six scopes. -/
inductive Scope where
  | ctx | core | clu | reg | waf | pod
  deriving DecidableEq, Repr

/-- R163: the scope codes. -/
def Scope.code : Scope → Nat
  | .ctx => 0 | .core => 1 | .clu => 2 | .reg => 3 | .waf => 4 | .pod => 5

/-- R223: the shift amount of a vector shift, a register (I = 0) or an amount (I = 1). -/
inductive ShiftBy where
  | reg (vb : VReg)
  | amt (n : Fin 32)
  deriving DecidableEq, Repr

/-- R229: the source of `vbcast`, a lane of a vector register or a scalar register with its type. -/
inductive BcastSrc where
  | lane (va : VReg) (i : Fin 32)
  | scalar (sa : SReg) (ty : VTy)
  deriving DecidableEq, Repr

/-- R224: the carry-in of the carry forms. -/
inductive CarryIn where
  | c0 | c1 | w | p
  deriving DecidableEq, Repr

/-- R224: the carry-out of the carry forms. -/
inductive CarryOut where
  | none | e | p
  deriving DecidableEq, Repr

/-- R231: the carry-in of the scans. -/
inductive ScanIn where
  | none
  | w
  | vc (v : VReg) (hi : Bool)
  deriving DecidableEq, Repr

/-- R232: the earlier pair of `vlrec`. -/
inductive PairIn where
  | none | w | vcPair
  deriving DecidableEq, Repr

/-- R226: the compare conditions. -/
inductive Cond where
  | eq | ne | lt | le | gt | ge
  deriving DecidableEq, Repr

/-- R226: the condition codes. -/
def Cond.code : Cond → Nat
  | .eq => 0 | .ne => 1 | .lt => 2 | .le => 3 | .gt => 4 | .ge => 5

/-- R246: the start value of `mx.macp`. -/
inductive MacIn where
  | acc | zero | w
  deriving DecidableEq, Repr

/-- R246: the destination of `mx.macp`. -/
inductive MacOut where
  | acc | e | both
  deriving DecidableEq, Repr

/-- R268: an operand that is a literal (R = 0) or a scalar register (R = 1). -/
inductive RegOrImm where
  | imm (v : BitVec 16)
  | reg (sa : SReg)
  deriving DecidableEq, Repr

/-- R297: the reduction operations of a Dealer. -/
inductive ROp where
  | sum | max | min
  deriving DecidableEq, Repr

/-- R308: the functions of `dk.add`. -/
inductive DkFn where
  | add | sub | and | shl
  deriving DecidableEq, Repr

/-- A node of the pod: wafer · 2^16 + the 16-bit core number of a global address (R2, R85). -/
abbrev Node := Nat

/-- The instruction set: every row of the table of operations and events. -/
inductive Instr where
  -- Control (R142, R149–R157)
  | nop
  | endHandler
  | yield
  | ret
  | br (t : Target)
  | call (t : Target)
  | bEq (sa sb : SReg) (t : Target)
  | bNe (sa sb : SReg) (t : Target)
  | bLt (sa sb : SReg) (t : Target)
  | bGe (sa sb : SReg) (t : Target)
  | bLtn (sa sb : SReg) (t : Target)
  | bGen (sa sb : SReg) (t : Target)
  | bpAny (pm : PReg) (t : Target)
  | bpAll (pm : PReg) (t : Target)
  | bpNone (pm : PReg) (t : Target)
  | loop (sa : SReg) (t : Target)
  -- Scalar ALU (R143–R148)
  | add (sd sa sb : SReg)
  | sub (sd sa sb : SReg)
  | mul (sd sa sb : SReg)
  | mulh (sd sa sb : SReg)
  | mulhn (sd sa sb : SReg)
  | div (sd sa sb : SReg)
  | divn (sd sa sb : SReg)
  | rem (sd sa sb : SReg)
  | remn (sd sa sb : SReg)
  | and (sd sa sb : SReg)
  | or (sd sa sb : SReg)
  | xor (sd sa sb : SReg)
  | andn (sd sa sb : SReg)
  | shl (sd sa sb : SReg)
  | shr (sd sa sb : SReg)
  | sra (sd sa sb : SReg)
  | min (sd sa sb : SReg)
  | max (sd sa sb : SReg)
  | minn (sd sa sb : SReg)
  | maxn (sd sa sb : SReg)
  | slt (sd sa sb : SReg)
  | sltn (sd sa sb : SReg)
  | sel (sd sa sb sc : SReg) (bit : Fin 64)
  | popc (sd sa : SReg)
  | clz (sd sa : SReg)
  | ctz (sd sa : SReg)
  | addi (sd sa : SReg) (imm : BitVec 16)
  | andi (sd sa : SReg) (imm : BitVec 16)
  | ori (sd sa : SReg) (imm : BitVec 16)
  | xori (sd sa : SReg) (imm : BitVec 16)
  | shli (sd sa : SReg) (amt : Fin 64)
  | shri (sd sa : SReg) (amt : Fin 64)
  | srai (sd sa : SReg) (amt : Fin 64)
  | movi (sd : SReg) (imm : BitVec 32)
  | movk (sd : SReg) (imm : BitVec 16) (q : Fin 4)
  -- Local memory (R163–R166)
  | ldS8 (sd sa : SReg) (off : BitVec 16)
  | ldS16 (sd sa : SReg) (off : BitVec 16)
  | ldS32 (sd sa : SReg) (off : BitVec 16)
  | ldS64 (sd sa : SReg) (off : BitVec 16)
  | ldN8 (sd sa : SReg) (off : BitVec 16)
  | ldN16 (sd sa : SReg) (off : BitVec 16)
  | ldN32 (sd sa : SReg) (off : BitVec 16)
  | stN8 (sb sa : SReg) (off : BitVec 16)
  | stN16 (sb sa : SReg) (off : BitVec 16)
  | stN32 (sb sa : SReg) (off : BitVec 16)
  | stN64 (sb sa : SReg) (off : BitVec 16)
  | pf (sa : SReg) (off : BitVec 16)
  -- Full/empty words (R167)
  | ldWf (sd sa : SReg) (off : BitVec 16)
  | ldWfe (sd sa : SReg) (off : BitVec 16)
  | stWef (sb sa : SReg) (off : BitVec 16)
  | stSf (sb sa : SReg) (off : BitVec 16)
  | feSet (sa : SReg) (off : BitVec 16)
  | feClr (sa : SReg) (off : BitVec 16)
  | feTst (sd sa : SReg) (off : BitVec 16)
  -- Atomics (R170): uns is U, wide is W, remote is G
  | amoAdd (sd sb sa : SReg) (off : BitVec 16) (uns wide remote : Bool)
  | amoMin (sd sb sa : SReg) (off : BitVec 16) (uns wide remote : Bool)
  | amoMax (sd sb sa : SReg) (off : BitVec 16) (uns wide remote : Bool)
  | amoAnd (sd sb sa : SReg) (off : BitVec 16) (uns wide remote : Bool)
  | amoOr (sd sb sa : SReg) (off : BitVec 16) (uns wide remote : Bool)
  | amoXchg (sd sb sa : SReg) (off : BitVec 16) (uns wide remote : Bool)
  | amoCas (sd sb sc sa : SReg) (off : BitVec 16) (uns wide remote : Bool)
  -- Remote, copies, fences, cache maintenance (R173–R181)
  | get (sd sa : SReg) (off : BitVec 16) (wide : Bool)
  | getv (vd : VReg) (sa : SReg) (off : BitVec 16)
  | put (sb sa : SReg) (off : BitVec 16) (wide sf : Bool)
  | putv (va : VReg) (sa : SReg) (off : BitVec 16) (sf : Bool)
  | putH (sb sa sc : SReg) (h : Fin 32)
  | putK (sb sa sc : SReg) (k : Fin 64)
  | cpStart (sa sb sc : SReg) (k : Fin 64)
  | fence (kind : FenceKind) (scope : Scope)
  | l1Wb (sa sb : SReg)
  | l1Inv (sa sb : SReg)
  | l2Inv (sa sb : SReg)
  -- Channels and neighbour ports (R182–R189)
  | chrecv (vd : VReg) (sd : SReg) (ch : Fin 32)
  | chsend (va : VReg) (sa : SReg) (s : Fin 64)
  | chpeek (vd : VReg) (sd : SReg) (ch : Fin 32)
  | chtag (sd : SReg) (ch : Fin 32)
  | chmark (sa : SReg) (s : Fin 64)
  | chskip (sd : SReg) (ch : Fin 32)
  | nbPut (va : VReg) (d : Dir)
  | nbGet (vd : VReg) (d : Dir)
  | nbTst (sd : SReg) (d : Dir)
  -- Triggers, flags, counters, barriers (R268–R280)
  | trgArm (x : RegOrImm)
  | trgOff (x : RegOrImm)
  | flgSet (x : RegOrImm)
  | flgClr (x : RegOrImm)
  | cntAdd (k : Fin 64) (x : RegOrImm)
  | cntSet (k : Fin 64) (x : RegOrImm)
  | cntWait (sd : SReg) (k : Fin 64) (x : RegOrImm) (eq : Bool)
  | cntRd (sd : SReg) (k : Fin 64)
  | barArr (sd : SReg) (b : Fin 16) (cp : Bool)
  | barWait (sa : SReg) (b : Fin 16)
  -- Vector (R213–R241)
  | vadd (vd va vb : VReg) (pm : Option PReg) (ty : VTy) (rnd : RMode) (sat : Bool)
  | vsub (vd va vb : VReg) (pm : Option PReg) (ty : VTy) (rnd : RMode) (sat : Bool)
  | vmul (vd va vb : VReg) (pm : Option PReg) (ty : VTy) (rnd : RMode) (sat : Bool)
  | vfma (vd va vb vc : VReg) (pm : Option PReg) (ty : VTy) (rnd : RMode) (sat : Bool)
  | vfms (vd va vb vc : VReg) (pm : Option PReg) (ty : VTy) (rnd : RMode) (sat : Bool)
  | vfnma (vd va vb vc : VReg) (pm : Option PReg) (ty : VTy) (rnd : RMode) (sat : Bool)
  | vmin (vd va vb : VReg) (pm : Option PReg) (ty : VTy) (rnd : RMode) (sat : Bool)
  | vmax (vd va vb : VReg) (pm : Option PReg) (ty : VTy) (rnd : RMode) (sat : Bool)
  | vabs (vd va : VReg) (pm : Option PReg) (ty : VTy) (rnd : RMode) (sat : Bool)
  | vneg (vd va : VReg) (pm : Option PReg) (ty : VTy) (rnd : RMode) (sat : Bool)
  | vaddImm (vd va : VReg) (pm : Option PReg) (ty : VTy) (rnd : RMode) (sat : Bool) (imm : BitVec 16)
  | vsubImm (vd va : VReg) (pm : Option PReg) (ty : VTy) (rnd : RMode) (sat : Bool) (imm : BitVec 16)
  | vmulImm (vd va : VReg) (pm : Option PReg) (ty : VTy) (rnd : RMode) (sat : Bool) (imm : BitVec 16)
  | vminImm (vd va : VReg) (pm : Option PReg) (ty : VTy) (rnd : RMode) (sat : Bool) (imm : BitVec 16)
  | vmaxImm (vd va : VReg) (pm : Option PReg) (ty : VTy) (rnd : RMode) (sat : Bool) (imm : BitVec 16)
  | vrcp (vd va : VReg) (pm : Option PReg) (ty : VTy) (sat : Bool)
  | vrsqrt (vd va : VReg) (pm : Option PReg) (ty : VTy) (sat : Bool)
  | vsqrt (vd va : VReg) (pm : Option PReg) (ty : VTy) (rnd : RMode)
  | vexp2 (vd va : VReg) (pm : Option PReg) (ty : VTy) (sat : Bool)
  | vlog2 (vd va : VReg) (pm : Option PReg) (ty : VTy) (sat : Bool)
  | vtanh (vd va : VReg) (pm : Option PReg) (ty : VTy) (sat : Bool)
  | vsgm (vd va : VReg) (pm : Option PReg) (ty : VTy) (sat : Bool)
  | vand (vd va vb : VReg) (pm : Option PReg)
  | vor (vd va vb : VReg) (pm : Option PReg)
  | vxor (vd va vb : VReg) (pm : Option PReg)
  | vshl (vd va : VReg) (by_ : ShiftBy) (pm : Option PReg) (ty : VTy)
  | vshr (vd va : VReg) (by_ : ShiftBy) (pm : Option PReg) (ty : VTy)
  | vsra (vd va : VReg) (by_ : ShiftBy) (pm : Option PReg) (ty : VTy)
  | vmulh (vd va vb : VReg) (pm : Option PReg) (ty : VTy)
  | vaddc (vd va vb : VReg) (pq : PReg) (cin : CarryIn) (cout : CarryOut)
  | vsubc (vd va vb : VReg) (pq : PReg) (cin : CarryIn) (cout : CarryOut)
  | vcmp (pd : PReg) (va vb : VReg) (pm : Option PReg) (ty : VTy) (cond : Cond) (half : Bool)
  | vsel (vd va vb : VReg) (pm : PReg)
  | pand (pd pa pb : PReg)
  | por (pd pa pb : PReg)
  | pxor (pd pa pb : PReg)
  | pnot (pd pa : PReg)
  | pcnt (sd : SReg) (pa : PReg)
  | pfirst (sd : SReg) (pa : PReg)
  | vmov (vd va : VReg) (pm : Option PReg)
  | vbcast (vd : VReg) (src : BcastSrc) (pm : Option PReg)
  | vbcastImm (vd : VReg) (pm : Option PReg) (ty : VTy) (rnd : RMode) (sat : Bool) (imm : BitVec 16)
  | vins (vd : VReg) (sa : SReg) (i : Fin 32)
  | vext (sd : SReg) (va : VReg) (i : Fin 32)
  | vperm (vd va vb : VReg) (pm : Option PReg)
  | vrot (vd va : VReg) (n : Fin 32) (pm : Option PReg)
  | vshf (vd va vb : VReg) (n : Fin 32) (pm : Option PReg)
  | vredAdd (vd va : VReg) (pm : Option PReg) (ty : VTy)
  | vredMax (vd va : VReg) (pm : Option PReg) (ty : VTy)
  | vredMin (vd va : VReg) (pm : Option PReg) (ty : VTy)
  | vscanAdd (vd va : VReg) (pm : Option PReg) (ty : VTy) (cin : ScanIn) (cout : Bool)
  | vscanMax (vd va : VReg) (pm : Option PReg) (ty : VTy) (cin : ScanIn) (cout : Bool)
  | vscanMul (vd va : VReg) (pm : Option PReg) (ty : VTy) (cin : ScanIn) (cout : Bool)
  | vlrec (vd va vb vc : VReg) (hi : Bool) (cin : PairIn) (cout : Bool)
  | vcvt (vd va : VReg) (dst src : VTy) (part : Fin 8) (rnd : RMode) (sat : Bool)
  | vqnt (vd va vc : VReg) (dst src : VTy) (part : Fin 8) (rnd : RMode)
  | vdq (vd va : VReg) (dst src : VTy) (part : Fin 8) (rnd : RMode) (sat : Bool)
  | vlut (vd va : VReg) (dst src : VTy) (part : Fin 8)
  | ctabWr (va : VReg)
  | vld (vd : VReg) (sa : SReg) (off : BitVec 16) (pm : Option PReg) (ty : VTy)
  | vst (va : VReg) (sa : SReg) (off : BitVec 16) (pm : Option PReg)
  | vgat (vd vb : VReg) (sa : SReg) (off : BitVec 16) (pm : Option PReg) (ty : VTy)
  | vsct (va vb : VReg) (sa : SReg) (off : BitVec 16) (pm : Option PReg)
  | vtagRd (sd : SReg) (va : VReg) (side : Bool)
  | vtagSet (vd : VReg) (sa : SReg) (fmt : BitVec 4) (sp keep : Bool)
  -- Matrix unit (R246–R262)
  | mxLdw (wn : WReg) (sa : SReg) (off : BitVec 16) (ty : VTy) (sc : Bool)
  | mxLdwc (wn : WReg) (ch : Fin 32) (ty : VTy) (sc : Bool)
  | mxScw (wn : WReg) (va : VReg) (part : Bool)
  | mxCfg (sd : SReg) (sa : Option SReg)
  | mxClr (row : Fin 512) (n : Fin 1024)
  | mxMac (wn : WReg) (va : VReg) (row : Fin 512) (ty : VTy) (sc : Bool)
  | mxMacp (wn : WReg) (va : VReg) (row : Fin 512) (ty : VTy) (sc : Bool) (cin : MacIn) (cout : MacOut)
  | mxRun (ty : VTy) (sc : Bool) (n : BitVec 16) (k : Option (Fin 64))
  | mxRd (vd : VReg) (row : Fin 512) (clr : Bool)
  | mxSync
  -- Collectives and recovery (R293–R296, R332)
  | collKick (sa sb sc : SReg) (vec : Fin 8)
  | collWait (sd sa : SReg) (m : Fin 4)
  | collRng (sd sa : SReg)
  | sealArr (sd : SReg)
  | sealWait (sd : SReg)
  | sealReq
  | egrNow (sd : SReg) (s : Fin 64)
  -- CSRs and system (R339–R341)
  | csrRd (sd : SReg) (n : Fin 8192)
  | csrWr (sd sa : SReg) (n : Fin 8192)
  | csrSet (sd sa : SReg) (n : Fin 8192)
  | csrClr (sd sa : SReg) (n : Fin 8192)
  | trap (imm : BitVec 16)
  | eret
  | idle
  | brk
  | frz (sa : SReg)
  -- Deck words (R297)
  | dkSend (ra rb rc : DReg) (sz : Fin 9) (stream : Fin 64) (ctag : BitVec 8) (g : Bool) (off : Fin 8192)
  | dkRecv (ra rc : DReg) (sz : Fin 9) (stream : Fin 64) (ctag : BitVec 8) (off : Fin 8192)
  | dkRred (ra rc : DReg) (sz : Fin 9) (stream : Fin 64) (ctag : BitVec 8) (rop : ROp) (bf16 : Bool) (off : Fin 8192)
  | dkCopy (ra rb : DReg) (sz : Fin 9) (rop : ROp) (widen acc : Bool) (off : Fin 8192)
  | dkPut (ra rb : DReg) (sz : Fin 9) (k : Fin 64) (dis : Bool) (ent : Fin 8) (bf16 : Bool) (off : Fin 8192)
  | dkWait (ra : DReg) (g : Fin 8)
  | dkSig (rb : DReg) (g : Fin 8)
  | dkStep (rc : DReg) (stream : Fin 64)
  | dkLoop (ra : DReg) (last : Fin 8192)
  | dkJmp (target : Fin 8192)
  | dkBnz (ra : DReg) (target : Fin 8192)
  | dkSet (ra : DReg) (hi : Bool) (imm : BitVec 32)
  | dkAdd (ra rb rc : DReg) (fn : DkFn) (imm : BitVec 32)
  | dkArm (rb rc : DReg) (ent : Fin 8)
  | dkDisarm (rb : DReg) (ent : Fin 8)
  | dkSealpt
  | dkDone (ra rb : DReg) (m : Fin 4)
  -- Events: each names the node or the message it is about; `m` is a message in flight
  | dealerInstanceStart (d : Node)
  | kickArrive (m : Nat)
  | chunkWordArrive (m : Nat)
  | dealerDataWordComplete (d : Node) (k : Nat)
  | dkPutArrive (m : Nat)
  | rangeArmArrive (m : Nat)
  | signalArrive (m : Nat)
  | mailboxWriteArrive (m : Nat)
  | triggerFire (c : Node)
  | pseudoTriggerFire (c : Node)
  | contextWake (c : Node) (x : Fin 8)
  | sectorFillArrive (c : Node) (sector : Nat)
  | remoteReadArrive (m : Nat)
  | remoteWriteArrive (m : Nat)
  | remoteAtomicArrive (m : Nat)
  | payloadPieceArrive (m : Nat)
  | copyPiece (c : Node) (id : Nat)
  | remoteResponseArrive (m : Nat)
  | routerWordArrive (m : Nat)
  | ingressWordArrive (m : Nat)
  | creditReturn (m : Nat)
  | nbWordLand (m : Nat)
  | mxOpPerform (c : Node)
  | mxLdwcWordTake (c : Node)
  | mxRunRow (c : Node)
  | barrierArrivalToken (m : Nat)
  | barrierChildReport (m : Nat)
  | barrierReleaseArrive (m : Nat)
  | wideBarrierReport (m : Nat)
  | retentionDeadline (c : Node) (granule : Nat)
  | sealRequestArrive (m : Nat)
  | sealHold (d : Nat)
  | sealCheck (d : Nat)
  | sealCkpt (d : Nat)
  | sealPoint (d : Nat)
  | sealFlip (d : Nat)
  | sealChange (d : Nat)
  | sealRelease (d : Nat)
  | machineCheck (n : Node) (src : Fin 7) (detail : Nat)
  | rollback (d : Nat)
  | rollbackResume (d : Nat)
  | trapDeliver (c : Node)
  | debugFreeze (d : Nat) (reason : BitVec 32)
  | thermalSample (w : Fin 16) (cluster : Nat) (temp : BitVec 8)
  | coolantFlowLow (w : Fin 16)
  | inrushTokenGrant (w : Fin 16)
  | powerGood (w : Fin 16) (cluster : Nat)
  | inrushTimeout (w : Fin 16) (cluster : Nat)
  | powerOnReset (w : Fin 16)
  | servicePhaseEnd (w : Fin 16)
  | mappingTimeout (w : Fin 16)
  | codeDeliveryTimeout (w : Fin 16) (slot : Fin 32)
  | shelfZeroingDone (w : Fin 16) (slot : Fin 32)
  | hsemAcquireRead (w : Fin 16) (port : Fin 2) (n : Fin 32)
  | hsemRenew (w : Fin 16) (port : Fin 2) (n : Fin 32)
  | hsemRelease (w : Fin 16) (port : Fin 2) (n : Fin 32)
  | leaseExpiry (w : Fin 16) (n : Fin 32)
  | epLimitWrite (w : Fin 16) (port : Fin 2) (slot : Fin 32) (ep : Fin 64) (v : Word)
  | registerWrite (w : Fin 16) (port : Fin 2) (off : Nat) (v : Word)
  | claim (w : Fin 16) (port : Fin 2) (slot : BitVec 8)
  | load (w : Fin 16) (port : Fin 2) (slot : BitVec 8)
  | launch (w : Fin 16) (port : Fin 2) (slot : BitVec 8)
  | unload (w : Fin 16) (port : Fin 2) (slot : BitVec 8)
  | unclaim (w : Fin 16) (port : Fin 2) (slot : BitVec 8)
  | rebind (w : Fin 16) (port : Fin 2) (slot : BitVec 8)
  | attest (w : Fin 16) (port : Fin 2) (slot : BitVec 8)
  | mcread (w : Fin 16) (port : Fin 2) (slot : BitVec 8)
  | readout (w : Fin 16) (port : Fin 2) (slot : BitVec 8)
  | therm (w : Fin 16) (port : Fin 2) (slot : BitVec 8)
  | retire (w : Fin 16) (port : Fin 2) (slot : BitVec 8)
  | colmove (w : Fin 16) (port : Fin 2) (slot : BitVec 8)
  | wake (w : Fin 16) (port : Fin 2) (slot : BitVec 8)
  | resume (w : Fin 16) (port : Fin 2) (slot : BitVec 8)
  | remap (w : Fin 16) (port : Fin 2) (slot : BitVec 8)
  | pod (w : Fin 16) (port : Fin 2) (slot : BitVec 8)
  | ingressRead (w : Fin 16) (slot : Fin 32) (ep : Fin 64)
  | egressWordAccept (m : Nat)
  | vbInjWrite (w : Fin 16) (v : Word)
  | unknownOp (w : Fin 16) (port : Fin 2) (slot op : BitVec 8)
  | illegalHead (v : Word)
  | powerLoss (w : Fin 16)
  | windowBringUp (w : Fin 16) (px py width height : Nat)
  deriving DecidableEq, Repr

end Sys2Proof
end

