-- ==== Sys2Proof/WellFormed.lean ====
section
/-! DEFINITION. Well-formed instructions: the conditions of the encodings that the operand types do not
already hold (R106, R163, R213, R214, R246, R268, R297). -/

namespace Sys2Proof

/-- R213: the types of the arithmetic forms that have integer and floating types. -/
def VTy.arith : VTy → Bool
  | .s32 | .f32 | .bf16 | .n32 => true
  | _ => false

/-- R213: FP32 and packed BF16. -/
def VTy.isFloat : VTy → Bool
  | .f32 | .bf16 => true
  | _ => false

/-- R213: the 32-bit integer types. -/
def VTy.isInt32 : VTy → Bool
  | .s32 | .n32 => true
  | _ => false

/-- R44: the integer types. -/
def VTy.isInt : VTy → Bool
  | .s32 | .n32 | .s8 | .n8 => true
  | _ => false

/-- R44, R214: `vcvt` rounds between the pair: not between integers, not to CB4, which selects an index (R46), and not
where the table says that the pair is exact. DEDUCED (log 35). -/
def cvtRounds (dst src : VTy) : Bool :=
  match src, dst with
  | _, .cb4 => false
  | .bf16, .f32 | .e4m3, .f32 | .e4m3, .bf16 | .e5m2, .f32 | .e5m2, .bf16 | .cb4, .f32 | .cb4, .bf16
  | .s8, .f32 | .s8, .bf16 | .n8, .f32 | .n8, .bf16 => false
  | .e2m1, d => d.isInt
  | s, d => !(s.isInt && d.isInt)

/-- R246: the weight formats. -/
def VTy.isWeight : VTy → Bool
  | .bf16 | .e4m3 | .e5m2 | .e2m1 | .cb4 => true
  | _ => false

/-- R213: the types of `vabs` and `vneg`. -/
def VTy.absNeg : VTy → Bool
  | .s32 | .f32 | .bf16 => true
  | _ => false

/-- R213: the types of the immediate `vbcast`. -/
def VTy.bcastImm : VTy → Bool
  | .s32 | .f32 | .bf16 | .e4m3 | .e5m2 | .n32 => true
  | _ => false

/-- R213: the types of `vgat`, and of `vbcast` from a scalar. -/
def VTy.lane32 : VTy → Bool
  | .s32 | .f32 | .bf16 | .n32 | .raw => true
  | _ => false

/-- R233: the number of elements per register of a type; RAW counts nibbles, as `vlut` reads it. -/
def VTy.count : VTy → Nat
  | .s32 | .f32 | .n32 => 32
  | .bf16 => 64
  | .e4m3 | .e5m2 | .s8 | .n8 => 128
  | .e2m1 | .cb4 | .raw => 256

/-- R233: PART is less than the ratio of the element counts. -/
def partOk (dst src : VTy) (part : Nat) : Bool :=
  if dst.count ≤ src.count then part < src.count / dst.count else part < dst.count / src.count

/-- R214: RND and SAT are zero unless the type is a floating type. DEDUCED (log 35). -/
def roundOk (ty : VTy) (rnd : RMode) (sat : Bool) : Bool :=
  ty.isFloat || (rnd == .rne && !sat)

/-- R234: the pairs `vcvt` converts: distinct codes, no RAW, and not two readings of one integer width. -/
def cvtPairOk (dst src : VTy) : Bool :=
  dst != .raw && src != .raw && dst.tag != src.tag

/-- R268: a literal entry number fits 5 bits. -/
def entryOk : RegOrImm → Bool
  | .imm v => v.toNat < 32
  | .reg _ => true

/-- R105, R224: the predicate field of a carry form is zero when no operand names it. -/
def carryPqOk (pq : PReg) (cin : CarryIn) (cout : CarryOut) : Bool :=
  cin == .p || cout == .p || pq == 0

/-- The well-formed instructions. -/
def wellFormed : Instr → Bool
  | .fence k s => k != .lb || s == .core
  | .chrecv _ _ ch | .chpeek _ _ ch | .chtag _ ch | .chskip _ ch => ch.val < 24
  | .trgArm x | .trgOff x => entryOk x
  | .barArr _ b _ | .barWait _ b => b.val < 15
  | .vadd _ _ _ _ ty r s | .vsub _ _ _ _ ty r s | .vmul _ _ _ _ ty r s
  | .vmin _ _ _ _ ty r s | .vmax _ _ _ _ ty r s => ty.arith && roundOk ty r s
  | .vfma _ _ _ _ _ ty _ _ | .vfms _ _ _ _ _ ty _ _ | .vfnma _ _ _ _ _ ty _ _ => ty.isFloat
  | .vabs _ _ _ ty r s | .vneg _ _ _ ty r s => ty.absNeg && roundOk ty r s
  | .vaddImm _ _ _ ty r s _ | .vsubImm _ _ _ ty r s _ | .vmulImm _ _ _ ty r s _
  | .vminImm _ _ _ ty r s _ | .vmaxImm _ _ _ ty r s _ => ty.arith && roundOk ty r s
  | .vrcp _ _ _ ty _ | .vrsqrt _ _ _ ty _ | .vexp2 _ _ _ ty _ | .vlog2 _ _ _ ty _
  | .vtanh _ _ _ ty _ | .vsgm _ _ _ ty _ => ty.isFloat
  | .vsqrt _ _ _ ty _ => ty.isFloat
  | .vshl _ _ _ _ ty | .vshr _ _ _ _ ty | .vsra _ _ _ _ ty | .vmulh _ _ _ _ ty => ty.isInt32
  | .vaddc _ _ _ pq i o | .vsubc _ _ _ pq i o => carryPqOk pq i o
  | .vcmp _ _ _ _ ty _ half => ty.arith && (!half || ty == .bf16)
  | .vbcast _ (.scalar _ ty) _ => ty.lane32
  | .vbcastImm _ _ ty r s _ =>
    ty.bcastImm && (roundOk ty r s || ((ty == .e4m3 || ty == .e5m2) && r == .rne))
  | .vredAdd _ _ _ ty | .vredMax _ _ _ ty | .vredMin _ _ _ ty => ty.arith
  | .vscanAdd _ _ _ ty _ _ | .vscanMax _ _ _ ty _ _ | .vscanMul _ _ _ ty _ _ =>
    ty == .f32 || ty.isInt32
  | .vcvt _ _ dst src part r _ =>
    cvtPairOk dst src && partOk dst src part && (r == .rne || cvtRounds dst src)
  | .vqnt _ _ vc dst src part _ =>
    (dst == .e4m3 || dst == .e5m2 || dst == .cb4 || (dst == .e2m1 && vc == 0)) && src.isFloat
      && partOk dst src part
  | .vdq _ _ dst src part _ _ =>
    dst.isFloat && (src == .e4m3 || src == .e5m2 || src == .e2m1 || src == .cb4) && partOk dst src part
  | .vlut _ _ dst src part => dst.isFloat && (src == .cb4 || src == .raw) && partOk dst src part
  | .vgat _ _ _ _ _ ty => ty.lane32
  | .mxLdw _ _ _ ty _ => ty.isWeight
  | .mxLdwc _ _ ty _ => ty.isWeight
  | .mxClr _ n => 1 ≤ n.val && n.val ≤ 512
  | .mxMac _ _ _ ty _ | .mxMacp _ _ _ ty _ _ _ => ty.isWeight
  | .mxRun ty _ n _ => ty.isWeight && n != 0
  | .dkSend ra rb _ _ _ _ g off => if g then ra == 0 && off == 0 else rb == 0
  | _ => true

end Sys2Proof
end

