-- ==== Sys2Proof/Decode.lean ====
section
/-! DEFINITION. Decoding of code lines, instruction values and Deck words (R99–R110, R142, R163, R213, R246,
R268, R293–R297, R332, R339), total and rejecting by name; after it the encoder of the same tables. -/

namespace Sys2Proof

/-- Why an instruction value or a Deck word is not an instruction (R108, R298). -/
inductive Reject where
  /-- The (MAJ, MINOR, TL) triple, or the OP, is unassigned. -/
  | unassigned
  /-- A reserved bit is set, or a field holds a value its description does not allow. -/
  | reserved
  deriving DecidableEq, Repr

/-! ### Formats (R105) -/

/-- R105: the CV fields; `pe` is PE and the two codes follow the bit positions of the table. -/
structure CVFields where
  a1 : Nat
  a2 : Nat
  a3 : Nat
  pe : Nat
  pm : Nat
  ty : Nat
  rnd : Nat
  sat : Nat
  x : Nat
  deriving DecidableEq, Repr

/-- R105: a tail by its format. -/
inductive Tail where
  | c0
  | cr (a1 a2 m : Nat)
  | ci (a1 a2 m imm : Nat)
  | cb (a1 a2 loff slot : Nat)
  | cv (f : CVFields)
  | cw (a1 a2 m imm : Nat)
  | cvi (f : CVFields) (imm : Nat)
  deriving DecidableEq, Repr

/-- R105: the tail length code of a format. -/
def Tail.tl : Tail → Nat
  | .c0 => 0 | .cr .. => 1 | .ci .. => 2 | .cb .. => 2 | .cv .. => 2 | .cw .. => 3 | .cvi .. => 3

/-- R105: bit 18 of a CV tail is reserved. -/
def cvReserved (t : Nat) : Bool := bitOf t 18

/-- R105: the CV fields of a 32-bit value. -/
def unpackCV (t : Nat) : CVFields :=
  { a1 := bits t 28 4, a2 := bits t 24 4, a3 := bits t 20 4, pe := bits t 19 1, pm := bits t 16 2,
    ty := bits t 12 4, rnd := bits t 10 2, sat := bits t 9 1, x := bits t 0 9 }

/-- R105: the tail of a head with a given major and tail length code. -/
def unpackTail (maj tl t : Nat) : Tail :=
  match tl with
  | 0 => .c0
  | 1 => .cr (bits t 12 4) (bits t 8 4) (bits t 0 8)
  | 2 =>
    if 1 ≤ maj ∧ maj ≤ 4 then .cb (bits t 28 4) (bits t 24 4) (bits t 5 19) (bits t 0 5)
    else if 0x28 ≤ maj ∧ maj ≤ 0x31 then .cv (unpackCV t)
    else .ci (bits t 28 4) (bits t 24 4) (bits t 16 8) (bits t 0 16)
  | _ =>
    if maj = 0x12 then .cw (bits t 44 4) (bits t 40 4) (bits t 32 8) (bits t 0 32)
    else .cvi (unpackCV (t / 2 ^ 16)) (bits t 0 16)

/-- R105: the reserved bit of the CV layout, in either format that holds it. -/
def tailReserved (maj tl t : Nat) : Bool :=
  if 0x28 ≤ maj ∧ maj ≤ 0x39 ∧ tl = 2 then cvReserved t
  else if maj ≠ 0x12 ∧ tl = 3 then cvReserved (t / 2 ^ 16)
  else false

/-! ### Fields -/

/-- A scalar register field (R107). -/
def sreg (n : Nat) : SReg := Fin.ofNat 16 n
/-- A vector register field; bit 3 is checked apart (R107). -/
def vreg (n : Nat) : VReg := Fin.ofNat 8 n
/-- A predicate register field; bits [3:2] are checked apart (R107). -/
def preg (n : Nat) : PReg := Fin.ofNat 4 n
/-- A weight register field; bits [3:2] are checked apart (R107). -/
def wreg (n : Nat) : WReg := Fin.ofNat 4 n

/-- The rounding mode of a 2-bit code (R38). -/
def rmodeOf : Nat → RMode
  | 0 => .rne | 1 => .rtz | 2 => .rdn | _ => .rup

/-- The type of a code; codes 11–15 are reserved (R106). -/
def vtyOf : Nat → Option VTy
  | 0 => some .s32 | 1 => some .f32 | 2 => some .bf16 | 3 => some .e4m3 | 4 => some .e5m2
  | 5 => some .e2m1 | 6 => some .cb4 | 7 => some .s8 | 8 => some .n32 | 9 => some .n8
  | 10 => some .raw | _ => none

/-- The direction of a code (R163). -/
def dirOf : Nat → Dir
  | 0 => .n | 1 => .e | 2 => .s | _ => .w

/-- The fence kind of a code; 5–7 are reserved (R163). -/
def fenceKindOf : Nat → Option FenceKind
  | 0 => some .acq | 1 => some .rel | 2 => some .full | 3 => some .lb | 4 => some .put | _ => none

/-- The scope of a code; 6–7 are reserved (R163). -/
def scopeOf : Nat → Option Scope
  | 0 => some .ctx | 1 => some .core | 2 => some .clu | 3 => some .reg | 4 => some .waf
  | 5 => some .pod | _ => none

/-- The condition of a code; 6 and 7 are reserved (R226). -/
def condOf : Nat → Option Cond
  | 0 => some .eq | 1 => some .ne | 2 => some .lt | 3 => some .le | 4 => some .gt | 5 => some .ge
  | _ => none

/-- The predicate of a form that allows PE (R105); PM is reserved when PE is 0 (R213). -/
def pmOf (f : CVFields) : Option PReg := if f.pe = 1 then some (preg f.pm) else none

/-- R213: PM is reserved when PE is 0. -/
def pmOk (f : CVFields) : Bool := f.pe == 1 || f.pm == 0

/-- No PE, PM, RND or SAT in a form that uses none of them. -/
def plainOk (f : CVFields) : Bool := f.pe == 0 && f.pm == 0 && f.rnd == 0 && f.sat == 0

/-- The decoded instruction when every field of it is allowed and every reserved bit is zero (R108). -/
def accept (ok : Bool) (i : Instr) : Except Reject Instr :=
  if ok && wellFormed i then .ok i else .error .reserved

/-- As `accept`, for a field code that names one of the table's values or none. -/
def acceptWith {α : Type} (o : Option α) (ok : Bool) (k : α → Instr) : Except Reject Instr :=
  match o with
  | some a => accept ok (k a)
  | none => .error .reserved

/-! ### Shapes shared by several rows -/

/-- C0 forms: no register, no tail. -/
def shC0 (h : Nat) (i : Instr) : Except Reject Instr := accept (h == 0) i

/-- `sd, sa, sb` in CR (R142). -/
def shSSS (k : SReg → SReg → SReg → Instr) (h a1 a2 m : Nat) : Except Reject Instr :=
  accept (m == 0) (k (sreg h) (sreg a1) (sreg a2))

/-- `sd, sa` in CR (R142). -/
def shSS (k : SReg → SReg → Instr) (h a1 a2 m : Nat) : Except Reject Instr :=
  accept (a2 == 0 && m == 0) (k (sreg h) (sreg a1))

/-- `reg, imm(sa)` in CI (R163). -/
def shMem (k : SReg → SReg → BitVec 16 → Instr) (h a1 a2 m imm : Nat) : Except Reject Instr :=
  accept (a2 == 0 && m == 0) (k (sreg h) (sreg a1) (BitVec.ofNat 16 imm))

/-- `imm(sa)` in CI without a register (R163). -/
def shMem0 (k : SReg → BitVec 16 → Instr) (h a1 a2 m imm : Nat) : Except Reject Instr :=
  accept (h == 0 && a2 == 0 && m == 0) (k (sreg a1) (BitVec.ofNat 16 imm))

/-- Shift-immediate forms (R142). -/
def shShift (k : SReg → SReg → Fin 64 → Instr) (h a1 a2 m imm : Nat) : Except Reject Instr :=
  accept (a2 == 0 && m == 0 && imm < 64) (k (sreg h) (sreg a1) (Fin.ofNat 64 imm))

/-- Branches that compare two registers (R142). -/
def shBr2 (k : SReg → SReg → Target → Instr) (h a1 a2 loff slot : Nat) : Except Reject Instr :=
  accept (h == 0) (k (sreg a1) (sreg a2) ⟨BitVec.ofNat 19 loff, BitVec.ofNat 5 slot⟩)

/-- Branches on a predicate (R142, R151). -/
def shBrP (k : PReg → Target → Instr) (h a1 a2 loff slot : Nat) : Except Reject Instr :=
  accept (h == 0 && a1 < 4 && a2 == 0) (k (preg a1) ⟨BitVec.ofNat 19 loff, BitVec.ofNat 5 slot⟩)

/-- Atomics other than `cas` (R163, R170). -/
def shAmo (k : SReg → SReg → SReg → BitVec 16 → Bool → Bool → Bool → Instr) (h a1 a2 m imm : Nat) :
    Except Reject Instr :=
  accept (m < 8) (k (sreg h) (sreg a2) (sreg a1) (BitVec.ofNat 16 imm) (bitOf m 2) (bitOf m 1) (bitOf m 0))

/-- A literal or a register, with R in a given bit of M (R268). -/
def regOrImm (r : Bool) (a1 imm : Nat) : RegOrImm :=
  if r then .reg (sreg a1) else .imm (BitVec.ofNat 16 imm)

/-- R268: A1 is zero in a literal form and IMM16 in a register form. -/
def regOrImmOk (r : Bool) (a1 imm : Nat) : Bool := if r then imm == 0 else a1 == 0

/-- `vd, va, vb` with predicate, type, rounding and saturation (R213). -/
def shVBin (k : VReg → VReg → VReg → Option PReg → VTy → RMode → Bool → Instr) (h : Nat) (f : CVFields) :
    Except Reject Instr :=
  acceptWith (vtyOf f.ty) (h < 8 && f.a1 < 8 && f.a2 < 8 && f.a3 == 0 && pmOk f && f.x == 0)
    (fun ty => k (vreg h) (vreg f.a1) (vreg f.a2) (pmOf f) ty (rmodeOf f.rnd) (f.sat == 1))

/-- `vd, va, vb, vc` with predicate, type, rounding and saturation (R213). -/
def shVTern (k : VReg → VReg → VReg → VReg → Option PReg → VTy → RMode → Bool → Instr) (h : Nat)
    (f : CVFields) : Except Reject Instr :=
  acceptWith (vtyOf f.ty) (h < 8 && f.a1 < 8 && f.a2 < 8 && f.a3 < 8 && pmOk f && f.x == 0)
    (fun ty => k (vreg h) (vreg f.a1) (vreg f.a2) (vreg f.a3) (pmOf f) ty (rmodeOf f.rnd) (f.sat == 1))

/-- `vd, va` with predicate, type, rounding and saturation (R213). -/
def shVUn (k : VReg → VReg → Option PReg → VTy → RMode → Bool → Instr) (h : Nat) (f : CVFields) :
    Except Reject Instr :=
  acceptWith (vtyOf f.ty) (h < 8 && f.a1 < 8 && f.a2 == 0 && f.a3 == 0 && pmOk f && f.x == 0)
    (fun ty => k (vreg h) (vreg f.a1) (pmOf f) ty (rmodeOf f.rnd) (f.sat == 1))

/-- The immediate arithmetic forms (R213, R219). -/
def shVImm (k : VReg → VReg → Option PReg → VTy → RMode → Bool → BitVec 16 → Instr) (h : Nat)
    (f : CVFields) (imm : Nat) : Except Reject Instr :=
  acceptWith (vtyOf f.ty) (h < 8 && f.a1 < 8 && f.a2 == 0 && f.a3 == 0 && pmOk f && f.x == 0)
    (fun ty => k (vreg h) (vreg f.a1) (pmOf f) ty (rmodeOf f.rnd) (f.sat == 1) (BitVec.ofNat 16 imm))

/-- The special functions with SAT and no rounding field (R213, R214). -/
def shVFn (k : VReg → VReg → Option PReg → VTy → Bool → Instr) (h : Nat) (f : CVFields) :
    Except Reject Instr :=
  acceptWith (vtyOf f.ty) (h < 8 && f.a1 < 8 && f.a2 == 0 && f.a3 == 0 && pmOk f && f.x == 0 && f.rnd == 0)
    (fun ty => k (vreg h) (vreg f.a1) (pmOf f) ty (f.sat == 1))

/-- Bit-moving forms `vd, va, vb` of TYPE 10 (R213). -/
def shVBits (k : VReg → VReg → VReg → Option PReg → Instr) (h : Nat) (f : CVFields) : Except Reject Instr :=
  accept (h < 8 && f.a1 < 8 && f.a2 < 8 && f.a3 == 0 && pmOk f && f.ty == 10 && f.rnd == 0 && f.sat == 0
      && f.x == 0)
    (k (vreg h) (vreg f.a1) (vreg f.a2) (pmOf f))

/-- The shift source of R223. -/
def shiftBy (f : CVFields) : ShiftBy :=
  if bitOf f.x 5 then .amt (Fin.ofNat 32 (bits f.x 0 5)) else .reg (vreg f.a2)

/-- The vector shifts (R213, R223): A2 is zero when I = 1; AMT is ignored when I = 0. -/
def shVShift (k : VReg → VReg → ShiftBy → Option PReg → VTy → Instr) (h : Nat) (f : CVFields) :
    Except Reject Instr :=
  acceptWith (vtyOf f.ty)
    (h < 8 && f.a1 < 8 && (if bitOf f.x 5 then f.a2 == 0 else f.a2 < 8) && f.a3 == 0 && pmOk f
      && f.rnd == 0 && f.sat == 0 && f.x < 64)
    (fun ty => k (vreg h) (vreg f.a1) (shiftBy f) (pmOf f) ty)

/-- The carry-in of a code (R224). -/
def carryInOf : Nat → CarryIn
  | 0 => .c0 | 1 => .c1 | 2 => .w | _ => .p

/-- The carry-out of a code; 11 is reserved (R224). -/
def carryOutOf : Nat → Option CarryOut
  | 0 => some .none | 1 => some .e | 2 => some .p | _ => none

/-- The carry forms (R213, R224). -/
def shCarry (k : VReg → VReg → VReg → PReg → CarryIn → CarryOut → Instr) (h : Nat) (f : CVFields) :
    Except Reject Instr :=
  acceptWith (carryOutOf (bits f.x 2 2))
    (h < 8 && f.a1 < 8 && f.a2 < 8 && f.a3 < 4 && plainOk f && f.ty == 8 && f.x < 16)
    (fun o => k (vreg h) (vreg f.a1) (vreg f.a2) (preg f.a3) (carryInOf (bits f.x 0 2)) o)

/-- Predicate forms `pd, pa, pb` (R213). -/
def shPPP (k : PReg → PReg → PReg → Instr) (h a1 a2 m : Nat) : Except Reject Instr :=
  accept (h < 4 && a1 < 4 && a2 < 4 && m == 0) (k (preg h) (preg a1) (preg a2))

/-- The reductions (R213). -/
def shRed (k : VReg → VReg → Option PReg → VTy → Instr) (h : Nat) (f : CVFields) : Except Reject Instr :=
  acceptWith (vtyOf f.ty)
    (h < 8 && f.a1 < 8 && f.a2 == 0 && f.a3 == 0 && pmOk f && f.rnd == 0 && f.sat == 0 && f.x == 0)
    (fun ty => k (vreg h) (vreg f.a1) (pmOf f) ty)

/-- The carry-in of a scan; 11 is reserved (R231). -/
def scanInOf (f : CVFields) : Option ScanIn :=
  match bits f.x 0 2 with
  | 0 => some .none
  | 1 => some .w
  | 2 => some (.vc (vreg f.a3) (bitOf f.x 4))
  | _ => none

/-- The scans (R213, R231): A3 is zero unless CIN = 10, and HLANE is ignored there. -/
def shScan (k : VReg → VReg → Option PReg → VTy → ScanIn → Bool → Instr) (h : Nat) (f : CVFields) :
    Except Reject Instr :=
  match vtyOf f.ty with
  | none => .error .reserved
  | some ty =>
    acceptWith (scanInOf f)
      (h < 8 && f.a1 < 8 && f.a2 == 0 && (if bits f.x 0 2 = 2 then f.a3 < 8 else f.a3 == 0) && pmOk f
        && f.rnd == 0 && f.sat == 0 && f.x < 32 && bits f.x 2 2 < 2)
      (fun c => k (vreg h) (vreg f.a1) (pmOf f) ty c (bits f.x 2 2 == 1))

/-- The pair source of `vlrec`; 11 is reserved (R232). -/
def pairInOf : Nat → Option PairIn
  | 0 => some .none | 1 => some .w | 2 => some .vcPair | _ => none

/-- The conversion family's type fields: TYPE and X[3:0] (R213). -/
def twoTypes (f : CVFields) : Option (VTy × VTy) :=
  match vtyOf f.ty, vtyOf (bits f.x 0 4) with
  | some d, some s => some (d, s)
  | _, _ => none

/-- The SEL-less `sd`, `imm` and stream forms of CR channel instructions (R163). -/
def shChan2 (k : VReg → SReg → Fin 32 → Instr) (h a1 a2 m : Nat) : Except Reject Instr :=
  accept (h < 8 && a2 == 0 && m < 32) (k (vreg h) (sreg a1) (Fin.ofNat 32 m))

/-- `sd, ch` (R163). -/
def shChan1 (k : SReg → Fin 32 → Instr) (h a1 a2 m : Nat) : Except Reject Instr :=
  accept (a1 == 0 && a2 == 0 && m < 32) (k (sreg h) (Fin.ofNat 32 m))

/-- `mx` fields that every row leaves reserved (R246). -/
def mxOk (f : CVFields) : Bool := f.a2 == 0 && f.a3 == 0 && plainOk f

/-! ### The opcode map (R110) -/

/-- Majors 0x00–0x04. -/
def decodeControl (maj minor h : Nat) (t : Tail) : Except Reject Instr :=
  match maj, minor, t with
  | 0x00, 0, .c0 => shC0 h .nop
  | 0x00, 1, .c0 => shC0 h .endHandler
  | 0x00, 2, .c0 => shC0 h .yield
  | 0x00, 3, .c0 => shC0 h .ret
  | 0x01, 0, .cb a1 a2 l s =>
    accept (h == 0 && a1 == 0 && a2 == 0) (.br ⟨BitVec.ofNat 19 l, BitVec.ofNat 5 s⟩)
  | 0x01, 1, .cb a1 a2 l s =>
    accept (h == 0 && a1 == 0 && a2 == 0) (.call ⟨BitVec.ofNat 19 l, BitVec.ofNat 5 s⟩)
  | 0x02, 0, .cb a1 a2 l s => shBr2 .bEq h a1 a2 l s
  | 0x02, 1, .cb a1 a2 l s => shBr2 .bNe h a1 a2 l s
  | 0x02, 2, .cb a1 a2 l s => shBr2 .bLt h a1 a2 l s
  | 0x02, 3, .cb a1 a2 l s => shBr2 .bGe h a1 a2 l s
  | 0x02, 4, .cb a1 a2 l s => shBr2 .bLtn h a1 a2 l s
  | 0x02, 5, .cb a1 a2 l s => shBr2 .bGen h a1 a2 l s
  | 0x03, 0, .cb a1 a2 l s => shBrP .bpAny h a1 a2 l s
  | 0x03, 1, .cb a1 a2 l s => shBrP .bpAll h a1 a2 l s
  | 0x03, 2, .cb a1 a2 l s => shBrP .bpNone h a1 a2 l s
  | 0x04, 0, .cb a1 a2 l s =>
    accept (h == 0 && a2 == 0) (.loop (sreg a1) ⟨BitVec.ofNat 19 l, BitVec.ofNat 5 s⟩)
  | _, _, _ => .error .unassigned

/-- Majors 0x08–0x12. -/
def decodeScalar (maj minor h : Nat) (t : Tail) : Except Reject Instr :=
  match maj, minor, t with
  | 0x08, 0, .cr a1 a2 m => shSSS .add h a1 a2 m
  | 0x08, 1, .cr a1 a2 m => shSSS .sub h a1 a2 m
  | 0x08, 2, .cr a1 a2 m => shSSS .mul h a1 a2 m
  | 0x08, 3, .cr a1 a2 m => shSSS .mulh h a1 a2 m
  | 0x08, 4, .cr a1 a2 m => shSSS .mulhn h a1 a2 m
  | 0x08, 5, .cr a1 a2 m => shSSS .div h a1 a2 m
  | 0x08, 6, .cr a1 a2 m => shSSS .divn h a1 a2 m
  | 0x08, 7, .cr a1 a2 m => shSSS .rem h a1 a2 m
  | 0x08, 8, .cr a1 a2 m => shSSS .remn h a1 a2 m
  | 0x09, 0, .cr a1 a2 m => shSSS .and h a1 a2 m
  | 0x09, 1, .cr a1 a2 m => shSSS .or h a1 a2 m
  | 0x09, 2, .cr a1 a2 m => shSSS .xor h a1 a2 m
  | 0x09, 3, .cr a1 a2 m => shSSS .andn h a1 a2 m
  | 0x09, 4, .cr a1 a2 m => shSSS .shl h a1 a2 m
  | 0x09, 5, .cr a1 a2 m => shSSS .shr h a1 a2 m
  | 0x09, 6, .cr a1 a2 m => shSSS .sra h a1 a2 m
  | 0x0A, 0, .cr a1 a2 m => shSSS .min h a1 a2 m
  | 0x0A, 1, .cr a1 a2 m => shSSS .max h a1 a2 m
  | 0x0A, 2, .cr a1 a2 m => shSSS .minn h a1 a2 m
  | 0x0A, 3, .cr a1 a2 m => shSSS .maxn h a1 a2 m
  | 0x0A, 4, .cr a1 a2 m => shSSS .slt h a1 a2 m
  | 0x0A, 5, .cr a1 a2 m => shSSS .sltn h a1 a2 m
  | 0x0B, 0, .ci a1 a2 m imm =>
    accept (m < 16 && imm < 64) (.sel (sreg h) (sreg a1) (sreg a2) (sreg m) (Fin.ofNat 64 imm))
  | 0x0B, 1, .cr a1 a2 m => shSS .popc h a1 a2 m
  | 0x0B, 2, .cr a1 a2 m => shSS .clz h a1 a2 m
  | 0x0B, 3, .cr a1 a2 m => shSS .ctz h a1 a2 m
  | 0x10, 0, .ci a1 a2 m imm => shMem .addi h a1 a2 m imm
  | 0x10, 1, .ci a1 a2 m imm => shMem .andi h a1 a2 m imm
  | 0x10, 2, .ci a1 a2 m imm => shMem .ori h a1 a2 m imm
  | 0x10, 3, .ci a1 a2 m imm => shMem .xori h a1 a2 m imm
  | 0x11, 0, .ci a1 a2 m imm => shShift .shli h a1 a2 m imm
  | 0x11, 1, .ci a1 a2 m imm => shShift .shri h a1 a2 m imm
  | 0x11, 2, .ci a1 a2 m imm => shShift .srai h a1 a2 m imm
  | 0x12, 0, .cw a1 a2 m imm =>
    accept (a1 == 0 && a2 == 0 && m == 0) (.movi (sreg h) (BitVec.ofNat 32 imm))
  | 0x12, 1, .ci a1 a2 m imm =>
    accept (a1 == 0 && a2 == 0 && m < 4) (.movk (sreg h) (BitVec.ofNat 16 imm) (Fin.ofNat 4 m))
  | _, _, _ => .error .unassigned

/-- Majors 0x14–0x1E. -/
def decodeMemory (maj minor h : Nat) (t : Tail) : Except Reject Instr :=
  match maj, minor, t with
  | 0x14, 0, .ci a1 a2 m imm => shMem .ldS8 h a1 a2 m imm
  | 0x14, 1, .ci a1 a2 m imm => shMem .ldS16 h a1 a2 m imm
  | 0x14, 2, .ci a1 a2 m imm => shMem .ldS32 h a1 a2 m imm
  | 0x14, 3, .ci a1 a2 m imm => shMem .ldS64 h a1 a2 m imm
  | 0x14, 4, .ci a1 a2 m imm => shMem .ldN8 h a1 a2 m imm
  | 0x14, 5, .ci a1 a2 m imm => shMem .ldN16 h a1 a2 m imm
  | 0x14, 6, .ci a1 a2 m imm => shMem .ldN32 h a1 a2 m imm
  | 0x15, 0, .ci a1 a2 m imm => shMem .stN8 h a1 a2 m imm
  | 0x15, 1, .ci a1 a2 m imm => shMem .stN16 h a1 a2 m imm
  | 0x15, 2, .ci a1 a2 m imm => shMem .stN32 h a1 a2 m imm
  | 0x15, 3, .ci a1 a2 m imm => shMem .stN64 h a1 a2 m imm
  | 0x16, 0, .ci a1 a2 m imm => shMem0 .pf h a1 a2 m imm
  | 0x18, 0, .ci a1 a2 m imm => shMem .ldWf h a1 a2 m imm
  | 0x18, 1, .ci a1 a2 m imm => shMem .ldWfe h a1 a2 m imm
  | 0x18, 2, .ci a1 a2 m imm => shMem .stWef h a1 a2 m imm
  | 0x18, 3, .ci a1 a2 m imm => shMem .stSf h a1 a2 m imm
  | 0x18, 4, .ci a1 a2 m imm => shMem0 .feSet h a1 a2 m imm
  | 0x18, 5, .ci a1 a2 m imm => shMem0 .feClr h a1 a2 m imm
  | 0x18, 6, .ci a1 a2 m imm => shMem .feTst h a1 a2 m imm
  | 0x19, 0, .ci a1 a2 m imm => shAmo .amoAdd h a1 a2 m imm
  | 0x19, 1, .ci a1 a2 m imm => shAmo .amoMin h a1 a2 m imm
  | 0x19, 2, .ci a1 a2 m imm => shAmo .amoMax h a1 a2 m imm
  | 0x19, 3, .ci a1 a2 m imm => shAmo .amoAnd h a1 a2 m imm
  | 0x19, 4, .ci a1 a2 m imm => shAmo .amoOr h a1 a2 m imm
  | 0x19, 5, .ci a1 a2 m imm => shAmo .amoXchg h a1 a2 m imm
  | 0x19, 6, .ci a1 a2 m imm =>
    accept (!bitOf m 3)
      (.amoCas (sreg h) (sreg a2) (sreg (bits m 4 4)) (sreg a1) (BitVec.ofNat 16 imm)
        (bitOf m 2) (bitOf m 1) (bitOf m 0))
  | 0x1C, 0, .ci a1 a2 m imm =>
    accept (a2 == 0 && (m == 2 || m == 3)) (.get (sreg h) (sreg a1) (BitVec.ofNat 16 imm) (m == 3))
  | 0x1C, 1, .ci a1 a2 m imm =>
    accept (h < 8 && a2 == 0 && m == 0) (.getv (vreg h) (sreg a1) (BitVec.ofNat 16 imm))
  | 0x1C, 2, .ci a1 a2 m imm =>
    accept (a2 == 0 && m < 8 && bitOf m 1) (.put (sreg h) (sreg a1) (BitVec.ofNat 16 imm) (bitOf m 0) (bitOf m 2))
  | 0x1C, 3, .ci a1 a2 m imm =>
    accept (h < 8 && a2 == 0 && (m == 0 || m == 4))
      (.putv (vreg h) (sreg a1) (BitVec.ofNat 16 imm) (m == 4))
  | 0x1C, 4, .ci a1 a2 m imm =>
    accept (m < 32 && imm == 0) (.putH (sreg h) (sreg a1) (sreg a2) (Fin.ofNat 32 m))
  | 0x1C, 5, .ci a1 a2 m imm =>
    accept (m < 64 && imm == 0) (.putK (sreg h) (sreg a1) (sreg a2) (Fin.ofNat 64 m))
  | 0x1D, 0, .ci a1 a2 m imm =>
    accept (m < 64 && imm == 0) (.cpStart (sreg h) (sreg a1) (sreg a2) (Fin.ofNat 64 m))
  | 0x1D, 1, .cr a1 a2 m =>
    match fenceKindOf (bits m 0 3), scopeOf (bits m 4 3) with
    | some k, some s => accept (h == 0 && a1 == 0 && a2 == 0 && m < 128 && !bitOf m 3) (.fence k s)
    | _, _ => .error .reserved
  | 0x1E, 0, .ci a1 a2 m imm => accept (h == 0 && m == 0 && imm == 0) (.l1Wb (sreg a1) (sreg a2))
  | 0x1E, 1, .ci a1 a2 m imm => accept (h == 0 && m == 0 && imm == 0) (.l1Inv (sreg a1) (sreg a2))
  | 0x1E, 2, .ci a1 a2 m imm => accept (h == 0 && m == 0 && imm == 0) (.l2Inv (sreg a1) (sreg a2))
  | _, _, _ => .error .unassigned

/-- Majors 0x20–0x26. -/
def decodeSync (maj minor h : Nat) (t : Tail) : Except Reject Instr :=
  match maj, minor, t with
  | 0x20, 0, .cr a1 a2 m => shChan2 .chrecv h a1 a2 m
  | 0x20, 1, .cr a1 a2 m =>
    accept (h < 8 && a2 == 0 && m < 64) (.chsend (vreg h) (sreg a1) (Fin.ofNat 64 m))
  | 0x20, 2, .cr a1 a2 m => shChan2 .chpeek h a1 a2 m
  | 0x20, 3, .cr a1 a2 m => shChan1 .chtag h a1 a2 m
  | 0x20, 4, .cr a1 a2 m => accept (h == 0 && a2 == 0 && m < 64) (.chmark (sreg a1) (Fin.ofNat 64 m))
  | 0x20, 5, .cr a1 a2 m => shChan1 .chskip h a1 a2 m
  | 0x21, 0, .cr a1 a2 m =>
    accept (h < 8 && a1 == 0 && a2 == 0 && m < 4) (.nbPut (vreg h) (dirOf m))
  | 0x21, 1, .cr a1 a2 m =>
    accept (h < 8 && a1 == 0 && a2 == 0 && m < 4) (.nbGet (vreg h) (dirOf m))
  | 0x21, 2, .cr a1 a2 m => accept (a1 == 0 && a2 == 0 && m < 4) (.nbTst (sreg h) (dirOf m))
  | 0x24, 0, .ci a1 a2 m imm =>
    accept (h == 0 && a2 == 0 && m < 2 && regOrImmOk (m == 1) a1 imm) (.trgArm (regOrImm (m == 1) a1 imm))
  | 0x24, 1, .ci a1 a2 m imm =>
    accept (h == 0 && a2 == 0 && m < 2 && regOrImmOk (m == 1) a1 imm) (.trgOff (regOrImm (m == 1) a1 imm))
  | 0x24, 2, .ci a1 a2 m imm =>
    accept (h == 0 && a2 == 0 && m < 2 && regOrImmOk (m == 1) a1 imm) (.flgSet (regOrImm (m == 1) a1 imm))
  | 0x24, 3, .ci a1 a2 m imm =>
    accept (h == 0 && a2 == 0 && m < 2 && regOrImmOk (m == 1) a1 imm) (.flgClr (regOrImm (m == 1) a1 imm))
  | 0x25, 0, .ci a1 a2 m imm =>
    accept (h == 0 && a2 == 0 && m < 128 && regOrImmOk (bitOf m 6) a1 imm)
      (.cntAdd (Fin.ofNat 64 m) (regOrImm (bitOf m 6) a1 imm))
  | 0x25, 1, .ci a1 a2 m imm =>
    accept (h == 0 && a2 == 0 && m < 128 && regOrImmOk (bitOf m 6) a1 imm)
      (.cntSet (Fin.ofNat 64 m) (regOrImm (bitOf m 6) a1 imm))
  | 0x25, 2, .ci a1 a2 m imm =>
    accept (a2 == 0 && regOrImmOk (bitOf m 6) a1 imm)
      (.cntWait (sreg h) (Fin.ofNat 64 m) (regOrImm (bitOf m 6) a1 imm) (bitOf m 7))
  | 0x25, 3, .ci a1 a2 m imm =>
    accept (a1 == 0 && a2 == 0 && m < 64 && imm == 0) (.cntRd (sreg h) (Fin.ofNat 64 m))
  | 0x26, 0, .cr a1 a2 m =>
    accept (a1 == 0 && a2 == 0 && m < 32) (.barArr (sreg h) (Fin.ofNat 16 m) (bitOf m 4))
  | 0x26, 1, .cr a1 a2 m =>
    accept (h == 0 && a2 == 0 && m < 16) (.barWait (sreg a1) (Fin.ofNat 16 m))
  | _, _, _ => .error .unassigned

/-- Majors 0x28–0x2B. -/
def decodeVecArith (maj minor h : Nat) (t : Tail) : Except Reject Instr :=
  match maj, minor, t with
  | 0x28, 0, .cv f => shVBin .vadd h f
  | 0x28, 1, .cv f => shVBin .vsub h f
  | 0x28, 2, .cv f => shVBin .vmul h f
  | 0x28, 3, .cv f => shVTern .vfma h f
  | 0x28, 4, .cv f => shVTern .vfms h f
  | 0x28, 5, .cv f => shVTern .vfnma h f
  | 0x28, 6, .cv f => shVBin .vmin h f
  | 0x28, 7, .cv f => shVBin .vmax h f
  | 0x28, 8, .cv f => shVUn .vabs h f
  | 0x28, 9, .cv f => shVUn .vneg h f
  | 0x28, 0, .cvi f imm => shVImm .vaddImm h f imm
  | 0x28, 1, .cvi f imm => shVImm .vsubImm h f imm
  | 0x28, 2, .cvi f imm => shVImm .vmulImm h f imm
  | 0x28, 6, .cvi f imm => shVImm .vminImm h f imm
  | 0x28, 7, .cvi f imm => shVImm .vmaxImm h f imm
  | 0x29, 0, .cv f => shVFn .vrcp h f
  | 0x29, 1, .cv f => shVFn .vrsqrt h f
  | 0x29, 2, .cv f =>
    acceptWith (vtyOf f.ty) (h < 8 && f.a1 < 8 && f.a2 == 0 && f.a3 == 0 && pmOk f && f.x == 0 && f.sat == 0)
      (fun ty => .vsqrt (vreg h) (vreg f.a1) (pmOf f) ty (rmodeOf f.rnd))
  | 0x29, 3, .cv f => shVFn .vexp2 h f
  | 0x29, 4, .cv f => shVFn .vlog2 h f
  | 0x29, 5, .cv f => shVFn .vtanh h f
  | 0x29, 6, .cv f => shVFn .vsgm h f
  | 0x2A, 0, .cv f => shVBits .vand h f
  | 0x2A, 1, .cv f => shVBits .vor h f
  | 0x2A, 2, .cv f => shVBits .vxor h f
  | 0x2A, 3, .cv f => shVShift .vshl h f
  | 0x2A, 4, .cv f => shVShift .vshr h f
  | 0x2A, 5, .cv f => shVShift .vsra h f
  | 0x2A, 6, .cv f =>
    acceptWith (vtyOf f.ty)
      (h < 8 && f.a1 < 8 && f.a2 < 8 && f.a3 == 0 && pmOk f && f.rnd == 0 && f.sat == 0 && f.x == 0)
      (fun ty => .vmulh (vreg h) (vreg f.a1) (vreg f.a2) (pmOf f) ty)
  | 0x2A, 7, .cv f => shCarry .vaddc h f
  | 0x2A, 8, .cv f => shCarry .vsubc h f
  | 0x2B, 0, .cv f =>
    match vtyOf f.ty with
    | none => .error .reserved
    | some ty =>
      acceptWith (condOf (bits f.x 0 3))
        (h < 4 && f.a1 < 8 && f.a2 < 8 && f.a3 == 0 && pmOk f && f.rnd == 0 && f.sat == 0 && f.x < 16)
        (fun c => .vcmp (preg h) (vreg f.a1) (vreg f.a2) (pmOf f) ty c (bitOf f.x 3))
  | 0x2B, 1, .cv f =>
    accept (h < 8 && f.a1 < 8 && f.a2 < 8 && f.a3 == 0 && f.pe == 1 && f.ty == 10 && f.rnd == 0 && f.sat == 0
        && f.x == 0)
      (.vsel (vreg h) (vreg f.a1) (vreg f.a2) (preg f.pm))
  | _, _, _ => .error .unassigned

/-- Majors 0x2C–0x31. DESIGN CHOICE (log 112). -/
def decodeVecMove (maj minor h : Nat) (t : Tail) : Except Reject Instr :=
  match maj, minor, t with
  | 0x2C, 0, .cr a1 a2 m => shPPP .pand h a1 a2 m
  | 0x2C, 1, .cr a1 a2 m => shPPP .por h a1 a2 m
  | 0x2C, 2, .cr a1 a2 m => shPPP .pxor h a1 a2 m
  | 0x2C, 3, .cr a1 a2 m => accept (h < 4 && a1 < 4 && a2 == 0 && m == 0) (.pnot (preg h) (preg a1))
  | 0x2C, 4, .cr a1 a2 m => accept (a1 < 4 && a2 == 0 && m == 0) (.pcnt (sreg h) (preg a1))
  | 0x2C, 5, .cr a1 a2 m => accept (a1 < 4 && a2 == 0 && m == 0) (.pfirst (sreg h) (preg a1))
  | 0x2D, 0, .cv f =>
    accept (h < 8 && f.a1 < 8 && f.a2 == 0 && f.a3 == 0 && pmOk f && f.ty == 10 && f.rnd == 0 && f.sat == 0
        && f.x == 0)
      (.vmov (vreg h) (vreg f.a1) (pmOf f))
  | 0x2D, 1, .cv f =>
    let ok := h < 8 && f.a2 == 0 && f.a3 == 0 && pmOk f && f.rnd == 0 && f.sat == 0 && f.x < 64
    if bitOf f.x 5 then
      acceptWith (vtyOf f.ty) ok (fun ty => .vbcast (vreg h) (.scalar (sreg f.a1) ty) (pmOf f))
    else
      accept (ok && f.a1 < 8 && f.ty == 10)
        (.vbcast (vreg h) (.lane (vreg f.a1) (Fin.ofNat 32 (bits f.x 0 5))) (pmOf f))
  | 0x2D, 1, .cvi f imm =>
    acceptWith (vtyOf f.ty) (h < 8 && f.a1 == 0 && f.a2 == 0 && f.a3 == 0 && pmOk f && f.x == 0)
      (fun ty => .vbcastImm (vreg h) (pmOf f) ty (rmodeOf f.rnd) (f.sat == 1) (BitVec.ofNat 16 imm))
  | 0x2D, 2, .cv f =>
    accept (h < 8 && f.a2 == 0 && f.a3 == 0 && plainOk f && f.ty == 10 && f.x < 32)
      (.vins (vreg h) (sreg f.a1) (Fin.ofNat 32 f.x))
  | 0x2D, 3, .cv f =>
    accept (f.a1 < 8 && f.a2 == 0 && f.a3 == 0 && plainOk f && f.ty == 10 && f.x < 32)
      (.vext (sreg h) (vreg f.a1) (Fin.ofNat 32 f.x))
  | 0x2D, 4, .cv f => shVBits .vperm h f
  | 0x2D, 5, .cv f =>
    accept (h < 8 && f.a1 < 8 && f.a2 == 0 && f.a3 == 0 && pmOk f && f.ty == 10 && f.rnd == 0 && f.sat == 0
        && f.x < 32)
      (.vrot (vreg h) (vreg f.a1) (Fin.ofNat 32 f.x) (pmOf f))
  | 0x2D, 6, .cv f =>
    accept (h < 8 && f.a1 < 8 && f.a2 < 8 && f.a3 == 0 && pmOk f && f.ty == 10 && f.rnd == 0 && f.sat == 0
        && f.x < 32)
      (.vshf (vreg h) (vreg f.a1) (vreg f.a2) (Fin.ofNat 32 f.x) (pmOf f))
  | 0x2E, 0, .cv f => shRed .vredAdd h f
  | 0x2E, 1, .cv f => shRed .vredMax h f
  | 0x2E, 2, .cv f => shRed .vredMin h f
  | 0x2E, 3, .cv f => shScan .vscanAdd h f
  | 0x2E, 4, .cv f => shScan .vscanMax h f
  | 0x2E, 5, .cv f => shScan .vscanMul h f
  | 0x2E, 6, .cv f =>
    acceptWith (pairInOf (bits f.x 0 2))
      (h < 8 && f.a1 < 8 && f.a2 < 8 && f.a3 < 8 && plainOk f && f.ty == 1 && f.x < 32 && bits f.x 2 2 < 2)
      (fun c => .vlrec (vreg h) (vreg f.a1) (vreg f.a2) (vreg f.a3) (bitOf f.x 4) c (bits f.x 2 2 == 1))
  | 0x2F, 0, .cv f =>
    acceptWith (twoTypes f) (h < 8 && f.a1 < 8 && f.a2 == 0 && f.a3 == 0 && f.pe == 0 && f.pm == 0 && f.x < 128)
      (fun p => .vcvt (vreg h) (vreg f.a1) p.1 p.2 (Fin.ofNat 8 (bits f.x 4 3)) (rmodeOf f.rnd) (f.sat == 1))
  | 0x2F, 1, .cv f =>
    acceptWith (twoTypes f)
      (h < 8 && f.a1 < 8 && f.a2 == 0 && f.a3 < 8 && f.pe == 0 && f.pm == 0 && f.sat == 0 && f.x < 128)
      (fun p => .vqnt (vreg h) (vreg f.a1) (vreg f.a3) p.1 p.2 (Fin.ofNat 8 (bits f.x 4 3)) (rmodeOf f.rnd))
  | 0x2F, 2, .cv f =>
    acceptWith (twoTypes f) (h < 8 && f.a1 < 8 && f.a2 == 0 && f.a3 == 0 && f.pe == 0 && f.pm == 0 && f.x < 128)
      (fun p => .vdq (vreg h) (vreg f.a1) p.1 p.2 (Fin.ofNat 8 (bits f.x 4 3)) (rmodeOf f.rnd) (f.sat == 1))
  | 0x2F, 3, .cv f =>
    acceptWith (twoTypes f) (h < 8 && f.a1 < 8 && f.a2 == 0 && f.a3 == 0 && plainOk f && f.x < 128)
      (fun p => .vlut (vreg h) (vreg f.a1) p.1 p.2 (Fin.ofNat 8 (bits f.x 4 3)))
  | 0x2F, 4, .cv f =>
    accept (h == 0 && f.a1 < 8 && f.a2 == 0 && f.a3 == 0 && plainOk f && f.ty == 10 && f.x == 0)
      (.ctabWr (vreg f.a1))
  | 0x30, 0, .cvi f imm =>
    acceptWith (vtyOf f.ty)
      (h < 8 && f.a2 == 0 && f.a3 == 0 && pmOk f && f.rnd == 0 && f.sat == 0 && f.x == 0)
      (fun ty => .vld (vreg h) (sreg f.a1) (BitVec.ofNat 16 imm) (pmOf f) ty)
  | 0x30, 1, .cvi f imm =>
    accept (h < 8 && f.a2 == 0 && f.a3 == 0 && pmOk f && f.ty == 10 && f.rnd == 0 && f.sat == 0 && f.x == 0)
      (.vst (vreg h) (sreg f.a1) (BitVec.ofNat 16 imm) (pmOf f))
  | 0x30, 2, .cvi f imm =>
    acceptWith (vtyOf f.ty)
      (h < 8 && f.a2 < 8 && f.a3 == 0 && pmOk f && f.rnd == 0 && f.sat == 0 && f.x == 0)
      (fun ty => .vgat (vreg h) (vreg f.a2) (sreg f.a1) (BitVec.ofNat 16 imm) (pmOf f) ty)
  | 0x30, 3, .cvi f imm =>
    accept (h < 8 && f.a2 < 8 && f.a3 == 0 && pmOk f && f.ty == 10 && f.rnd == 0 && f.sat == 0 && f.x == 0)
      (.vsct (vreg h) (vreg f.a2) (sreg f.a1) (BitVec.ofNat 16 imm) (pmOf f))
  | 0x31, 0, .cv f =>
    accept (f.a1 < 8 && f.a2 == 0 && f.a3 == 0 && plainOk f && f.ty == 10 && f.x < 2)
      (.vtagRd (sreg h) (vreg f.a1) (f.x == 1))
  | 0x31, 1, .cv f =>
    accept (h < 8 && f.a2 == 0 && f.a3 == 0 && plainOk f && f.ty == 10 && f.x < 64)
      (.vtagSet (vreg h) (sreg f.a1) (BitVec.ofNat 4 f.x) (bitOf f.x 4) (bitOf f.x 5))
  | _, _, _ => .error .unassigned

/-- Majors 0x38–0x39 (R246). DESIGN CHOICE (log 96). -/
def decodeMatrix (maj minor h : Nat) (t : Tail) : Except Reject Instr :=
  match maj, minor, t with
  | 0x38, 0, .cvi f imm =>
    acceptWith (vtyOf f.ty) (h < 4 && mxOk f && f.x < 2)
      (fun ty => .mxLdw (wreg h) (sreg f.a1) (BitVec.ofNat 16 imm) ty (f.x == 1))
  | 0x38, 1, .cvi f imm =>
    acceptWith (vtyOf f.ty) (h < 4 && f.a1 == 0 && mxOk f && f.x < 2 && imm < 32)
      (fun ty => .mxLdwc (wreg h) (Fin.ofNat 32 imm) ty (f.x == 1))
  | 0x38, 2, .cvi f imm =>
    accept (h < 4 && f.a1 < 8 && mxOk f && f.ty == 0 && f.x < 2 && imm == 0)
      (.mxScw (wreg h) (vreg f.a1) (f.x == 1))
  | 0x38, 3, .cvi f imm =>
    accept (mxOk f && f.ty == 0 && f.x == 0 && imm < 2 && (imm == 0 || f.a1 == 0))
      (.mxCfg (sreg h) (if imm = 1 then none else some (sreg f.a1)))
  | 0x38, 4, .cvi f imm =>
    accept (h == 0 && f.a1 == 0 && mxOk f && f.ty == 0 && imm < 1024)
      (.mxClr (Fin.ofNat 512 f.x) (Fin.ofNat 1024 imm))
  | 0x39, 0, .cvi f imm =>
    acceptWith (vtyOf f.ty) (h < 4 && f.a1 < 8 && mxOk f && imm < 2)
      (fun ty => .mxMac (wreg h) (vreg f.a1) (Fin.ofNat 512 f.x) ty (imm == 1))
  | 0x39, 1, .cvi f imm =>
    let cin : Option MacIn :=
      match bits imm 1 2 with | 0 => some .acc | 1 => some .zero | 2 => some .w | _ => none
    let cout : Option MacOut :=
      match bits imm 3 2 with | 0 => some .acc | 1 => some .e | 2 => some .both | _ => none
    match vtyOf f.ty, cin, cout with
    | some ty, some ci, some co =>
      accept (h < 4 && f.a1 < 8 && mxOk f && imm < 32)
        (.mxMacp (wreg h) (vreg f.a1) (Fin.ofNat 512 f.x) ty (bitOf imm 0) ci co)
    | _, _, _ => .error .reserved
  | 0x39, 2, .cvi f imm =>
    acceptWith (vtyOf f.ty)
      (h == 0 && f.a1 == 0 && mxOk f && f.x < 256 && (bitOf f.x 6 || bits f.x 0 6 == 0))
      (fun ty => .mxRun ty (bitOf f.x 7) (BitVec.ofNat 16 imm)
        (if bitOf f.x 6 then some (Fin.ofNat 64 (bits f.x 0 6)) else none))
  | 0x39, 3, .cvi f imm =>
    accept (h < 8 && f.a1 == 0 && mxOk f && f.ty == 0 && imm < 2)
      (.mxRd (vreg h) (Fin.ofNat 512 f.x) (imm == 1))
  | 0x39, 4, .cvi f imm =>
    accept (h == 0 && f.a1 == 0 && mxOk f && f.ty == 0 && f.x == 0 && imm == 0) .mxSync
  | _, _, _ => .error .unassigned

/-- Majors 0x3C–0x3E (R293–R296, R332, R339). -/
def decodeSystem (maj minor h : Nat) (t : Tail) : Except Reject Instr :=
  match maj, minor, t with
  | 0x3C, 0, .ci a1 a2 m imm =>
    accept (m == 0 && imm < 8) (.collKick (sreg a1) (sreg a2) (sreg h) (Fin.ofNat 8 imm))
  | 0x3C, 1, .ci a1 a2 m imm =>
    accept (a2 == 0 && m < 4 && imm == 0) (.collWait (sreg h) (sreg a1) (Fin.ofNat 4 m))
  | 0x3C, 2, .ci a1 a2 m imm => accept (a2 == 0 && m == 0 && imm == 0) (.collRng (sreg h) (sreg a1))
  | 0x3C, 3, .ci a1 a2 m imm => accept (a1 == 0 && a2 == 0 && m == 0 && imm == 0) (.sealArr (sreg h))
  | 0x3C, 4, .ci a1 a2 m imm => accept (a1 == 0 && a2 == 0 && m == 0 && imm == 0) (.sealWait (sreg h))
  | 0x3C, 5, .ci a1 a2 m imm => accept (h == 0 && a1 == 0 && a2 == 0 && m == 0 && imm == 0) .sealReq
  | 0x3C, 6, .ci a1 a2 m imm =>
    accept (a1 == 0 && a2 == 0 && m == 0 && imm < 64) (.egrNow (sreg h) (Fin.ofNat 64 imm))
  | 0x3D, 0, .ci a1 a2 m imm =>
    accept (a1 == 0 && a2 == 0 && m == 0 && imm < 8192) (.csrRd (sreg h) (Fin.ofNat 8192 imm))
  | 0x3D, 1, .ci a1 a2 m imm =>
    accept (a2 == 0 && m == 0 && imm < 8192) (.csrWr (sreg h) (sreg a1) (Fin.ofNat 8192 imm))
  | 0x3D, 2, .ci a1 a2 m imm =>
    accept (a2 == 0 && m == 0 && imm < 8192) (.csrSet (sreg h) (sreg a1) (Fin.ofNat 8192 imm))
  | 0x3D, 3, .ci a1 a2 m imm =>
    accept (a2 == 0 && m == 0 && imm < 8192) (.csrClr (sreg h) (sreg a1) (Fin.ofNat 8192 imm))
  | 0x3E, 0, .ci a1 a2 m imm =>
    accept (h == 0 && a1 == 0 && a2 == 0 && m == 0) (.trap (BitVec.ofNat 16 imm))
  | 0x3E, 1, .c0 => shC0 h .eret
  | 0x3E, 2, .cr a1 a2 m => accept (h == 0 && a2 == 0 && m == 0) (.frz (sreg a1))
  | 0x3E, 3, .c0 => shC0 h .idle
  | 0x3E, 4, .c0 => shC0 h .brk
  | _, _, _ => .error .unassigned

/-- The opcode map of R109, by group. -/
def decodeForm (maj minor h : Nat) (t : Tail) : Except Reject Instr :=
  if maj < 0x08 then decodeControl maj minor h t
  else if maj < 0x14 then decodeScalar maj minor h t
  else if maj < 0x20 then decodeMemory maj minor h t
  else if maj < 0x28 then decodeSync maj minor h t
  else if maj < 0x2C then decodeVecArith maj minor h t
  else if maj < 0x32 then decodeVecMove maj minor h t
  else if maj < 0x3A then decodeMatrix maj minor h t
  else decodeSystem maj minor h t

/-- The tail length, in bytes, that a head announces (R99). -/
def tailBytes (head : Nat) : Nat := 2 * bits head 14 2

/-- R104, R108: the instruction of an instruction value, head + tail · 2^16. -/
def decodeValue (v : Nat) : Except Reject Instr :=
  let head := bits v 0 16
  let tl := bits head 14 2
  let maj := bits head 8 6
  let tail := bits (v / 2 ^ 16) 0 (16 * tl)
  match decodeForm maj (bits head 4 4) (bits head 0 4) (unpackTail maj tl tail) with
  | .ok i => if tailReserved maj tl tail then .error .reserved else .ok i
  | .error e => .error e

/-- The instruction that the decoder reads from an instruction whose bits are `w`, numbered as the table
numbers them: the instruction value of R104. Bits above `nbits` are zero. -/
def decodeTableWord (nbits w : Nat) : Option Instr :=
  match decodeValue (w % 2 ^ nbits) with
  | .ok i => some i
  | .error _ => none

/-! ### Code lines (R99–R101) -/

/-- The 16-bit little-endian value at a byte offset of a line. -/
def half (line : List Byte) (off : Nat) : Nat :=
  (line.getD off 0).toNat + 256 * (line.getD (off + 1) 0).toNat

/-- The head count field of a line's header (R99). -/
def headCount (line : List Byte) : Nat := bits (half line 0) 0 5

/-- Head `i` of a line (R99). -/
def lineHead (line : List Byte) (i : Nat) : Nat := half line (2 + 2 * i)

/-- P(i): the tail bytes of the heads before head `i` (R99). -/
def tailsBefore (line : List Byte) : Nat → Nat
  | 0 => 0
  | i + 1 => tailsBefore line i + tailBytes (lineHead line i)

/-- R100: a malformed line. -/
def malformed (line : List Byte) : Bool :=
  headCount line == 0 || half line 0 ≥ 32
    || 2 + 2 * headCount line + tailsBefore line (headCount line) > 64

/-- R99, R104: the instruction value of head `i` of a line. -/
def lineValue (line : List Byte) (i : Nat) : Nat :=
  let head := lineHead line i
  let n := tailBytes head
  let start := 64 - tailsBefore line (i + 1)
  head + leNat ((line.drop start).take n) * 2 ^ 16

/-- R100: whether a PC names a head of a well-formed line. -/
def namesHead (line : List Byte) (pc : Nat) : Bool :=
  let off := pc % 64
  !malformed line && pc % 2 == 0 && off ≠ 0 && (off - 2) / 2 < headCount line

/-- R101: the next PC after a head that does not transfer control. -/
def succIn (line : List Byte) (pc : Nat) : Nat :=
  if (pc % 64 - 2) / 2 + 1 < headCount line then pc + 2 else (pc / 64 + 1) * 64 + 2

/-! ### Deck words (R297) -/

/-- A decoded Deck word when its reserved bits, those of `mask`, are zero (R298). DEDUCED (log 55). -/
def deckAccept (w mask : Nat) (ok : Bool) (i : Instr) : Except Reject Instr :=
  if ok && Nat.land w mask == 0 && wellFormed i then .ok i else .error .reserved

/-- The reduction operation of a code; 11 is reserved (R297). -/
def ropOf : Nat → Option ROp
  | 0 => some .sum | 1 => some .max | 2 => some .min | _ => none

/-- The function of `dk.add` (R308). -/
def dkFnOf : Nat → DkFn
  | 0 => .add | 1 => .sub | 2 => .and | _ => .shl

/-- R297, R298: the instruction of a 64-bit Deck word. DEDUCED (log 54). DEDUCED (log 55). -/
def decodeDeck (w : Nat) : Except Reject Instr :=
  let ra : DReg := Fin.ofNat 16 (bits w 54 4)
  let rb : DReg := Fin.ofNat 16 (bits w 50 4)
  let rc : DReg := Fin.ofNat 16 (bits w 46 4)
  let szN := bits w 42 4
  let sz : Fin 9 := Fin.ofNat 9 szN
  let stream : Fin 64 := Fin.ofNat 64 (bits w 36 6)
  let ctag := BitVec.ofNat 8 (bits w 28 8)
  let off : Fin 8192 := Fin.ofNat 8192 (bits w 0 13)
  let ent : Fin 8 := Fin.ofNat 8 (bits w 28 3)
  let g : Fin 8 := Fin.ofNat 8 (bits w 43 3)
  let imm := BitVec.ofNat 32 (bits w 0 32)
  match bits w 58 6 with
  | 0x01 => deckAccept w 0x000000000EFFE000 (szN ≤ 8)
      (.dkSend ra rb rc sz stream ctag (bitOf w 24) off)
  | 0x02 => deckAccept w 0x003C00000FFFE000 (szN ≤ 8) (.dkRecv ra rc sz stream ctag off)
  | 0x03 =>
    match ropOf (bits w 26 2) with
    | some r => deckAccept w 0x003C000001FFE000 (szN ≤ 8) (.dkRred ra rc sz stream ctag r (bitOf w 25) off)
    | none => .error .reserved
  | 0x04 =>
    match ropOf (bits w 26 2) with
    | some r => deckAccept w 0x0003C3FFF0FFE000 (szN ≤ 8) (.dkCopy ra rb sz r (bitOf w 25) (bitOf w 24) off)
    | none => .error .reserved
  | 0x05 => deckAccept w 0x0003C00F0DFFE000 (szN ≤ 8)
      (.dkPut ra rb sz (Fin.ofNat 64 (bits w 36 6)) (bitOf w 31) ent (bitOf w 25) off)
  | 0x08 => deckAccept w 0x003FC7FFFFFFFFFF true (.dkWait ra g)
  | 0x09 => deckAccept w 0x03C3C7FFFFFFFFFF true (.dkSig rb g)
  | 0x0A => deckAccept w 0x03FC3C0FFFFFFFFF true (.dkStep rc stream)
  | 0x10 => deckAccept w 0x003FFFFFFFFFE000 true (.dkLoop ra off)
  | 0x11 => deckAccept w 0x03FFFFFFFFFFE000 true (.dkJmp off)
  | 0x12 => deckAccept w 0x003FFFFFFFFFE000 true (.dkBnz ra off)
  | 0x13 => deckAccept w 0x003FFFFE00000000 true (.dkSet ra (bitOf w 32) imm)
  | 0x14 => deckAccept w 0x00003FF300000000 true (.dkAdd ra rb rc (dkFnOf (bits w 34 2)) imm)
  | 0x18 => deckAccept w 0x03C03FFF8FFFFFFF true (.dkArm rb rc ent)
  | 0x19 => deckAccept w 0x03C3FFFF8FFFFFFF true (.dkDisarm rb ent)
  | 0x1C => deckAccept w 0x03FFFFFFFFFFFFFF true .dkSealpt
  | 0x1D => deckAccept w 0x0003FCFFFFFFFFFF true (.dkDone ra rb (Fin.ofNat 4 (bits w 40 2)))
  | _ => .error .unassigned

/-! ### The encoder -/

/-- The 2 bits of a predicate operand: PE and PM (R105). -/
def pmFields : Option PReg → Nat × Nat
  | none => (0, 0)
  | some p => (1, p.val)

/-- A Boolean as a bit. -/
def b1 (b : Bool) : Nat := if b then 1 else 0

/-- CV fields with the codes of a typed form. -/
def cvf (a1 a2 a3 : Nat) (pm : Option PReg) (ty : VTy) (rnd : RMode) (sat : Bool) (x : Nat) : CVFields :=
  { a1, a2, a3, pe := (pmFields pm).1, pm := (pmFields pm).2, ty := ty.code, rnd := rnd.code, sat := b1 sat, x }

/-- R105: the value of CV fields. -/
def packCV (f : CVFields) : Nat :=
  f.a1 * 2 ^ 28 + f.a2 * 2 ^ 24 + f.a3 * 2 ^ 20 + f.pe * 2 ^ 19 + f.pm * 2 ^ 16 + f.ty * 2 ^ 12
    + f.rnd * 2 ^ 10 + f.sat * 2 ^ 9 + f.x

/-- R105: the value of a tail. -/
def packTail : Tail → Nat
  | .c0 => 0
  | .cr a1 a2 m => a1 * 2 ^ 12 + a2 * 2 ^ 8 + m
  | .ci a1 a2 m imm => a1 * 2 ^ 28 + a2 * 2 ^ 24 + m * 2 ^ 16 + imm
  | .cb a1 a2 loff slot => a1 * 2 ^ 28 + a2 * 2 ^ 24 + loff * 2 ^ 5 + slot
  | .cv f => packCV f
  | .cw a1 a2 m imm => a1 * 2 ^ 44 + a2 * 2 ^ 40 + m * 2 ^ 32 + imm
  | .cvi f imm => packCV f * 2 ^ 16 + imm

/-- The fields of a literal or register operand: A1, R, IMM16 (R268). -/
def roiFields : RegOrImm → Nat × Nat × Nat
  | .imm v => (0, 0, v.toNat)
  | .reg sa => (sa.val, 1, 0)

/-- X of a vector shift and its A2 (R213). -/
def shiftFields : ShiftBy → Nat × Nat
  | .reg vb => (vb.val, 0)
  | .amt n => (0, 32 + n.val)

/-- CIN of the carry forms (R224). -/
def CarryIn.code : CarryIn → Nat
  | .c0 => 0 | .c1 => 1 | .w => 2 | .p => 3

/-- COUT of the carry forms (R224). -/
def CarryOut.code : CarryOut → Nat
  | .none => 0 | .e => 1 | .p => 2

/-- A3, HLANE and CIN of a scan (R231). -/
def scanFields : ScanIn → Nat × Nat
  | .none => (0, 0)
  | .w => (0, 1)
  | .vc v hi => (v.val, 16 * b1 hi + 2)

/-- CIN of `vlrec` (R232). -/
def PairIn.code : PairIn → Nat
  | .none => 0 | .w => 1 | .vcPair => 2

/-- CIN of `mx.macp` (R246). -/
def MacIn.code : MacIn → Nat
  | .acc => 0 | .zero => 1 | .w => 2

/-- COUT of `mx.macp` (R246). -/
def MacOut.code : MacOut → Nat
  | .acc => 0 | .e => 1 | .both => 2

/-- M of an atomic (R163). -/
def amoM (uns wide remote : Bool) : Nat := 4 * b1 uns + 2 * b1 wide + b1 remote

/-- A branch tail. -/
def tb (a1 a2 : Nat) (t : Target) : Tail := .cb a1 a2 t.loff.toNat t.slot.toNat

/-- The major, minor, HREG and tail of a core instruction (R142, R163, R213, R246, R268, R293–R296, R332,
R339); Deck words and events have none. -/
def encodeForm : Instr → Option (Nat × Nat × Nat × Tail)
  | .nop => some (0x00, 0, 0, .c0)
  | .endHandler => some (0x00, 1, 0, .c0)
  | .yield => some (0x00, 2, 0, .c0)
  | .ret => some (0x00, 3, 0, .c0)
  | .br t => some (0x01, 0, 0, tb 0 0 t)
  | .call t => some (0x01, 1, 0, tb 0 0 t)
  | .bEq a b t => some (0x02, 0, 0, tb a b t)
  | .bNe a b t => some (0x02, 1, 0, tb a b t)
  | .bLt a b t => some (0x02, 2, 0, tb a b t)
  | .bGe a b t => some (0x02, 3, 0, tb a b t)
  | .bLtn a b t => some (0x02, 4, 0, tb a b t)
  | .bGen a b t => some (0x02, 5, 0, tb a b t)
  | .bpAny p t => some (0x03, 0, 0, tb p 0 t)
  | .bpAll p t => some (0x03, 1, 0, tb p 0 t)
  | .bpNone p t => some (0x03, 2, 0, tb p 0 t)
  | .loop a t => some (0x04, 0, 0, tb a 0 t)
  | .add d a b => some (0x08, 0, d, .cr a b 0)
  | .sub d a b => some (0x08, 1, d, .cr a b 0)
  | .mul d a b => some (0x08, 2, d, .cr a b 0)
  | .mulh d a b => some (0x08, 3, d, .cr a b 0)
  | .mulhn d a b => some (0x08, 4, d, .cr a b 0)
  | .div d a b => some (0x08, 5, d, .cr a b 0)
  | .divn d a b => some (0x08, 6, d, .cr a b 0)
  | .rem d a b => some (0x08, 7, d, .cr a b 0)
  | .remn d a b => some (0x08, 8, d, .cr a b 0)
  | .and d a b => some (0x09, 0, d, .cr a b 0)
  | .or d a b => some (0x09, 1, d, .cr a b 0)
  | .xor d a b => some (0x09, 2, d, .cr a b 0)
  | .andn d a b => some (0x09, 3, d, .cr a b 0)
  | .shl d a b => some (0x09, 4, d, .cr a b 0)
  | .shr d a b => some (0x09, 5, d, .cr a b 0)
  | .sra d a b => some (0x09, 6, d, .cr a b 0)
  | .min d a b => some (0x0A, 0, d, .cr a b 0)
  | .max d a b => some (0x0A, 1, d, .cr a b 0)
  | .minn d a b => some (0x0A, 2, d, .cr a b 0)
  | .maxn d a b => some (0x0A, 3, d, .cr a b 0)
  | .slt d a b => some (0x0A, 4, d, .cr a b 0)
  | .sltn d a b => some (0x0A, 5, d, .cr a b 0)
  | .sel d a b c i => some (0x0B, 0, d, .ci a b c i)
  | .popc d a => some (0x0B, 1, d, .cr a 0 0)
  | .clz d a => some (0x0B, 2, d, .cr a 0 0)
  | .ctz d a => some (0x0B, 3, d, .cr a 0 0)
  | .addi d a v => some (0x10, 0, d, .ci a 0 0 v.toNat)
  | .andi d a v => some (0x10, 1, d, .ci a 0 0 v.toNat)
  | .ori d a v => some (0x10, 2, d, .ci a 0 0 v.toNat)
  | .xori d a v => some (0x10, 3, d, .ci a 0 0 v.toNat)
  | .shli d a v => some (0x11, 0, d, .ci a 0 0 v)
  | .shri d a v => some (0x11, 1, d, .ci a 0 0 v)
  | .srai d a v => some (0x11, 2, d, .ci a 0 0 v)
  | .movi d v => some (0x12, 0, d, .cw 0 0 0 v.toNat)
  | .movk d v q => some (0x12, 1, d, .ci 0 0 q v.toNat)
  | .ldS8 d a v => some (0x14, 0, d, .ci a 0 0 v.toNat)
  | .ldS16 d a v => some (0x14, 1, d, .ci a 0 0 v.toNat)
  | .ldS32 d a v => some (0x14, 2, d, .ci a 0 0 v.toNat)
  | .ldS64 d a v => some (0x14, 3, d, .ci a 0 0 v.toNat)
  | .ldN8 d a v => some (0x14, 4, d, .ci a 0 0 v.toNat)
  | .ldN16 d a v => some (0x14, 5, d, .ci a 0 0 v.toNat)
  | .ldN32 d a v => some (0x14, 6, d, .ci a 0 0 v.toNat)
  | .stN8 b a v => some (0x15, 0, b, .ci a 0 0 v.toNat)
  | .stN16 b a v => some (0x15, 1, b, .ci a 0 0 v.toNat)
  | .stN32 b a v => some (0x15, 2, b, .ci a 0 0 v.toNat)
  | .stN64 b a v => some (0x15, 3, b, .ci a 0 0 v.toNat)
  | .pf a v => some (0x16, 0, 0, .ci a 0 0 v.toNat)
  | .ldWf d a v => some (0x18, 0, d, .ci a 0 0 v.toNat)
  | .ldWfe d a v => some (0x18, 1, d, .ci a 0 0 v.toNat)
  | .stWef b a v => some (0x18, 2, b, .ci a 0 0 v.toNat)
  | .stSf b a v => some (0x18, 3, b, .ci a 0 0 v.toNat)
  | .feSet a v => some (0x18, 4, 0, .ci a 0 0 v.toNat)
  | .feClr a v => some (0x18, 5, 0, .ci a 0 0 v.toNat)
  | .feTst d a v => some (0x18, 6, d, .ci a 0 0 v.toNat)
  | .amoAdd d b a v u w g => some (0x19, 0, d, .ci a b (amoM u w g) v.toNat)
  | .amoMin d b a v u w g => some (0x19, 1, d, .ci a b (amoM u w g) v.toNat)
  | .amoMax d b a v u w g => some (0x19, 2, d, .ci a b (amoM u w g) v.toNat)
  | .amoAnd d b a v u w g => some (0x19, 3, d, .ci a b (amoM u w g) v.toNat)
  | .amoOr d b a v u w g => some (0x19, 4, d, .ci a b (amoM u w g) v.toNat)
  | .amoXchg d b a v u w g => some (0x19, 5, d, .ci a b (amoM u w g) v.toNat)
  | .amoCas d b c a v u w g => some (0x19, 6, d, .ci a b (c.val * 16 + amoM u w g) v.toNat)
  | .get d a v w => some (0x1C, 0, d, .ci a 0 (2 + b1 w) v.toNat)
  | .getv d a v => some (0x1C, 1, d, .ci a 0 0 v.toNat)
  | .put b a v w sf => some (0x1C, 2, b, .ci a 0 (4 * b1 sf + 2 + b1 w) v.toNat)
  | .putv va a v sf => some (0x1C, 3, va, .ci a 0 (4 * b1 sf) v.toNat)
  | .putH b a c h => some (0x1C, 4, b, .ci a c h 0)
  | .putK b a c k => some (0x1C, 5, b, .ci a c k 0)
  | .cpStart a b c k => some (0x1D, 0, a, .ci b c k 0)
  | .fence k s => some (0x1D, 1, 0, .cr 0 0 (16 * s.code + k.code))
  | .l1Wb a b => some (0x1E, 0, 0, .ci a b 0 0)
  | .l1Inv a b => some (0x1E, 1, 0, .ci a b 0 0)
  | .l2Inv a b => some (0x1E, 2, 0, .ci a b 0 0)
  | .chrecv d a ch => some (0x20, 0, d, .cr a 0 ch)
  | .chsend va a s => some (0x20, 1, va, .cr a 0 s)
  | .chpeek d a ch => some (0x20, 2, d, .cr a 0 ch)
  | .chtag d ch => some (0x20, 3, d, .cr 0 0 ch)
  | .chmark a s => some (0x20, 4, 0, .cr a 0 s)
  | .chskip d ch => some (0x20, 5, d, .cr 0 0 ch)
  | .nbPut va d => some (0x21, 0, va, .cr 0 0 d.code)
  | .nbGet vd d => some (0x21, 1, vd, .cr 0 0 d.code)
  | .nbTst sd d => some (0x21, 2, sd, .cr 0 0 d.code)
  | .trgArm x => some (0x24, 0, 0, .ci (roiFields x).1 0 (roiFields x).2.1 (roiFields x).2.2)
  | .trgOff x => some (0x24, 1, 0, .ci (roiFields x).1 0 (roiFields x).2.1 (roiFields x).2.2)
  | .flgSet x => some (0x24, 2, 0, .ci (roiFields x).1 0 (roiFields x).2.1 (roiFields x).2.2)
  | .flgClr x => some (0x24, 3, 0, .ci (roiFields x).1 0 (roiFields x).2.1 (roiFields x).2.2)
  | .cntAdd k x => some (0x25, 0, 0, .ci (roiFields x).1 0 (64 * (roiFields x).2.1 + k) (roiFields x).2.2)
  | .cntSet k x => some (0x25, 1, 0, .ci (roiFields x).1 0 (64 * (roiFields x).2.1 + k) (roiFields x).2.2)
  | .cntWait d k x eq =>
    some (0x25, 2, d, .ci (roiFields x).1 0 (128 * b1 eq + 64 * (roiFields x).2.1 + k) (roiFields x).2.2)
  | .cntRd d k => some (0x25, 3, d, .ci 0 0 k 0)
  | .barArr d b cp => some (0x26, 0, d, .cr 0 0 (16 * b1 cp + b))
  | .barWait a b => some (0x26, 1, 0, .cr a 0 b)
  | .vadd d a b p ty r s => some (0x28, 0, d, .cv (cvf a b 0 p ty r s 0))
  | .vsub d a b p ty r s => some (0x28, 1, d, .cv (cvf a b 0 p ty r s 0))
  | .vmul d a b p ty r s => some (0x28, 2, d, .cv (cvf a b 0 p ty r s 0))
  | .vfma d a b c p ty r s => some (0x28, 3, d, .cv (cvf a b c p ty r s 0))
  | .vfms d a b c p ty r s => some (0x28, 4, d, .cv (cvf a b c p ty r s 0))
  | .vfnma d a b c p ty r s => some (0x28, 5, d, .cv (cvf a b c p ty r s 0))
  | .vmin d a b p ty r s => some (0x28, 6, d, .cv (cvf a b 0 p ty r s 0))
  | .vmax d a b p ty r s => some (0x28, 7, d, .cv (cvf a b 0 p ty r s 0))
  | .vabs d a p ty r s => some (0x28, 8, d, .cv (cvf a 0 0 p ty r s 0))
  | .vneg d a p ty r s => some (0x28, 9, d, .cv (cvf a 0 0 p ty r s 0))
  | .vaddImm d a p ty r s v => some (0x28, 0, d, .cvi (cvf a 0 0 p ty r s 0) v.toNat)
  | .vsubImm d a p ty r s v => some (0x28, 1, d, .cvi (cvf a 0 0 p ty r s 0) v.toNat)
  | .vmulImm d a p ty r s v => some (0x28, 2, d, .cvi (cvf a 0 0 p ty r s 0) v.toNat)
  | .vminImm d a p ty r s v => some (0x28, 6, d, .cvi (cvf a 0 0 p ty r s 0) v.toNat)
  | .vmaxImm d a p ty r s v => some (0x28, 7, d, .cvi (cvf a 0 0 p ty r s 0) v.toNat)
  | .vrcp d a p ty s => some (0x29, 0, d, .cv (cvf a 0 0 p ty .rne s 0))
  | .vrsqrt d a p ty s => some (0x29, 1, d, .cv (cvf a 0 0 p ty .rne s 0))
  | .vsqrt d a p ty r => some (0x29, 2, d, .cv (cvf a 0 0 p ty r false 0))
  | .vexp2 d a p ty s => some (0x29, 3, d, .cv (cvf a 0 0 p ty .rne s 0))
  | .vlog2 d a p ty s => some (0x29, 4, d, .cv (cvf a 0 0 p ty .rne s 0))
  | .vtanh d a p ty s => some (0x29, 5, d, .cv (cvf a 0 0 p ty .rne s 0))
  | .vsgm d a p ty s => some (0x29, 6, d, .cv (cvf a 0 0 p ty .rne s 0))
  | .vand d a b p => some (0x2A, 0, d, .cv (cvf a b 0 p .raw .rne false 0))
  | .vor d a b p => some (0x2A, 1, d, .cv (cvf a b 0 p .raw .rne false 0))
  | .vxor d a b p => some (0x2A, 2, d, .cv (cvf a b 0 p .raw .rne false 0))
  | .vshl d a y p ty => some (0x2A, 3, d, .cv (cvf a (shiftFields y).1 0 p ty .rne false (shiftFields y).2))
  | .vshr d a y p ty => some (0x2A, 4, d, .cv (cvf a (shiftFields y).1 0 p ty .rne false (shiftFields y).2))
  | .vsra d a y p ty => some (0x2A, 5, d, .cv (cvf a (shiftFields y).1 0 p ty .rne false (shiftFields y).2))
  | .vmulh d a b p ty => some (0x2A, 6, d, .cv (cvf a b 0 p ty .rne false 0))
  | .vaddc d a b q i o => some (0x2A, 7, d, .cv (cvf a b q none .n32 .rne false (4 * o.code + i.code)))
  | .vsubc d a b q i o => some (0x2A, 8, d, .cv (cvf a b q none .n32 .rne false (4 * o.code + i.code)))
  | .vcmp d a b p ty c hf => some (0x2B, 0, d, .cv (cvf a b 0 p ty .rne false (8 * b1 hf + c.code)))
  | .vsel d a b p => some (0x2B, 1, d, .cv (cvf a b 0 (some p) .raw .rne false 0))
  | .pand d a b => some (0x2C, 0, d, .cr a b 0)
  | .por d a b => some (0x2C, 1, d, .cr a b 0)
  | .pxor d a b => some (0x2C, 2, d, .cr a b 0)
  | .pnot d a => some (0x2C, 3, d, .cr a 0 0)
  | .pcnt d a => some (0x2C, 4, d, .cr a 0 0)
  | .pfirst d a => some (0x2C, 5, d, .cr a 0 0)
  | .vmov d a p => some (0x2D, 0, d, .cv (cvf a 0 0 p .raw .rne false 0))
  | .vbcast d (.lane a i) p => some (0x2D, 1, d, .cv (cvf a 0 0 p .raw .rne false i))
  | .vbcast d (.scalar a ty) p => some (0x2D, 1, d, .cv (cvf a 0 0 p ty .rne false 32))
  | .vbcastImm d p ty r s v => some (0x2D, 1, d, .cvi (cvf 0 0 0 p ty r s 0) v.toNat)
  | .vins d a i => some (0x2D, 2, d, .cv (cvf a 0 0 none .raw .rne false i))
  | .vext d a i => some (0x2D, 3, d, .cv (cvf a 0 0 none .raw .rne false i))
  | .vperm d a b p => some (0x2D, 4, d, .cv (cvf a b 0 p .raw .rne false 0))
  | .vrot d a n p => some (0x2D, 5, d, .cv (cvf a 0 0 p .raw .rne false n))
  | .vshf d a b n p => some (0x2D, 6, d, .cv (cvf a b 0 p .raw .rne false n))
  | .vredAdd d a p ty => some (0x2E, 0, d, .cv (cvf a 0 0 p ty .rne false 0))
  | .vredMax d a p ty => some (0x2E, 1, d, .cv (cvf a 0 0 p ty .rne false 0))
  | .vredMin d a p ty => some (0x2E, 2, d, .cv (cvf a 0 0 p ty .rne false 0))
  | .vscanAdd d a p ty i o =>
    some (0x2E, 3, d, .cv (cvf a 0 (scanFields i).1 p ty .rne false (4 * b1 o + (scanFields i).2)))
  | .vscanMax d a p ty i o =>
    some (0x2E, 4, d, .cv (cvf a 0 (scanFields i).1 p ty .rne false (4 * b1 o + (scanFields i).2)))
  | .vscanMul d a p ty i o =>
    some (0x2E, 5, d, .cv (cvf a 0 (scanFields i).1 p ty .rne false (4 * b1 o + (scanFields i).2)))
  | .vlrec d a b c hi i o =>
    some (0x2E, 6, d, .cv (cvf a b c none .f32 .rne false (16 * b1 hi + 4 * b1 o + i.code)))
  | .vcvt d a t u part r s => some (0x2F, 0, d, .cv (cvf a 0 0 none t r s (16 * part.val + u.code)))
  | .vqnt d a c t u part r => some (0x2F, 1, d, .cv (cvf a 0 c none t r false (16 * part.val + u.code)))
  | .vdq d a t u part r s => some (0x2F, 2, d, .cv (cvf a 0 0 none t r s (16 * part.val + u.code)))
  | .vlut d a t u part => some (0x2F, 3, d, .cv (cvf a 0 0 none t .rne false (16 * part.val + u.code)))
  | .ctabWr a => some (0x2F, 4, 0, .cv (cvf a 0 0 none .raw .rne false 0))
  | .vld d a v p ty => some (0x30, 0, d, .cvi (cvf a 0 0 p ty .rne false 0) v.toNat)
  | .vst va a v p => some (0x30, 1, va, .cvi (cvf a 0 0 p .raw .rne false 0) v.toNat)
  | .vgat d b a v p ty => some (0x30, 2, d, .cvi (cvf a b 0 p ty .rne false 0) v.toNat)
  | .vsct va b a v p => some (0x30, 3, va, .cvi (cvf a b 0 p .raw .rne false 0) v.toNat)
  | .vtagRd d a sel => some (0x31, 0, d, .cv (cvf a 0 0 none .raw .rne false (b1 sel)))
  | .vtagSet d a fmt sp keep =>
    some (0x31, 1, d, .cv (cvf a 0 0 none .raw .rne false (32 * b1 keep + 16 * b1 sp + fmt.toNat)))
  | .mxLdw w a v ty sc => some (0x38, 0, w, .cvi (cvf a 0 0 none ty .rne false (b1 sc)) v.toNat)
  | .mxLdwc w ch ty sc => some (0x38, 1, w, .cvi (cvf 0 0 0 none ty .rne false (b1 sc)) ch)
  | .mxScw w a part => some (0x38, 2, w, .cvi (cvf a 0 0 none .s32 .rne false (b1 part)) 0)
  | .mxCfg d (some a) => some (0x38, 3, d, .cvi (cvf a 0 0 none .s32 .rne false 0) 0)
  | .mxCfg d none => some (0x38, 3, d, .cvi (cvf 0 0 0 none .s32 .rne false 0) 1)
  | .mxClr row n => some (0x38, 4, 0, .cvi (cvf 0 0 0 none .s32 .rne false row) n)
  | .mxMac w a row ty sc => some (0x39, 0, w, .cvi (cvf a 0 0 none ty .rne false row) (b1 sc))
  | .mxMacp w a row ty sc i o =>
    some (0x39, 1, w, .cvi (cvf a 0 0 none ty .rne false row) (8 * o.code + 2 * i.code + b1 sc))
  | .mxRun ty sc n (some k) =>
    some (0x39, 2, 0, .cvi (cvf 0 0 0 none ty .rne false (128 * b1 sc + 64 + k.val)) n.toNat)
  | .mxRun ty sc n none => some (0x39, 2, 0, .cvi (cvf 0 0 0 none ty .rne false (128 * b1 sc)) n.toNat)
  | .mxRd d row clr => some (0x39, 3, d, .cvi (cvf 0 0 0 none .s32 .rne false row) (b1 clr))
  | .mxSync => some (0x39, 4, 0, .cvi (cvf 0 0 0 none .s32 .rne false 0) 0)
  | .collKick a b c v => some (0x3C, 0, c, .ci a b 0 v)
  | .collWait d a m => some (0x3C, 1, d, .ci a 0 m 0)
  | .collRng d a => some (0x3C, 2, d, .ci a 0 0 0)
  | .sealArr d => some (0x3C, 3, d, .ci 0 0 0 0)
  | .sealWait d => some (0x3C, 4, d, .ci 0 0 0 0)
  | .sealReq => some (0x3C, 5, 0, .ci 0 0 0 0)
  | .egrNow d s => some (0x3C, 6, d, .ci 0 0 0 s)
  | .csrRd d n => some (0x3D, 0, d, .ci 0 0 0 n)
  | .csrWr d a n => some (0x3D, 1, d, .ci a 0 0 n)
  | .csrSet d a n => some (0x3D, 2, d, .ci a 0 0 n)
  | .csrClr d a n => some (0x3D, 3, d, .ci a 0 0 n)
  | .trap v => some (0x3E, 0, 0, .ci 0 0 0 v.toNat)
  | .eret => some (0x3E, 1, 0, .c0)
  | .frz a => some (0x3E, 2, 0, .cr a 0 0)
  | .idle => some (0x3E, 3, 0, .c0)
  | .brk => some (0x3E, 4, 0, .c0)
  | _ => none

/-- R104: a head. -/
def packHead (tl maj minor h : Nat) : Nat := tl * 2 ^ 14 + maj * 2 ^ 8 + minor * 2 ^ 4 + h

/-- R104: the instruction value of a core instruction. -/
def encode (i : Instr) : Option Nat :=
  match encodeForm i with
  | some (maj, minor, h, t) => some (packHead t.tl maj minor h + packTail t * 2 ^ 16)
  | none => none

/-- R297: a reduction operation's code. -/
def ROp.code : ROp → Nat
  | .sum => 0 | .max => 1 | .min => 2

/-- R308: a `dk.add` function's code. -/
def DkFn.code : DkFn → Nat
  | .add => 0 | .sub => 1 | .and => 2 | .shl => 3

/-- R297: the common fields of a Deck word. -/
def deckHead (op ra rb rc : Nat) : Nat := op * 2 ^ 58 + ra * 2 ^ 54 + rb * 2 ^ 50 + rc * 2 ^ 46

/-- R297: the Deck word of a Deck instruction. -/
def encodeDeck : Instr → Option Nat
  | .dkSend a b c sz s t g off =>
    some (deckHead 0x01 a b c + sz * 2 ^ 42 + s * 2 ^ 36 + t.toNat * 2 ^ 28 + b1 g * 2 ^ 24 + off)
  | .dkRecv a c sz s t off => some (deckHead 0x02 a 0 c + sz * 2 ^ 42 + s * 2 ^ 36 + t.toNat * 2 ^ 28 + off)
  | .dkRred a c sz s t r f off =>
    some (deckHead 0x03 a 0 c + sz * 2 ^ 42 + s * 2 ^ 36 + t.toNat * 2 ^ 28 + r.code * 2 ^ 26 + b1 f * 2 ^ 25 + off)
  | .dkCopy a b sz r w acc off =>
    some (deckHead 0x04 a b 0 + sz * 2 ^ 42 + r.code * 2 ^ 26 + b1 w * 2 ^ 25 + b1 acc * 2 ^ 24 + off)
  | .dkPut a b sz k dis ent f off =>
    some (deckHead 0x05 a b 0 + sz * 2 ^ 42 + k * 2 ^ 36 + b1 dis * 2 ^ 31 + ent * 2 ^ 28 + b1 f * 2 ^ 25 + off)
  | .dkWait a g => some (deckHead 0x08 a 0 0 + g * 2 ^ 43)
  | .dkSig b g => some (deckHead 0x09 0 b 0 + g * 2 ^ 43)
  | .dkStep c s => some (deckHead 0x0A 0 0 c + s * 2 ^ 36)
  | .dkLoop a e => some (deckHead 0x10 a 0 0 + e)
  | .dkJmp t => some (deckHead 0x11 0 0 0 + t)
  | .dkBnz a t => some (deckHead 0x12 a 0 0 + t)
  | .dkSet a hi v => some (deckHead 0x13 a 0 0 + b1 hi * 2 ^ 32 + v.toNat)
  | .dkAdd a b c fn v => some (deckHead 0x14 a b c + fn.code * 2 ^ 34 + v.toNat)
  | .dkArm b c e => some (deckHead 0x18 0 b c + e * 2 ^ 28)
  | .dkDisarm b e => some (deckHead 0x19 0 b 0 + e * 2 ^ 28)
  | .dkSealpt => some (deckHead 0x1C 0 0 0)
  | .dkDone a b m => some (deckHead 0x1D a b 0 + m * 2 ^ 40)
  | _ => none

end Sys2Proof
end

