-- ==== Sys2Proof/Machine/State.lean ====
section
/-! DEFINITION. The state of the machine as plain data: a whole pod of modules, every piece of state the spec
gives the machine, sparse where most of it is at its reset value. INVENTORY.md lists the rule of each. -/

namespace Sys2Proof.Machine

/-- Why a step stops. Raised only by `step`, never by a meaning. -/
inductive Fault where
  /-- Raised by `step` when the agenda names, as the agent to run, a node that R2 and R85 give no core or
  Dealer. Safe: the machine stops where there is nothing to run. -/
  | noSuchAgent
  deriving DecidableEq, Repr

/-- Why an instruction has no meaning. -/
inductive Refusal where
  /-- Raised by `exec` for an instruction of the table that has no meaning yet. Safe: nothing can be proved. -/
  | notModelled (mnemonic : String)
  deriving DecidableEq, Repr

/-- A sparse table: key and value pairs, keys strictly rising, unlisted keys at their default. -/
abbrev AMap (α : Type) := List (Nat × α)

/-- Byte memory in canonical form: addresses strictly rising, no entry equal to zero. DESIGN CHOICE (log 1). -/
abbrev Memory := List Host.Cell

/-! ### Registers and words -/

/-- R27, R30: a vector register's content, and the part of a word that it shares with one. -/
structure VVal where
  data : VData := 0
  tag : BitVec 4 := 8
  sp : Bool := false
  side : BitVec 64 := 0
  deriving DecidableEq, Repr

/-- R300: the chunk header that the first word of a chunk carries, and the place of a word in its chunk. -/
structure ChunkHdr where
  sz : Nat
  ctag : BitVec 8
  inst : Nat
  sender : Node
  index : Nat
  deriving DecidableEq, Repr

/-- R182: a channel word; `lot` names the word and the credit it carries (R185) and `chunk` the header of a chunk word. -/
structure ChWord where
  val : VVal := {}
  htag : BitVec 8 := 0
  usr : Bool := false
  mark : Bool := false
  src : Node := 0
  stream : Nat := 0
  lot : Nat := 0
  /-- R20, R184: the virtual channel of the link on which the word travels. -/
  vc : Nat := 0
  chunk : Option ChunkHdr := none
  /-- R312, R372: the recovery domain of the Dealer of an edge bridge that sent the word. -/
  dom : Option Nat := none
  deriving DecidableEq, Repr

/-- R131: the states of a context. -/
inductive CtxState where
  | free | ready | waitFe | waitCnt | waitBar | waitRecv | waitSend | waitNb | waitColl | waitSeal
  | waitMxu | waitLog | trapped | idle
  deriving DecidableEq, Repr

/-- R131: the state codes. -/
def CtxState.code : CtxState → Nat
  | .free => 0 | .ready => 1 | .waitFe => 2 | .waitCnt => 3 | .waitBar => 4 | .waitRecv => 5
  | .waitSend => 6 | .waitNb => 7 | .waitColl => 8 | .waitSeal => 9 | .waitMxu => 10 | .waitLog => 11
  | .trapped => 12 | .idle => 13

/-- R131: states 0x2–0xB are blocked. -/
def CtxState.blocked (s : CtxState) : Bool := 2 ≤ s.code && s.code ≤ 11

/-- A register that awaits a result (R140, R165, R172, R173, R217); `ctab` is the core's code table. -/
inductive RegName where
  | s (r : SReg)
  | v (r : VReg)
  | p (r : PReg)
  | ctab
  deriving DecidableEq, Repr

/-- What a pending register awaits: the answer to a request or to a queued matrix operation, a sector (R165), or the
cycle of the core from which its result can be read (R140, R165, R217). -/
inductive Await where
  | request (id : Nat)
  | sector (la : Nat)
  | cycle (t : Nat)
  deriving DecidableEq, Repr

/-- R139: the registers of a context as an instruction read them when it issued. -/
structure Regs where
  s : Vector Word 16 := Vector.replicate 16 0
  v : Vector VVal 8 := Vector.replicate 8 {}
  p : Vector Pred 4 := Vector.replicate 4 0
  deriving DecidableEq, Repr

/-- A blocked instruction: what runs when the wait ends, when it blocked, and what it waits on. -/
structure Blocked where
  instr : Instr
  pc : BitVec 32
  succ : BitVec 32
  value : Word
  /-- R133: order of blocking. -/
  since : Nat
  /-- R168: the watched word; R332: the position `egr.now` waits for. -/
  arg : Nat
  regs : Regs
  /-- R158: bytes of the register window that a remote write has replaced since the instruction blocked. -/
  pokes : List (Nat × Byte) := []
  deriving DecidableEq, Repr

/-- R179: a fence that holds back later accesses until the named accesses have performed at its scope; `ga` for the
accesses through the port of the core's own GA that `lb` holds back. -/
structure FenceHold where
  kind : FenceKind
  ids : List Nat
  scope : Scope := .core
  ga : Bool := false
  deriving DecidableEq, Repr

/-- R111: one context. DESIGN CHOICE (log 2). -/
structure Ctx where
  st : CtxState := .free
  s : Vector Word 16 := Vector.replicate 16 0
  v : Vector VVal 8 := Vector.replicate 8 {}
  p : Vector Pred 4 := Vector.replicate 4 0
  pc : BitVec 32 := 0
  /-- R114: `STS`. -/
  sts : BitVec 64 := 0
  lpCnt : BitVec 32 := 0
  lpBeg : BitVec 32 := 0
  lpEnd : BitVec 32 := 0
  /-- R111: bound channels, [5] valid, [4:0] channel. -/
  bind0 : BitVec 6 := 0
  bind1 : BitVec 6 := 0
  /-- R338: the firing count. -/
  fires : Nat := 0
  blocked : Option Blocked := none
  /-- Registers that await a result, and what each awaits. -/
  pending : List (RegName × Await) := []
  fences : List FenceHold := []
  /-- R158: bytes of an awaited result that a remote write has replaced: request and byte. -/
  poked : List (Nat × Nat) := []
  /-- R162: refusals that came back while the context was trapped: tracker id, cause, PC, GA. -/
  reports : List (Nat × BitVec 8 × BitVec 32 × Word) := []
  /-- R342: an access of the context met an uncorrectable error outside every domain: it goes on no more. -/
  stuck : Bool := false
  /-- R293: succ of the `coll.kick` whose answer the context awaits. -/
  kick : Option (BitVec 32) := none
  /-- R130, R140: first cycle of the core in which the context may issue. -/
  notBefore : Nat := 0
  deriving DecidableEq, Repr

/-- R334–R336: a trap in the pending set. -/
structure PTrap where
  code : BitVec 8
  reported : Bool
  orphan : Bool
  pc : BitVec 32
  val : Word
  rpc : BitVec 32
  ctx : Option (Fin 8)
  /-- R336: the cycle of the core in which it entered the set, and the put-tracker position of an orphan report. -/
  stamp : Nat
  pos : Nat := 0
  deriving DecidableEq, Repr

/-! ### Triggers (R21, R120–R122) -/

/-- R21: a trigger entry. -/
structure TrigEntry where
  fmask : BitVec 16 := 0
  fval : BitVec 16 := 0
  conda : BitVec 16 := 0
  condb : BitVec 16 := 0
  hpc : BitVec 32 := 0
  binda : BitVec 8 := 0
  bindb : BitVec 8 := 0
  tctl : BitVec 8 := 0
  deriving DecidableEq, Repr

/-- R126: a pending pseudo-trigger. -/
structure Pseudo where
  h : Fin 32
  la : Nat
  len : Nat
  src : Node
  deriving DecidableEq, Repr

/-- Trigger state of a core. -/
structure CoreTrig where
  entries : Vector TrigEntry 32 := Vector.replicate 32 {}
  pseudo : List Pseudo := []
  /-- R121: `TRG_CTL`. -/
  ctl : BitVec 64 := 0
  /-- R122: LAST_PSEUDO. -/
  lastPseudo : Bool := false
  /-- R122: LAST_ENTRY. -/
  lastEntry : BitVec 5 := 0
  deriving DecidableEq, Repr

/-! ### Memories of a core -/

/-- R97, R98: a line of the L1 with its present and dirty sectors: of the core's own Shelf, by its number there, or of a
remote window with SHR, by GA / 512. -/
structure L1Line where
  line : Nat
  present : BitVec 4
  dirty : BitVec 4
  deriving DecidableEq, Repr

/-- R98: a cached 128-byte sector of a remote window with SHR, as the home held it at the fill. The L1 has a line for
each that it holds. -/
structure ShrCopy where
  ga : Nat
  data : VData
  deriving DecidableEq, Repr

/-- R16, R90: a tensor's share, or a loader-placed range, with its class (0 resident, 1 volatile, 2 transient). -/
structure ClassRange where
  id : Nat
  base : Nat
  bytes : Nat
  cls : Nat
  deriving DecidableEq, Repr

/-- The memories of a core. -/
structure CoreMem where
  /-- R84: scratchpad, accumulator rows and Shelf, by local alias. -/
  mem : Memory := []
  /-- R90, R302: ranges whose bytes are undefined: first byte, length, epoch of the free value. -/
  undef : List (Nat × Nat × Nat) := []
  /-- R84: the scratchpad words whose full/empty bit is full, rising. -/
  full : List Nat := []
  /-- R318: the granules whose logged bit is set. -/
  logged : List Nat := []
  /-- R97: the lines of the L1, least recently used first. -/
  l1 : List L1Line := []
  /-- R98: copies of SHR lines. -/
  shr : List ShrCopy := []
  /-- R91: of each transient granule that has been written, the cycle of the last write and that of the last write of an
  earlier cycle of the core. -/
  written : AMap (Nat × Option Nat) := []
  /-- R90: classes of the declared ranges. -/
  classes : List ClassRange := []
  /-- R103: earlier contents, since the last boundary, of code lines written after it. -/
  lineHist : AMap (List (List Byte)) := []
  /-- R103: the code lines in the instruction cache, latest first. -/
  icache : List Nat := []
  /-- R87: BANKMAP.LIVE and NEXT. -/
  bankLive : BitVec 16 := 0xFFFF
  bankNext : BitVec 16 := 0xFFFF
  /-- Sectors that a load awaits over the vertical bus (R165). -/
  fills : List Nat := []
  /-- R351, R343: the sector of the first read beat that has crossed the vertical bus toward the core in this step. -/
  beat : Option Nat := none
  deriving DecidableEq, Repr

/-! ### Communication of a core -/

/-- R19: a channel declaration with its queue; R187: its spilled words. -/
structure Chan where
  stream : Nat
  src : Node
  host : Bool
  cyclic : Bool
  tokens : Nat
  spillLa : Nat
  queue : List ChWord := []
  spill : List ChWord := []
  deriving DecidableEq, Repr

/-- R20: a stream route entry and its current set. -/
structure Route where
  sets : Vector (BitVec 16) 4
  cur : Nat := 0
  deriving DecidableEq, Repr

/-- R162: what a put-tracker entry does when its answer comes. -/
inductive TrackKind where
  | put
  | getS (r : SReg) (bytes : Nat)
  | getV (r : VReg)
  | atomic (r : SReg) (bytes : Nat) (uns : Bool)
  deriving DecidableEq, Repr

/-- R162: a put-tracker entry. -/
structure Track where
  id : Nat
  ctx : Fin 8
  fires : Nat
  pc : BitVec 32
  ga : Word
  kind : TrackKind
  deriving DecidableEq, Repr

/-- R177: a copy in the queue. -/
structure Copy where
  id : Nat
  ctx : Fin 8
  fires : Nat
  pc : BitVec 32
  dst : Word
  src : Word
  len : Nat
  k : Fin 64
  /-- Bytes still to move: the pieces that begin at these offsets. -/
  todo : List Nat
  deriving DecidableEq, Repr

/-- R93, R95: a window, its staged PARAM and the context that last wrote word 0. -/
structure Window where
  w0 : Word := 0
  param : Word := 0
  staged : Word := 0
  writer : Fin 8 := 7
  deriving DecidableEq, Repr

/-- R296: a `coll.rng` that has issued and has still to see the range table at the end of its cycle: its context, that
context's firing count, the register that awaits the name, and the LA. -/
structure RangeAsk where
  id : Nat
  ctx : Fin 8
  fires : Nat
  dest : SReg
  la : Nat
  deriving DecidableEq, Repr

/-- Channels, routes, ports, tracker, copies and windows of a core and its router. -/
structure CoreComm where
  chans : AMap Chan := []
  routes : AMap Route := []
  /-- R185: credit counts per stream, and their values at load. -/
  credits : AMap Nat := []
  creditInit : AMap Nat := []
  /-- R188: the incoming registers N, E, S, W. -/
  nb : Vector (Option VVal) 4 := Vector.replicate 4 none
  tracker : List Track := []
  copies : List Copy := []
  win : Vector Window 8 := Vector.replicate 8 {}
  /-- R96: `PROT`. -/
  prot : BitVec 64 := 0
  /-- R305: the range table, and the entries that are written at the end of the cycle (R304, R306). -/
  range : Vector Word 8 := Vector.replicate 8 0
  rangeNext : List (Nat × Word) := []
  rangeAsk : List RangeAsk := []
  /-- R332: words sent per stream with `chsend` since launch. -/
  sent : AMap Nat := []
  /-- R179: the channel and neighbour words that contexts have sent and that may still be on their way. -/
  out : List (Nat × Fin 8) := []
  deriving DecidableEq, Repr

/-! ### Synchronisation of a core -/

/-- R278: REL and PEND of one barrier, and the contexts whose arrivals are not yet released, the oldest first, each with
the next name at its arrival (R197). -/
structure BarCore where
  rel : BitVec 2 := 0
  pend : Nat := 0
  who : List (Fin 8 × Nat) := []
  deriving DecidableEq, Repr

/-- Flags, counters, mailboxes, barriers and the watched-word table of a core. -/
structure CoreSync where
  flags : BitVec 16 := 0
  k : Vector (BitVec 32) 64 := Vector.replicate 64 0
  mb : Vector Word 4 := Vector.replicate 4 0
  bar : Vector BarCore 15 := Vector.replicate 15 {}
  /-- R168: the watched words. -/
  watch : List Nat := []
  deriving DecidableEq, Repr

/-! ### The matrix unit (R243) -/

/-- R243: a weight register, its weight state word and its scale store. -/
structure Weight where
  tile : Vector VData 32 := Vector.replicate 32 0
  wfmt : BitVec 4 := 8
  wsp : Bool := false
  scale0 : VData := 0
  scale1 : VData := 0
  deriving DecidableEq, Repr

/-- R247: a queued operation with the operands it captured at issue. -/
inductive MxOp where
  | ldw (wn : WReg) (ea : Nat) (ty : VTy) (sc : Bool) (ctx : Fin 8) (read : List (Nat × VData))
  | ldwc (wn : WReg) (ch : Nat) (ty : VTy) (sc : Bool) (ctx : Fin 8) (since : Nat) (taken : List VData)
  | scw (wn : WReg) (data : VData) (part : Bool)
  | cfg
  | clr (row n : Nat)
  | mac (wn : WReg) (x : VVal) (row : Nat) (sc : Bool) (cin : MacIn) (cout : MacOut)
      (ctab : Vector (BitVec 16) 16) (ctx : Fin 8) (ty : VTy) (since : Option Nat)
  | run (id : Nat) (cfg : Word) (ty : VTy) (sc : Bool) (n q : Nat) (k : Option (Fin 64)) (ctab : Vector (BitVec 16) 16)
      (ctx : Fin 8) (fires : Nat) (pc : BitVec 32) (since : Option Nat)
  | rd (row : Nat) (clr : Bool) (ctx : Fin 8) (vd : VReg) (id : Nat)
  deriving DecidableEq, Repr

/-- The matrix unit and the code table of a core. -/
structure CoreMx where
  w : Vector Weight 4 := Vector.replicate 4 {}
  cfg : Word := 0
  queue : List MxOp := []
  /-- R262: operations that have left the queue. -/
  done : Nat := 0
  /-- R36: `CTAB`. -/
  ctab : Vector (BitVec 16) 16 := Vector.replicate 16 0
  deriving DecidableEq, Repr

/-! ### Recovery and trap registers of a core -/

/-- R325: a core's checkpoint. DESIGN CHOICE (log 17). -/
structure Ckpt where
  ctxs : List (Fin 8 × Ctx)
  flags : BitVec 16
  k : Vector (BitVec 32) 64
  armed : BitVec 32
  trgCtl : BitVec 64
  win : Vector Window 8
  prot : BitVec 64
  ctab : Vector (BitVec 16) 16
  mb : Vector Word 4
  range : Vector Word 8
  bar : Vector BarCore 15
  sealSeq : Nat
  curs : AMap Nat
  w : Vector Weight 4
  acc : Memory
  mxCfg : Word
  sent : AMap Nat
  deriving DecidableEq, Repr

/-- R316–R321, R325, R332, R335: recovery and trap state of a core. -/
structure CoreRec where
  rin : BitVec 32 := 0
  rinSealed : BitVec 32 := 0
  rbCount : BitVec 32 := 0
  logBase : BitVec 32 := 0
  logSize : BitVec 32 := 0
  logFill : Nat := 0
  logCtl : BitVec 64 := 0
  /-- R321: staged writes of `LOG_BASE` and `LOG_SIZE`. -/
  stagedBase : Option (BitVec 32) := none
  stagedSize : Option (BitVec 32) := none
  /-- R332: the context that holds the core's arrival, and the sequence number of its seal point. -/
  arrival : Option (Fin 8) := none
  sealSeq : Nat := 0
  /-- R89: the length of the code that the loader placed. -/
  codeLen : Nat := 0
  /-- R23: seal points, head address to sequence number. -/
  sealPoints : AMap Nat := []
  /-- R317: the two checkpoint slots and the active one. -/
  slot0 : Option Ckpt := none
  slot1 : Option Ckpt := none
  active : Bool := false
  trapCause : Word := 0
  trapPc : Word := 0
  trapVal : Word := 0
  trapVec : Word := 0
  trapCtx : Word := 0x0000000700000000
  /-- R336: the pending set. -/
  traps : List PTrap := []
  deriving DecidableEq, Repr

/-- R192–R194: what an access through the local alias port does when it performs after its issue: a scalar load, the
lanes of a `vld`, a lane of a `vgat`, a store of the bytes in the lanes of a mask, a local atomic (the operation code of
R171), the word of a `st.sf` with its bit, a change or a test of a full/empty bit. -/
inductive LaterKind where
  | load (r : SReg) (signed : Bool)
  | row (r : VReg) (p : Pred)
  | lane (r : VReg) (i : Nat)
  | store (bytes : List Byte) (p : Pred)
  | amo (r : SReg) (op : Nat) (uns : Bool) (sb sc : Word)
  | fill (w : Word)
  | bit (on : Bool)
  | test (r : SReg)
  deriving DecidableEq, Repr

/-- R193, R194: an access of a context that has issued and not performed. -/
structure Later where
  id : Nat
  ctx : Fin 8
  fires : Nat
  la : Nat
  len : Nat
  what : LaterKind
  deriving DecidableEq, Repr

/-- R111, R112: a core with its router. DESIGN CHOICE (log 2). -/
structure Core where
  ctxs : Vector Ctx 8 := Vector.replicate 8 {}
  mem : CoreMem := {}
  trg : CoreTrig := {}
  comm : CoreComm := {}
  sync : CoreSync := {}
  mx : CoreMx := {}
  rcv : CoreRec := {}
  /-- R135: the context of 0–6 that last issued. -/
  lastIssued : Nat := 6
  /-- R135: the contexts that yielded, each with those it waits for, the oldest first. -/
  yielded : List (Nat × List Nat) := []
  /-- R140: the cycle of the core from which the divider is free. -/
  divFree : Nat := 0
  /-- R240: the cycle of the core from which the load and store port is free. -/
  portFree : Nat := 0
  /-- R135: the first cycle of the core in which it may issue again. -/
  issueFrom : Nat := 0
  /-- R193: accesses through the local alias ports that have issued and not performed, the oldest first. -/
  later : List Later := []
  /-- R1, R349: `CYCLE` at reference cycle `cycAt`, the rate since then being that of THROTTLE. -/
  cycBase : Nat := 0
  cycAt : Nat := 0
  deriving DecidableEq, Repr

/-! ### Dealers (R290–R292) -/

/-- R293: an accepted kick. -/
structure Kick where
  vec : Nat
  sb : Word
  sc : Word
  kicker : Node
  deriving DecidableEq, Repr

/-- R24: an installed Deck image. -/
structure Deck where
  vectors : Vector (BitVec 16) 8
  words : List Word
  deriving DecidableEq, Repr

/-- R301: a chunk in the holding area, or still arriving. -/
structure Held where
  sender : Node
  stream : Nat
  sz : Nat
  ctag : BitVec 8
  inst : Nat
  data : List VData
  deriving DecidableEq, Repr

/-- R299: a data word in the engine, with the registers it read at issue. -/
structure DkOp where
  id : Nat
  instr : Instr
  pc : Nat
  off : Nat
  ga : Word
  stream : Nat
  inst : Nat
  /-- R177, R302, R303: the pieces of a remote source that have still to be read, each by its offset and length, and those
  that have been. -/
  todo : List (Nat × Nat) := []
  got : AMap (List Byte) := []
  /-- A `dk.put` whose pieces are in flight, or a `dk.send` whose words are. -/
  sent : Bool := false
  deriving DecidableEq, Repr

/-- R292: STATE of `DK_STS`. -/
inductive DkState where
  | idle | running | waiting | sealpt | halted
  deriving DecidableEq, Repr

/-- R310: a Dealer's checkpoint. -/
structure DkCkpt where
  d : Vector Word 16
  pc : Nat
  lpCnt : BitVec 32
  lpBeg : Nat
  lpEnd : Nat
  inst : BitVec 32
  g : Vector (BitVec 32) 8
  kicks : List Kick
  st : DkState
  cause : BitVec 8
  faultPc : Nat
  deriving DecidableEq, Repr

/-- R290: a Dealer. DESIGN CHOICE (log 2). -/
structure Dealer where
  deck : Option Deck := none
  /-- R22, R311: the slot that installed the Deck of an edge bridge. -/
  slot : Nat := 0
  d : Vector Word 16 := Vector.replicate 16 0
  pc : Nat := 0
  lpCnt : BitVec 32 := 0
  lpBeg : Nat := 0
  lpEnd : Nat := 0
  inst : BitVec 32 := 0
  g : Vector (BitVec 32) 8 := Vector.replicate 8 0
  kicks : List Kick := []
  area : Memory := []
  undef : List (Nat × Nat × Nat) := []
  held : List Held := []
  engine : List DkOp := []
  st : DkState := .idle
  cause : BitVec 8 := 0
  faultPc : Nat := 0
  ckpt : Option DkCkpt := none
  /-- R299: the first cycle in which the Dealer may issue again. -/
  issueFrom : Nat := 0
  /-- R293: the cycle of the last kick, and the place of its core in the order of one cycle. -/
  kickAt : Nat × Nat := (0, 0)
  deriving DecidableEq, Repr

/-! ### Hubs -/

/-- R22, R281: a barrier tree node. -/
structure BarNode where
  child : BitVec 8 := 0
  parent : BitVec 8 := 0
  localCount : BitVec 8 := 0
  cur : BitVec 2 := 0
  c0 : Nat := 0
  c1 : Nat := 0
  /-- Reports of CUR and of CUR + 1 by the N, E, S and W children. -/
  rep0 : BitVec 4 := 0
  rep1 : BitVec 4 := 0
  /-- R283: an arrival counted for CUR, or for CUR + 1, carried CP. -/
  cp0 : Bool := false
  cp1 : Bool := false
  deriving DecidableEq, Repr

/-- R348, R366: power of a cluster. -/
inductive Power where
  | off
  | ramping (since : Nat)
  | good
  | shut
  deriving DecidableEq, Repr

/-- A cluster hub: Dealer, barrier nodes, thermal registers, L2 slice, power. DESIGN CHOICE (log 2). -/
structure Hub where
  dealer : Dealer := {}
  bar : Vector BarNode 15 := Vector.replicate 15 {}
  barCkpt : Vector BarNode 15 := Vector.replicate 15 {}
  barUsed : BitVec 16 := 0
  /-- R13: the readout mask that the loader copied into the hub. -/
  mask : BitVec 64 := 0
  /-- R98: the L2 slice. -/
  l2 : List ShrCopy := []
  /-- R348: THERM_CFG and THERM_STS; `stretchAt` is the cycle up to which STRETCH counts. -/
  thermCfg : BitVec 64 := 0x05695F5500
  thermSts : BitVec 64 := 0
  stretchAt : Nat := 0
  power : Power := .off
  deriving DecidableEq, Repr

/-! ### Bridges and host ports -/

/-- R364: an optical port. -/
structure Optical where
  entry : BitVec 32 := 0
  up : Bool := false
  deriving DecidableEq, Repr

/-- An edge bridge. -/
structure Bridge where
  dealer : Dealer := {}
  ports : Vector Optical 4 := Vector.replicate 4 {}
  /-- R351: `VB_INJ`. -/
  vbInj : Word := 0
  /-- R324: commit points recorded in its DRAM: domain and interval number. -/
  commits : AMap Nat := []
  deriving DecidableEq, Repr

/-- R66: a command whose end awaits something, with the arguments it latched. -/
structure Running where
  op : Nat
  slot : Nat
  args : Vector Word 6
  /-- What it waits for, and from when. -/
  since : Nat
  deriving DecidableEq, Repr

/-- R66: a port's command registers. DESIGN CHOICE (log 2). -/
structure Port where
  cmdOp : BitVec 32 := 0
  args : Vector Word 6 := Vector.replicate 6 0
  busy : Bool := false
  ovr : Bool := false
  code : BitVec 8 := 0
  running : Option Running := none
  /-- The memory of the host on this port, as the bridge sees it. -/
  hostMem : Memory := []
  /-- R68: a read of host memory would fail at these ranges (first byte, length). -/
  unreadable : List (Nat × Nat) := []
  deriving DecidableEq, Repr

/-- R62: a hardware semaphore. -/
structure Hsem where
  owner : Nat := 0
  /-- R64: the cycle at which the lease expires, when it does, and its period in units. -/
  expires : Option Nat := none
  deriving DecidableEq, Repr

/-- R69–R73: an endpoint of a slot. -/
structure Endpoint where
  name : List Byte
  egress : Bool
  stream : Nat
  core : Node
  chan : Nat
  tokens : Nat
  bound : Bool := false
  ptr : Nat := 0
  extent : Nat := 0
  pos : Nat := 0
  limit : Nat := 0
  /-- Ingress replay or egress hold, oldest first: the words at rising positions. -/
  held : List VData := []
  /-- R73: egress position of the first held word that no seal has covered; ingress: next position to send,
  and the position that the last seal covered. -/
  sealedUpTo : Nat := 0
  sendPos : Nat := 0
  /-- Ingress: position up to which words have entered the channel. -/
  delivered : Nat := 0
  credits : Nat := 0
  deriving DecidableEq, Repr

/-- R343: a record of a ring. -/
structure McRecord where
  cause : BitVec 8
  src : BitVec 8
  action : BitVec 8
  loc : BitVec 32
  rin : BitVec 32
  rb : BitVec 32
  detail : BitVec 64
  cycle : BitVec 64
  /-- R23: of a rollback, the sequence numbers of the seal points whose checkpoints it restores, each with its core. -/
  seals : List (Nat × Nat) := []
  deriving DecidableEq, Repr

/-- R343: a ring of records, oldest first, and the count of records ever appended. -/
structure Ring where
  recs : List McRecord := []
  count : Nat := 0
  deriving DecidableEq, Repr

/-- R67, R75: the state of a slot's region. -/
inductive SlotSt where
  | empty | unloaded | loading | loaded | launching | launched
  deriving DecidableEq, Repr

/-- What a slot keeps of its installed image (R12). -/
structure ImageInfo where
  regW : Nat
  regH : Nat
  domain : Nat
  wafers : Nat
  barUsed : BitVec 16
  logSize : Nat
  argSize : Nat
  minBanks : Nat
  readoutMask : BitVec 64
  trgRot : Bool
  logFull : Bool
  /-- R300, R312: the chunk streams of the image. -/
  chunk : BitVec 64 := 0
  /-- R315, R16: whether a scratchpad tensor reaches into the argument block's range, checked by LAUNCH. -/
  argClash : Bool := false
  deriving DecidableEq, Repr

/-- A region slot. -/
structure Slot where
  st : SlotSt := .empty
  x0 : Nat := 0
  y0 : Nat := 0
  w : Nat := 0
  h : Nat := 0
  /-- R65: the port that claimed the rectangle. -/
  owner : Nat := 0
  orphaned : Bool := false
  image : Option ImageInfo := none
  eps : List Endpoint := []
  epsCkpt : List Endpoint := []
  ring : Ring := {}
  /-- R355: the armed readout buffer, and readout streams held at the bridge, oldest first, each a list of records. -/
  readout : Option (Nat × Nat) := none
  heldReadouts : List (List (List Byte)) := []
  /-- R23: the sequence numbers of the seal points of the last readout, each with its core. -/
  readoutSeals : List (Nat × Nat) := []
  /-- R75: an UNLOAD waits for the next seal. -/
  unloading : Bool := false
  /-- R356: the clusters whose Shelves are still being zeroed. -/
  zeroing : List Nat := []
  /-- R72: LIM_ERR of the slot's endpoints. -/
  limErr : BitVec 64 := 0
  /-- R315: the region has joined the seal tree; R284: barriers it has joined. -/
  joined : BitVec 16 := 0
  joinedCkpt : BitVec 16 := 0
  /-- R71: the sealed state of the region is the implicit seal of LAUNCH, after which the wake flood comes. -/
  wakes : Bool := false
  /-- R71, R136: the wake flood waits for the end of a debug freeze. -/
  wakeHeld : Bool := false
  deriving DecidableEq, Repr

/-- R281, R284: a wide barrier of a domain at its root bridge. -/
structure WideBar where
  cur : BitVec 2 := 0
  members : List (Nat × Nat) := []
  rep : List (Nat × Nat) := []
  rep1 : List (Nat × Nat) := []
  cp : Bool := false
  cp1 : Bool := false
  /-- R284: members that have left, which the phases after this one count no more. -/
  leaving : List (Nat × Nat) := []
  /-- R283: the phase has completed and its release awaits writes: those with a name below the first number, and the
  matrix operations of cores up to a count. -/
  closing : Option (Nat × List (Nat × Nat)) := none
  deriving DecidableEq, Repr

/-- R206, R211: a service phase in progress. -/
structure Phase where
  /-- False: mapping; true: code delivery of a slot. -/
  delivery : Bool
  slot : Nat
  /-- The port whose command awaits the end of the phase; 0 for none. -/
  port : Nat
  px0 : Nat
  py0 : Nat
  width : Nat
  height : Nat
  sites : List Node
  started : Nat
  /-- The image that LOAD goes on with after a code-delivery phase. -/
  image : List Byte
  deriving DecidableEq, Repr

/-- A module: its service state, slots, semaphores, fuses and retirement record. DESIGN CHOICE (log 3). -/
structure Module where
  present : Bool := false
  /-- R91: the reference cycle of the module's power-on reset. -/
  since : Nat := 0
  ports : Vector Port 2 := Vector.replicate 2 {}
  hsem : Vector Hsem 32 := Vector.replicate 32 {}
  /-- R64: `HSEM_LEASE`. -/
  lease : BitVec 16 := 0x0400
  /-- R63: the port that the next tie goes to. -/
  tieTo : Nat := 1
  /-- R63: the semaphore and the port to which a tie has gone whose read has still to be served. -/
  tied : Option (Nat × Nat) := none
  slots : Vector Slot 32 := Vector.replicate 32 {}
  /-- R81: RMAP by segment, as the routers use it; entries written but not yet applied. -/
  rmap : AMap (BitVec 32) := []
  rmapWritten : AMap (BitVec 32) := []
  /-- R76: sites that wafer test fused off, py·264 + px; R357: retired sites. -/
  fuseDead : List Nat := []
  retired : List Nat := []
  /-- R357, R360: logical cores that a retirement made unavailable. -/
  retiredCores : List Nat := []
  /-- R87: fuse values of BANKMAP by site, where not all ones. -/
  fuseBanks : AMap (BitVec 16) := []
  fieldRet : Nat := 0
  wafer : Nat := 0
  members : BitVec 16 := 1
  /-- R366: the queue of wake requests. -/
  inrush : List Nat := []
  ring : Ring := {}
  /-- MSI-X messages sent: port and vector, newest first. -/
  msix : List (Nat × Nat) := []
  serial : BitVec 128 := 0
  fwDigest : BitVec 256 := 0
  /-- R362: the attestation key index of each port's bridge. -/
  keyIndex : Vector Nat 2 := Vector.replicate 2 0
  phase : Option Phase := none
  /-- R366: clusters withdrawn because their power never came good. -/
  withdrawn : List Nat := []
  /-- R357, R360: what commands do at a seal: cores to retire; hot columns (field x, field y, column) with the
  domains whose seal has moved them. -/
  retireReqs : List Nat := []
  /-- R357: those that arrived while the seal of their domain was in CHANGE. -/
  retireNext : List Nat := []
  colmoves : List (Nat × Nat × Nat × List Nat) := []
  deriving DecidableEq, Repr

/-! ### Domains (R315–R331) -/

/-- R324: the states of the seal sequence. -/
inductive SealPhase where
  | open_ | hold | check | clean | ckpt | point | flip | change | release
  deriving DecidableEq, Repr

/-- A recovery domain. -/
structure Domain where
  phase : SealPhase := .open_
  /-- R322: a request has been raised and not yet committed. -/
  req : Bool := false
  /-- R344: a debug freeze, and its reason; `wantFreeze` waits for RELEASE (R345). -/
  frozen : Bool := false
  reason : BitVec 32 := 0
  wantFreeze : Option (BitVec 32) := none
  /-- R326, R327: a rollback has begun; `restored`: DISCARD, UNDO, RESTORE and REPLAY are done. -/
  rolling : Bool := false
  restored : Bool := false
  /-- R73, R324: bridges send no further ingress word. -/
  ingressPause : Bool := false
  wide : Vector WideBar 15 := Vector.replicate 15 {}
  wideCkpt : Vector WideBar 15 := Vector.replicate 15 {}
  /-- R89, R331: cores whose operation of CHANGE failed, which the rollback that follows retires. -/
  failed : List Node := []
  /-- R331: how many operations of CHANGE had finished when the rollback that follows began; they stand. -/
  finished : Nat := 0
  deriving DecidableEq, Repr

/-! ### Messages in flight -/

/-- The origin of a remote request: a put-tracker entry, a copy, or a Dealer. -/
structure Origin where
  node : Node
  ctx : Nat
  id : Nat
  deriving DecidableEq, Repr

/-- R162: what comes back. -/
inductive Answer where
  | ack
  | data (bytes : List Byte)
  | refused (code : BitVec 8)
  deriving DecidableEq, Repr

/-- What travels. -/
inductive MsgKind where
  /-- R173: a read of `n` bytes. -/
  | read (o : Origin) (ga : Word) (n : Nat)
  /-- R174: a put; `sf` sets full/empty bits. -/
  | write (o : Origin) (ga : Word) (bytes : List Byte) (sf : Bool)
  /-- R171: an atomic: operation code 0–6 in the order of R110. -/
  | atomic (o : Origin) (ga : Word) (op n : Nat) (uns : Bool) (sb sc : Word)
  /-- R175: a piece of a payload; `whole` is the destination and length; `h` a handler or a counter. -/
  | piece (o : Origin) (ga : Word) (bytes : List Byte) (base : Word) (len : Nat) (handler : Bool) (h : Nat)
      (admitted : Bool)
  /-- R162: an answer to a tracker entry. -/
  | response (core : Node) (id : Nat) (a : Answer)
  /-- R184: a word at the router of a core, arriving by a port (0 N, 1 E, 2 S, 3 W, 4 local). -/
  | word (at_ : Node) (port : Nat) (w : ChWord)
  /-- R69: an ingress word on its way to its core. -/
  | ingress (wafer slot ep : Nat) (pos : Nat) (w : ChWord)
  /-- R69: an egress word on its way to its bridge. -/
  | egress (wafer slot ep : Nat) (w : ChWord)
  /-- R185: a credit on its way back to a core's stream, or to an ingress endpoint. -/
  | credit (core : Node) (stream : Nat)
  | epCredit (wafer slot ep : Nat)
  /-- R189: a neighbour word for the incoming register `d` of a core. -/
  | nbWord (core : Node) (d : Nat) (v : VVal)
  /-- R281: barrier traffic. -/
  | token (hub : Node) (b : Nat) (phase : BitVec 2) (cp : Bool)
  | report (hub : Node) (child b : Nat) (phase : BitVec 2) (cp : Bool)
  | relHub (hub : Node) (b : Nat) (phase : BitVec 2) (cp : Bool)
  | relCore (core : Node) (b : Nat)
  | wide (dom b wafer slot : Nat) (phase : BitVec 2) (cp : Bool)
  /-- R293: a kick. -/
  | kick (core : Node) (ctx : Fin 8) (dealer : Node) (vec : Nat) (sb sc : Word) (pc : BitVec 32)
  /-- R300: a chunk word delivered to a Dealer. -/
  | chunk (dealer : Node) (w : ChWord)
  /-- R304: a piece of a `dk.put`. -/
  | dkPiece (dealer : Node) (op : Nat) (ga : Word) (bytes : List Byte) (k : Nat) (dis : Bool) (ent : Nat)
  /-- R306: an arm or a disarm; `len` 0 disarms. -/
  | arm (dealer : Node) (core : Node) (ent : Nat) (base len pc : Nat)
  /-- R307: a signal. -/
  | signal (dealer : Node) (g : Nat)
  /-- R309: a mailbox write. -/
  | mailbox (core : Node) (m : Nat) (val : BitVec 32)
  /-- R322: a seal request on its way to a core. -/
  | sealReq (core : Node)
  deriving DecidableEq, Repr

/-- R316: a message, the order in which it left, and the tags of a request of a domain. -/
structure Msg where
  id : Nat
  kind : MsgKind
  dom : Option Nat := none
  rin8 : BitVec 8 := 0
  rb4 : BitVec 4 := 0
  /-- Put-tracker entries that must have left the tracker of `src` before the message leaves (R279, R293). -/
  src : Node := 0
  after : List Nat := []
  /-- R126: the message waits at its target's request port. -/
  held : Bool := false
  /-- R176: of a piece whose bytes have still to be read at its issuer, the LA of the first and the source granules that
  have not been read. -/
  unread : Option (Nat × List Nat) := none
  /-- R283: the matrix operations that a release waits for: cores, each with the count that its unit must reach. -/
  ops : List (Nat × Nat) := []
  deriving DecidableEq, Repr

/-! ### The agenda -/

/-- What happens next, where timing or the outside world decides. DESIGN CHOICE (log 6). -/
inductive Act where
  /-- The context of the core issues its next instruction, if it can. -/
  | issue (core : Node) (ctx : Fin 8)
  /-- R193: the same, and its accesses through the local alias port perform later. -/
  | issueLate (core : Node) (ctx : Fin 8)
  /-- R193: an access that has issued performs. -/
  | perform (core : Node) (id : Nat)
  /-- R176: the bytes of a piece of a payload are read. -/
  | readPiece (msg : Nat)
  /-- R202: the matrix unit reads a row of the source of the `mx.ldw` at the head of its queue. -/
  | readRow (core : Node) (la : Nat)
  /-- The Dealer of a hub or bridge issues its next word, if it can. -/
  | deal (dealer : Node)
  /-- An event of the table. -/
  | event (i : Instr)
  /-- The host writes its own memory. -/
  | hostWrite (wafer : Fin 16) (port : Fin 2) (addr : Nat) (bytes : List Byte)
  deriving DecidableEq, Repr

/-- The instruction that is executing: whose it is, where it stands and where its successor is. DESIGN CHOICE (log 9). -/
structure Cur where
  core : Node := 0
  ctx : Fin 8 := 0
  pc : BitVec 32 := 0
  succ : BitVec 32 := 0
  value : Word := 0
  dealer : Node := 0
  /-- R193: its accesses through the local alias port perform later. -/
  late : Bool := false
  /-- R135: the other contexts of its core that could issue in this cycle. -/
  others : List Nat := []
  deriving DecidableEq, Repr

/-- The whole machine. DESIGN CHOICE (log 4). DESIGN CHOICE (log 6). DESIGN CHOICE (log 9). -/
structure State where
  /-- R91: cycles of the 1.1 GHz reference clock since power-on. -/
  now : Nat := 0
  cores : AMap Core := []
  hubs : AMap Hub := []
  bridges : AMap Bridge := []
  modules : AMap Module := []
  domains : AMap Domain := []
  net : List Msg := []
  /-- Names given to messages, requests, copies and blockings, in order. -/
  nextId : Nat := 0
  /-- The model's own field: how many free values have been drawn. -/
  draws : Nat := 0
  /-- R185: words that one credit pays for and that are still on their way or queued: lot, core, stream, count. -/
  lots : List (Nat × Node × Nat × Nat) := []
  agenda : List (Nat × Act) := []
  /-- R123, R269: what reaches the cores in this cycle has begun to, so no further instruction issues in it. -/
  arriving : Bool := false
  cur : Cur := {}
  deriving DecidableEq, Repr

/-- R76, R366: the clusters of a module enter the wake queue in ascending number at power-on. -/
def powerOnQueue : Nat → List Nat
  | 0 => []
  | n + 1 => powerOnQueue n ++ [n]

/-- The machine right after module power-on reset: one module, wafer 0 (R363), every cluster queued (R366).
DESIGN CHOICE (log 2). DESIGN CHOICE (log 3). DESIGN CHOICE (log 4). -/
def State.reset : State :=
  { modules := [(0, { present := true, inrush := powerOnQueue 960 })] }

end Sys2Proof.Machine
end

