-- ==== Sys2Proof/Machine/Access.lean ====
section
/-! DEFINITION. Reading the machine: sparse tables, nodes and regions, byte memory, register windows, CSRs, and the
address checks that need no effect (R76–R98, R111–R115, R159–R161). -/

namespace Sys2Proof.Machine

/-! ### Sparse tables and vectors -/

/-- The value of a key, if the table lists it. -/
def AMap.find {α : Type} : AMap α → Nat → Option α
  | [], _ => none
  | (j, a) :: t, k => if j = k then some a else AMap.find t k

/-- Write a key, keeping the keys rising. -/
def AMap.put {α : Type} : AMap α → Nat → α → AMap α
  | [], k, a => [(k, a)]
  | (j, b) :: t, k, a =>
    if k < j then (k, a) :: (j, b) :: t else if j = k then (k, a) :: t else (j, b) :: AMap.put t k a

/-- Remove a key. -/
def AMap.drop {α : Type} (m : AMap α) (k : Nat) : AMap α := m.filter (fun p => p.1 ≠ k)

/-- A vector element by number, with a default out of bounds. -/
def vget {α : Type} {n : Nat} (v : Vector α n) (d : α) (i : Nat) : α := v[i]?.getD d

/-- Write a vector element by number; out of bounds, nothing. -/
def vset {α : Type} {n : Nat} (v : Vector α n) (i : Nat) (a : α) : Vector α n := v.setIfInBounds i a

/-- Insert into a rising list without repeats. -/
def insertNat : List Nat → Nat → List Nat
  | [], k => [k]
  | j :: t, k => if k < j then k :: j :: t else if j = k then j :: t else j :: insertNat t k

/-! ### Byte memory (canonical form: State) -/

/-- The byte at an address; an unlisted address holds zero. DESIGN CHOICE (log 1). -/
def memGet : Memory → Nat → Byte
  | [], _ => 0
  | (j, b) :: t, a => if j = a then b else memGet t a

/-- Write one byte, keeping the canonical form. -/
def memSet : Memory → Nat → Byte → Memory
  | [], a, b => if b = 0 then [] else [(a, b)]
  | (j, c) :: t, a, b =>
    if a < j then (if b = 0 then (j, c) :: t else (a, b) :: (j, c) :: t)
    else if j = a then (if b = 0 then t else (a, b) :: t)
    else (j, c) :: memSet t a b

/-- Write bytes at rising addresses. -/
def memWrite : Memory → Nat → List Byte → Memory
  | m, _, [] => m
  | m, a, b :: bs => memWrite (memSet m a b) (a + 1) bs

/-- The bytes of a range. -/
def memRead (m : Memory) : Nat → Nat → List Byte
  | _, 0 => []
  | a, n + 1 => memGet m a :: memRead m (a + 1) n

/-- The canonical form: addresses strictly rising, no entry equal to what an unlisted address reads as. -/
def memWf : Memory → Bool
  | [] => true
  | [(_, b)] => b != 0
  | (a, b) :: (c, d) :: t => b != 0 && a < c && memWf ((c, d) :: t)

/-- Whether `a` lies in the range of `n` bytes from `lo`. -/
def inRange (a lo n : Nat) : Bool := lo ≤ a && a < lo + n

/-- Whether two ranges share a byte. -/
def overlaps (a n b m : Nat) : Bool := a < b + m && b < a + n && 0 < n && 0 < m

/-- Undefined spans without the bytes of a range that is written. -/
def cutSpans (lo n : Nat) : List (Nat × Nat × Nat) → List (Nat × Nat × Nat)
  | [] => []
  | (b, len, e) :: t =>
    if overlaps lo n b len then
      (if b < lo then [(b, lo - b, e)] else []) ++
      (if lo + n < b + len then [(lo + n, b + len - (lo + n), e)] else []) ++ cutSpans lo n t
    else (b, len, e) :: cutSpans lo n t

/-- A byte of a memory with undefined spans (R90, R302): in a span, a free value. DESIGN CHOICE (log 13). -/
def spanByte (m : Memory) (undef : List (Nat × Nat × Nat)) (a : Nat) : Byte :=
  match undef.find? (fun u => inRange a u.1 u.2.1) with
  | some u => Config.freeByte u.2.2 a
  | none => memGet m a

/-- The bytes of a range of a memory with undefined spans. DESIGN CHOICE (log 13). -/
def spanBytes (m : Memory) (undef : List (Nat × Nat × Nat)) : Nat → Nat → List Byte
  | _, 0 => []
  | a, n + 1 => spanByte m undef a :: spanBytes m undef (a + 1) n

/-- R5: 128 little-endian bytes as the data of a vector register. -/
def vdataOf (l : List Byte) : VData := BitVec.ofNat 1024 (leNat l)

/-- R5: the 128 bytes of vector data. -/
def vbytes (v : VData) : List Byte := leBytes 128 v.toNat

/-! ### Nodes (R2, R85) -/

/-- R206: a physical site of a module, which runs the mapping phase: its wafer field is at least 16. -/
def isSite (n : Node) : Bool := 16 * 65536 ≤ n
/-- The wafer of a node. -/
def nodeWafer (n : Node) : Nat := if isSite n then (n / 65536 - 16) / 2 else n / 65536
/-- R76: the node of a physical site. -/
def siteNode (w px py : Nat) : Node :=
  let i := py * 264 + px
  (16 + 2 * w + i / 32768) * 65536 + i % 32768
/-- R76: the coordinates of the site that a node names. -/
def siteXY (n : Node) : Nat × Nat :=
  let i := (n / 65536 - 16) % 2 * 32768 + n % 65536
  (i % 264, i / 264)
/-- The 16-bit core number of a node. -/
def nodeNum (n : Node) : Nat := n % 65536
/-- A node from its wafer and number. -/
def mkNode (w num : Nat) : Node := w * 65536 + num
/-- R85: a logical core. -/
def isCore (n : Node) : Bool := nodeNum n < 0xF000
/-- R85: a cluster hub. -/
def isHub (n : Node) : Bool := 0xF000 ≤ nodeNum n && nodeNum n < 0xF3C0
/-- R85: an edge bridge. -/
def isBridge (n : Node) : Bool := 0xFF00 ≤ nodeNum n && nodeNum n < 0xFF20

/-- R2: the column of a core. -/
def coreX (n : Node) : Nat := nodeNum n % 256
/-- R2: the row of a core. -/
def coreY (n : Node) : Nat := nodeNum n / 256
/-- R2: the cluster of a core or hub; a site belongs to that of its column and row. -/
def clusterOf (n : Node) : Nat :=
  if isSite n then (siteXY n).2 / 8 * 32 + (siteXY n).1 / 33 * 4 + min ((siteXY n).1 % 33 / 8) 3
  else if isHub n then nodeNum n - 0xF000
  else coreY n / 8 * 32 + coreX n / 8
/-- The hub of a core's cluster. -/
def hubOf (n : Node) : Node := mkNode (nodeWafer n) (0xF000 + clusterOf n)
/-- The edge bridge that holds a host port of a module (R60). -/
def portBridge (w port : Nat) : Node := mkNode w (0xFF00 + (if port = 1 then 27 else 11))

/-- The cores of a cluster, ascending. -/
def clusterCores (w cl : Nat) : List Node :=
  (List.range 64).map fun i => mkNode w ((cl / 32 * 8 + i / 8) * 256 + cl % 32 * 8 + i % 8)

/-! ### The parts of the state -/

/-- A core of the pod. -/
def State.core (s : State) (n : Node) : Core := (AMap.find s.cores n).getD {}
/-- Replace a core. -/
def State.setCore (s : State) (n : Node) (c : Core) : State := { s with cores := AMap.put s.cores n c }
/-- Change a core. -/
def State.modCore (s : State) (n : Node) (f : Core → Core) : State := s.setCore n (f (s.core n))
/-- A context of a core. -/
def Core.ctx (c : Core) (x : Fin 8) : Ctx := c.ctxs[x]
/-- Replace a context. -/
def Core.setCtx (c : Core) (x : Fin 8) (k : Ctx) : Core := { c with ctxs := c.ctxs.set x k }
/-- A context of the pod. -/
def State.ctx (s : State) (n : Node) (x : Fin 8) : Ctx := (s.core n).ctx x
/-- Replace a context. -/
def State.setCtx (s : State) (n : Node) (x : Fin 8) (k : Ctx) : State :=
  s.modCore n fun c => c.setCtx x k
/-- Change a context. -/
def State.modCtx (s : State) (n : Node) (x : Fin 8) (f : Ctx → Ctx) : State :=
  s.setCtx n x (f (s.ctx n x))

/-- A hub. -/
def State.hub (s : State) (n : Node) : Hub := (AMap.find s.hubs n).getD {}
/-- Replace a hub. -/
def State.setHub (s : State) (n : Node) (h : Hub) : State := { s with hubs := AMap.put s.hubs n h }
/-- Change a hub. -/
def State.modHub (s : State) (n : Node) (f : Hub → Hub) : State := s.setHub n (f (s.hub n))
/-- A bridge. -/
def State.bridge (s : State) (n : Node) : Bridge := (AMap.find s.bridges n).getD {}
/-- Replace a bridge. -/
def State.setBridge (s : State) (n : Node) (b : Bridge) : State := { s with bridges := AMap.put s.bridges n b }
/-- Change a bridge. -/
def State.modBridge (s : State) (n : Node) (f : Bridge → Bridge) : State := s.setBridge n (f (s.bridge n))
/-- A module by its wafer number. -/
def State.module (s : State) (w : Nat) : Module := (AMap.find s.modules w).getD {}
/-- Replace a module. -/
def State.setModule (s : State) (w : Nat) (m : Module) : State := { s with modules := AMap.put s.modules w m }
/-- Change a module. -/
def State.modModule (s : State) (w : Nat) (f : Module → Module) : State := s.setModule w (f (s.module w))
/-- A recovery domain. -/
def State.domain (s : State) (d : Nat) : Domain := (AMap.find s.domains d).getD {}
/-- Change a domain. -/
def State.modDomain (s : State) (d : Nat) (f : Domain → Domain) : State :=
  { s with domains := AMap.put s.domains d (f (s.domain d)) }
/-- The Dealer of a hub or a bridge. -/
def State.dealer (s : State) (n : Node) : Dealer := if isHub n then (s.hub n).dealer else (s.bridge n).dealer
/-- Replace a Dealer. -/
def State.setDealer (s : State) (n : Node) (d : Dealer) : State :=
  if isHub n then s.modHub n fun h => { h with dealer := d } else s.modBridge n fun b => { b with dealer := d }
/-- A slot of a module. -/
def Module.slot (m : Module) (i : Nat) : Slot := vget m.slots {} i
/-- Change a slot of a module. -/
def State.modSlot (s : State) (w i : Nat) (f : Slot → Slot) : State :=
  s.modModule w fun m => { m with slots := vset m.slots i (f (m.slot i)) }

/-! ### Regions and domains (R61, R315) -/

/-- R75: a region whose image is installed. -/
def SlotSt.isLoaded : SlotSt → Bool
  | .loaded | .launching | .launched => true
  | .empty | .unloaded | .loading => false

/-- The rectangle of a slot holds a cluster. -/
def Slot.holds (t : Slot) (cl : Nat) : Bool :=
  inRange (cl % 32) t.x0 t.w && inRange (cl / 32) t.y0 t.h

/-- The clusters of a slot, ascending. -/
def Slot.clusters (t : Slot) : List Nat :=
  (List.range t.h).flatMap fun j => (List.range t.w).map fun i => (t.y0 + j) * 32 + t.x0 + i

/-- The slot whose loaded region holds a core or a hub. -/
def slotOf (s : State) (n : Node) : Option Nat :=
  if isSite n then none
  else
    (List.range 32).find? fun i =>
      let t := (s.module (nodeWafer n)).slot i
      t.st.isLoaded && t.holds (clusterOf n)

/-- R65, R69: the owning bridge of a slot. -/
def owningBridge (s : State) (w slot : Nat) : Node := portBridge w ((s.module w).slot slot).owner

/-- The slots whose regions a bridge serves (R93): owned through its host port, or holding a loaded Deck there. -/
def servedSlots (s : State) (b : Node) : List Nat :=
  (List.range 32).filter fun i =>
    let t := (s.module (nodeWafer b)).slot i
    t.st.isLoaded && (owningBridge s (nodeWafer b) i == b
      || ((s.bridge b).dealer.deck.isSome && (s.bridge b).dealer.slot == i))

/-- The recovery domain of a slot's region. -/
def slotDomain (s : State) (w slot : Nat) : Option Nat := ((s.module w).slot slot).image.map (·.domain)

/-- The recovery domain of a core or a hub. -/
def domainOf (s : State) (n : Node) : Option Nat := (slotOf s n).bind (slotDomain s (nodeWafer n))

/-- The wafers of the pod that exist. -/
def wafers (s : State) : List Nat := (s.modules.filter (fun p => p.2.present)).map (·.1)

/-- R315: the member regions of a domain, wafer and slot. -/
def memberSlots (s : State) (d : Nat) : List (Nat × Nat) :=
  (wafers s).flatMap fun w => ((List.range 32).filter fun i =>
    ((s.module w).slot i).st.isLoaded && slotDomain s w i == some d).map fun i => (w, i)

/-- The cores of a slot's region, ascending by cluster. -/
def slotCores (s : State) (w slot : Nat) : List Node :=
  ((s.module w).slot slot).clusters.flatMap (clusterCores w)

/-- The hubs of a slot's region. -/
def slotHubs (s : State) (w slot : Nat) : List Node :=
  ((s.module w).slot slot).clusters.map fun cl => mkNode w (0xF000 + cl)

/-- The cores of a domain. -/
def domCores (s : State) (d : Nat) : List Node := (memberSlots s d).flatMap fun p => slotCores s p.1 p.2
/-- The hubs of a domain. -/
def domHubs (s : State) (d : Nat) : List Node := (memberSlots s d).flatMap fun p => slotHubs s p.1 p.2
/-- The bridges that serve a domain. -/
def domBridges (s : State) (d : Nat) : List Node :=
  (((wafers s).flatMap fun w => (List.range 32).map fun b => mkNode w (0xFF00 + b))).filter fun b =>
    (servedSlots s b).any fun i => slotDomain s (nodeWafer b) i == some d

/-- R93: the regions that a source belongs to, wafer and slot. -/
def regionsOf (s : State) (n : Node) : List (Nat × Nat) :=
  if isBridge n then (servedSlots s n).map fun i => (nodeWafer n, i)
  else (slotOf s n).toList.map fun i => (nodeWafer n, i)

/-- The domain of a node is frozen (R136, R344). -/
def isFrozen (s : State) (n : Node) : Bool :=
  match domainOf s n with
  | some d => (s.domain d).frozen || (s.domain d).rolling
  | none => false

/-- The recovery domain of a Dealer: that of its cluster, or of the region that installed its Deck. -/
def dealerDomain (s : State) (n : Node) : Option Nat :=
  if isHub n then domainOf s n else slotDomain s (nodeWafer n) (s.bridge n).dealer.slot

/-- R344: a Dealer whose domain is frozen stops. -/
def dealerFrozen (s : State) (n : Node) : Bool :=
  match dealerDomain s n with
  | some d => (s.domain d).frozen || (s.domain d).rolling
  | none => false

/-- R324: the domain of a node is between HOLD and RELEASE. DEDUCED (log 69). -/
def isHeld (s : State) (n : Node) : Bool :=
  match domainOf s n with
  | some d => (s.domain d).phase != .open_
  | none => false

/-- R284: a neighbour or core exists in the region of a core: relative coordinates. -/
def relXY (s : State) (n : Node) : Nat × Nat :=
  match slotOf s n with
  | some i =>
    let t := (s.module (nodeWafer n)).slot i
    (coreX n - 8 * t.x0, coreY n - 8 * t.y0)
  | none => (0, 0)

/-! ### The repair map (R76–R83) -/

/-- R81: fields of an RMAP entry. -/
def rmapSkip0 (e : BitVec 32) : Nat := (e.extractLsb' 0 6).toNat
/-- R81: SKIP1. -/
def rmapSkip1 (e : BitVec 32) : Nat := (e.extractLsb' 6 6).toNat
/-- R81: BORROW. -/
def rmapBorrow (e : BitVec 32) : Nat := (e.extractLsb' 18 2).toNat
/-- R81: LENT. -/
def rmapLent (e : BitVec 32) : Nat := (e.extractLsb' 20 2).toNat
/-- R81: AVAIL. -/
def rmapAvail (e : BitVec 32) : Bool := e.getLsbD 23

/-- R81: the reset value of an entry: no column skipped, not available. -/
def rmapReset : BitVec 32 := 0x00000FFF

/-- The repair-map entry that the routers of a segment use. -/
def rmapEntry (m : Module) (seg : Nat) : BitVec 32 := (AMap.find m.rmap seg).getD rmapReset

/-- R83: the physical site of logical (x, y). -/
def siteOfXY (m : Module) (x y : Nat) : Nat × Nat :=
  let sg := x / 32
  let j := x % 32
  let e := rmapEntry m (y * 8 + sg)
  let live := (List.range 33).filter fun c => c ≠ rmapSkip0 e ∧ c ≠ rmapSkip1 e
  if j < live.length - (if rmapLent e ≠ 0 then 1 else 0) then (33 * sg + live.getD j 0, y)
  else if rmapBorrow e = 1 then (33 * sg + 32, y - 1)
  else (33 * sg + 32, y + 1)

/-- The physical site of a core. -/
def siteOf (s : State) (n : Node) : Nat × Nat :=
  if isSite n then siteXY n else siteOfXY (s.module (nodeWafer n)) (coreX n) (coreY n)

/-- R81: the segment index of a site. -/
def siteSegment (p : Nat × Nat) : Nat := p.2 * 8 + p.1 / 33

/-- R79: whether a logical core is available: its segment is, and it is not retired. -/
def coreAvailable (m : Module) (num : Nat) : Bool :=
  rmapAvail (rmapEntry m (num / 256 * 8 + num % 256 / 32)) && !m.retiredCores.contains num

/-- R79: a cluster is available when all its cores are. -/
def clusterAvailable (m : Module) (cl : Nat) : Bool :=
  !m.withdrawn.contains cl && (clusterCores 0 cl).all fun n => coreAvailable m n

/-- R79: the grade of a module. -/
def grade (m : Module) : Nat := ((List.range Config.clusters).filter (clusterAvailable m)).length

/-- R80: a hop between two adjacent cores is a bypass hop. -/
def bypassHop (s : State) (a b : Node) : Bool :=
  let p := siteOf s a
  let q := siteOf s b
  if coreY a = coreY b then p.2 != q.2 || (p.1 + 1 != q.1 && q.1 + 1 != p.1) || p.2 != coreY a
  else p.1 != q.1 || p.2 != coreY a || q.2 != coreY b

/-! ### Neighbours (R188) -/

/-- The opposite direction. -/
def oppositeDir : Nat → Nat
  | 0 => 2 | 1 => 3 | 2 => 0 | _ => 1

/-- R76: a site that wafer test fused off, or that has been retired. -/
def siteDead (m : Module) (px py : Nat) : Bool :=
  m.fuseDead.contains (py * 264 + px) || m.retired.contains (py * 264 + px)

/-- R207: the nearest live site in a direction, inside the window of the mapping phase. -/
def siteNeighbour (s : State) (n : Node) (d : Nat) : Option Node :=
  let m := s.module (nodeWafer n)
  let x := (siteXY n).1
  let y := (siteXY n).2
  match m.phase with
  | none => none
  | some p =>
    let row := (List.range p.width).map fun i => (p.px0 + i, y)
    let col := (List.range p.height).map fun i => (x, p.py0 + i)
    let live (l : List (Nat × Nat)) : Option Node :=
      (l.find? fun q => !siteDead m q.1 q.2).map fun q => siteNode (nodeWafer n) q.1 q.2
    match d with
    | 0 => live (col.reverse.filter fun q => q.2 < y)
    | 1 => live (row.filter fun q => x < q.1)
    | 2 => live (col.filter fun q => y < q.2)
    | _ => live (row.reverse.filter fun q => q.1 < x)

/-- The slot whose loaded region, or region in code delivery (R211), holds a core. -/
def portSlot (s : State) (n : Node) : Option Nat :=
  (List.range 32).find? fun i =>
    let t := (s.module (nodeWafer n)).slot i
    (t.st.isLoaded || t.st == .loading) && t.holds (clusterOf n)

/-- The core one hop away in a direction (0 N, 1 E, 2 S, 3 W), when it lies in the same region; in the mapping
phase, the nearest live site (R207). -/
def neighbour (s : State) (n : Node) (d : Nat) : Option Node :=
  if isSite n then siteNeighbour s n d
  else
    let x := coreX n
    let y := coreY n
    let go (x' y' : Nat) : Option Node :=
      let m := mkNode (nodeWafer n) (y' * 256 + x')
      if portSlot s m == portSlot s n && (portSlot s n).isSome then some m else none
    match d with
    | 0 => if y = 0 then none else go x (y - 1)
    | 1 => if x ≥ 255 then none else go (x + 1) y
    | 2 => if y ≥ 239 then none else go x (y + 1)
    | _ => if x = 0 then none else go (x - 1) y

/-! ### Clocks (R1, R349, R366) -/

/-- R349, R367: the cluster's cores and its hub run stretched cycles: THROTTLE is on, and the cluster has power good, from
which on one that tripped in the ramp takes effect. -/
def Hub.throttled (h : Hub) : Bool := h.thermSts.getLsbD 9 && h.power == .good

/-- R1, R349: `CYCLE` of a core. DESIGN CHOICE (log 10). DEDUCED (log 106). -/
def cycleOf (s : State) (n : Node) : Nat :=
  let c := s.core n
  let dt := s.now - max c.cycAt (s.module (nodeWafer n)).since
  c.cycBase + (if (s.hub (hubOf n)).throttled then dt / 2 else dt)

/-- R1, R349: the reference cycle at which a cycle that began to count at `at_` would end last: with THROTTLE on, half
of a stretched cycle may have passed. -/
def lastWhole (throttled : Bool) (at_ now : Nat) : Nat := if throttled then now - (now - at_) % 2 else now

/-- R1, R349: the reference cycle in which the present cycle of a core began. -/
def cycleStart (s : State) (n : Node) : Nat :=
  lastWhole (s.hub (hubOf n)).throttled (max (s.core n).cycAt (s.module (nodeWafer n)).since) s.now

/-! ### Local aliases (R84) -/

/-- R84: the ranges of the local alias space. -/
inductive LaRange where
  | scratch | acc | regs | csr | shelf
  deriving DecidableEq, Repr

/-- R84: the range of an address. -/
def laRange (a : Nat) : Option LaRange :=
  if a < 0x40000 then some .scratch
  else if inRange a 0x100000 0x10000 then some .acc
  else if inRange a 0x200000 0x10000 then some .regs
  else if inRange a 0x300000 0x10000 then some .csr
  else if inRange a 0x40000000 0x2000000 then some .shelf
  else none

/-- R84: the one range that holds `n` bytes from `a`. -/
def laRangeOf (a n : Nat) : Option LaRange :=
  if laRange a == laRange (a + n - 1) then laRange a else none

/-- The number of set bits of a mask. -/
def popcount {w : Nat} (x : BitVec w) : Nat := ((List.range w).filter fun i => x.getLsbD i).length

/-- R87: COUNT. -/
def bankCount (c : Core) : Nat := popcount c.mem.bankLive

/-- R88: the first Shelf LA above the live capacity. -/
def shelfTop (c : Core) : Nat := 0x40000000 + bankCount c * 0x200000

/-- R88: the live banks of a mask, ascending. -/
def liveBanks (mask : BitVec 16) : List Nat := (List.range 16).filter fun i => mask.getLsbD i

/-- R88: the bank, the row and the byte in the row at which a mask places the byte of a Shelf LA. -/
def shelfPlace (mask : BitVec 16) (la : Nat) : Nat × Nat × Nat :=
  let line := (la - 0x40000000) / 512
  let n := popcount mask
  ((liveBanks mask).getD (line % n) 0, line / n, la % 512)

/-- R90: a channel spill area holds a byte of the range. -/
def inSpill (c : Core) (a n : Nat) : Bool := c.comm.chans.any fun p => overlaps a n p.2.spillLa 4096

/-- R114, R206: context 0 of the core runs the service program: its stores are not logged, and no log lies there. -/
def Core.inService (c : Core) : Bool := (c.ctx 0).sts.getLsbD 4

/-- R90, R317: the undo log holds a byte of the range. -/
def inLog (c : Core) (a n : Nat) : Bool := !c.inService && overlaps a n c.rcv.logBase.toNat c.rcv.logSize.toNat

/-- R90: the class of the granule that holds a byte: 0 resident, 1 volatile, 2 transient, 3 undo log. -/
def classAt (c : Core) (a : Nat) : Nat :=
  if inLog c a 1 then 3
  else if inSpill c a 1 then 1
  else
    let unit := if a < 0x40000 then 128 else 512
    match c.mem.classes.find? (fun r => overlaps (a / unit * unit) unit r.base r.bytes) with
    | some r => r.cls
    | none => 0

/-- R91: the write from which the deadline of a granule counts: the last one, or, for a read in its cycle, the last of an
earlier cycle of the core. -/
def deadlineFrom (s : State) (n : Node) (g : Nat) : Option Nat :=
  (AMap.find (s.core n).mem.written g).bind fun w => if cycleStart s n ≤ w.1 then w.2 else some w.1

/-- R91: the granule of an address is transient and its deadline has passed. -/
def expired (s : State) (n : Node) (g : Nat) : Bool :=
  classAt (s.core n) g == 2 && (match deadlineFrom s n g with
    | some t => t + Config.retention ≤ s.now
    | none => true)

/-- The granules that a range touches. -/
def granules (a n : Nat) : List Nat :=
  if n = 0 then [] else (List.range ((a + n - 1) / 128 - a / 128 + 1)).map fun i => (a / 128 + i) * 128

/-- R91: the range touches an expired transient granule. -/
def anyExpired (s : State) (n : Node) (a len : Nat) : Bool :=
  (laRange a == some .shelf) && (granules a len).any (expired s n)

/-- R305: entry `e` of the range table is armed and touches the range. -/
def rangeHits (c : Core) (e a n : Nat) : Bool :=
  let w := (vget c.comm.range 0 e).toNat
  let len := if bits w 0 19 = 0 then 262144 else bits w 0 19
  bitOf w 31 && overlaps a n (bits w 32 32) (128 * len)

/-- R160 step 4: the range touches an armed entry. -/
def anyArmed (c : Core) (a n : Nat) : Bool := (List.range 8).any fun e => rangeHits c e a n

/-! ### Register windows (R115) -/

/-- R111: bits [13:8] and [21:16] of the state word. -/
def stateWord (k : Ctx) : Nat := k.st.code + k.bind0.toNat * 2 ^ 8 + k.bind1.toNat * 2 ^ 16

/-- The byte at an offset of a context's register window; bytes without a name read as zero. -/
def regByte (k : Ctx) (off : Nat) : Byte :=
  let pick (x : Nat) (i : Nat) : Byte := BitVec.ofNat 8 (bits x (8 * i) 8)
  if off < 0x80 then pick (vget k.s 0 (off / 8)).toNat (off % 8)
  else if off < 0x90 then pick (vget k.p 0 ((off - 0x80) / 4)).toNat (off % 4)
  else if off < 0x100 then 0
  else if off < 0x500 then pick (vget k.v {} ((off - 0x100) / 128)).data.toNat (off % 128)
  else if off < 0x580 then
    let v := vget k.v {} ((off - 0x500) / 16)
    let r := off % 16
    if r < 8 then pick v.side.toNat r
    else if r = 8 then BitVec.ofNat 8 (v.tag.toNat + (if v.sp then 16 else 0))
    else 0
  else if off < 0x600 then 0
  else if off < 0x608 then pick k.pc.toNat (off % 8)
  else if off < 0x610 then pick (stateWord k) (off % 8)
  else if off < 0x618 then pick k.sts.toNat (off % 8)
  else if off < 0x620 then pick k.lpCnt.toNat (off % 8)
  else if off < 0x628 then pick k.lpBeg.toNat (off % 8)
  else if off < 0x630 then pick k.lpEnd.toNat (off % 8)
  else 0

/-- The byte at an address of the register windows of a core. -/
def regWinByte (c : Core) (a : Nat) : Byte :=
  regByte (vget c.ctxs {} ((a - 0x200000) / 0x2000)) ((a - 0x200000) % 0x2000)

/-- R115: a byte that a window with REG may write: `s1`–`s15`, `p0`–`p3` and vector data. -/
def regWritable (off : Nat) : Bool := (8 ≤ off && off < 0x90) || (0x100 ≤ off && off < 0x500)

/-- Replace one byte of a number. -/
def setByte (x i : Nat) (b : Byte) : Nat := x - bits x (8 * i) 8 * 2 ^ (8 * i) + b.toNat * 2 ^ (8 * i)

/-- R158: byte `i` of a register is replaced: the results that the register awaits do not write it. -/
def Ctx.replace (k : Ctx) (r : RegName) (i : Nat) : Ctx :=
  { k with poked := k.poked ++ k.pending.filterMap fun p =>
      match p.1 == r, p.2 with
      | true, .request id => some (id, i)
      | _, _ => none }

/-- R158: an awaited result of `n` bytes as it enters a register: the bytes that a remote write has replaced keep the
remote value. -/
def Ctx.keepPoked (k : Ctx) (id n new old : Nat) : Nat :=
  (List.range n).foldl (fun x i => if k.poked.contains (id, i) then setByte x i (BitVec.ofNat 8 (bits old (8 * i) 8)) else x)
    new

/-- R115, R158: one byte of a context's register window written by a remote agent. -/
def regPoke (k : Ctx) (off : Nat) (b : Byte) : Ctx :=
  if 8 ≤ off ∧ off < 0x80 then
    let i := off / 8
    { k.replace (.s (Fin.ofNat 16 i)) (off % 8) with
      s := vset k.s i (BitVec.ofNat 64 (setByte (vget k.s 0 i).toNat (off % 8) b)) }
  else if 0x80 ≤ off ∧ off < 0x90 then
    let i := (off - 0x80) / 4
    { k with p := vset k.p i (BitVec.ofNat 32 (setByte (vget k.p 0 i).toNat (off % 4) b)) }
  else if 0x100 ≤ off ∧ off < 0x500 then
    let i := (off - 0x100) / 128
    let v := vget k.v {} i
    { k.replace (.v (Fin.ofNat 8 i)) (off % 128) with
      v := vset k.v i { v with data := BitVec.ofNat 1024 (setByte v.data.toNat (off % 128) b) } }
  else k

/-- Remote bytes written into a context's register window. -/
def regPokes (k : Ctx) : Nat → List Byte → Ctx
  | _, [] => k
  | off, b :: bs => regPokes (regPoke k off b) (off + 1) bs

/-! ### CSRs (R113) -/

/-- R366: the cluster of a core or Dealer is powered; sites of a window that is not yet mapped and edge bridges are
outside every cluster. DEDUCED (log 18). -/
def powered (s : State) (n : Node) : Bool := isSite n || isBridge n || (s.hub (hubOf n)).power == .good

/-- R122: `TRG_STS`. -/
def trgSts (s : State) (n : Node) : Word :=
  let c := s.core n
  let armed := (List.range 32).foldl
    (fun a e => a + (if (vget c.trg.entries {} e).tctl.getLsbD 0 then 2 ^ e else 0)) 0
  let free := (List.range 7).foldl
    (fun a e => a + (if (vget c.ctxs {} e).st = .free then 2 ^ e else 0)) 0
  BitVec.ofNat 64 (armed + free * 2 ^ 32 + c.trg.pseudo.length * 2 ^ 42
    + c.trg.lastEntry.toNat * 2 ^ 50 + (if c.trg.lastPseudo then 2 ^ 55 else 0)
    + (if isFrozen s n then 2 ^ 56 else 0))

/-- R87: `BANKMAP`. DESIGN CHOICE (log 3). -/
def bankMap (c : Core) : Word :=
  BitVec.ofNat 64 (c.mem.bankLive.toNat + bankCount c * 2 ^ 16 + c.mem.bankNext.toNat * 2 ^ 32
    + (if c.mem.bankNext = c.mem.bankLive then 0 else 2 ^ 48))

/-- R317: CAP, the undo log's capacity in records. -/
def logCap (c : Core) : Nat := (c.rcv.logSize.toNat - 0x40000) / 144

/-- R321: `LOG_CTL`, with REQ as the core holds it. -/
def ctabWord (c : Core) (i : Nat) : Word :=
  BitVec.ofNat 64 ((List.range 4).foldl (fun a j => a + (vget c.mx.ctab 0 (4 * i + j)).toNat * 2 ^ (16 * j)) 0)

/-- R81, R208: `RMAP_ENT` of a router: the entry last written for its segment. -/
def rmapEnt (s : State) (n : Node) : BitVec 32 :=
  let m := s.module (nodeWafer n)
  let g := siteSegment (siteOf s n)
  (AMap.find m.rmapWritten g).getD (rmapEntry m g)

/-- R113: `CORE_ID`. A site of the mapping phase serves no logical core, and its value is free. DEDUCED (log 82). -/
def coreId (n : Node) : Nat := if isSite n then bits (Config.freeWord n).toNat 0 16 else nodeNum n

/-- R113: `CLUSTER_ID`, of a site a free value. DEDUCED (log 82). -/
def clusterId (n : Node) : Nat := if isSite n then bits (Config.freeWord n).toNat 16 10 else clusterOf n

/-- R61, R113: `REGION_ID`: the slot of the region that holds the core, also while its code is delivered (R211).
DESIGN CHOICE (log 97). -/
def regionId (s : State) (n : Node) : Nat := if isSite n then 0 else (portSlot s n).getD 0

/-- The value of a CSR that an instruction of a context reads (R113); `none` for a number not in the table.
DESIGN CHOICE (log 94). DESIGN CHOICE (log 97). -/
def csrRead (s : State) (n : Node) (x : Fin 8) (k : Nat) : Option Word :=
  let c := s.core n
  let t := c.ctx x
  let w (v : Nat) : Option Word := some (BitVec.ofNat 64 v)
  match k with
  | 0x000 => w (coreId n)
  | 0x001 => w (clusterId n)
  | 0x002 => w (regionId s n)
  | 0x003 => w (s.module (nodeWafer n)).wafer
  | 0x004 => w x.val
  | 0x005 => w (cycleOf s n)
  | 0x008 => some t.sts
  | 0x009 => w t.lpCnt.toNat
  | 0x00A => w t.lpBeg.toNat
  | 0x00B => w t.lpEnd.toNat
  | 0x010 => some c.trg.ctl
  | 0x011 => some (trgSts s n)
  | 0x012 => w c.sync.flags.toNat
  | 0x030 => some c.comm.prot
  | 0x031 => some (bankMap c)
  | 0x032 => w (rmapEnt s n).toNat
  | 0x033 => w ((siteOf s n).1 + (siteOf s n).2 * 2 ^ 16)
  | 0x040 => some c.rcv.trapCause
  | 0x041 => some c.rcv.trapPc
  | 0x042 => some c.rcv.trapVal
  | 0x043 => some c.rcv.trapVec
  | 0x044 => some c.rcv.trapCtx
  | 0x048 => some (ctabWord c 0)
  | 0x049 => some (ctabWord c 1)
  | 0x04A => some (ctabWord c 2)
  | 0x04B => some (ctabWord c 3)
  | 0x050 => w c.rcv.rin.toNat
  | 0x051 => w c.rcv.rinSealed.toNat
  | 0x052 => w c.rcv.rbCount.toNat
  | 0x053 => w c.rcv.logBase.toNat
  | 0x054 => w c.rcv.logSize.toNat
  | 0x055 => w (c.rcv.logFill + logCap c * 2 ^ 32)
  | 0x056 => some c.rcv.logCtl
  | _ =>
    if inRange k 0x020 16 then
      let win := vget c.comm.win {} ((k - 0x020) / 2)
      some (if k % 2 = 0 then win.w0 else win.param)
    else if inRange k 0x080 64 then w (vget c.sync.k 0 (k - 0x080)).toNat
    else none

/-- The byte that a load through the CSR window reads (R113). -/
def csrWinByte (s : State) (n : Node) (x : Fin 8) (a : Nat) : Byte :=
  match csrRead s n x ((a - 0x300000) / 8) with
  | some w => BitVec.ofNat 8 (bits w.toNat (8 * (a % 8)) 8)
  | none => 0

/-! ### Reading a core's memory -/

/-- R317: a byte of the two checkpoint slots, whose layout belongs to the device. DESIGN CHOICE (log 17). -/
def slotByte (c : Core) (a : Nat) : Byte := Config.freeByte (c.rcv.rin.toNat + c.rcv.rbCount.toNat) a

/-- A byte of a core's scratchpad, accumulator rows, register windows or Shelf. -/
def laByte (c : Core) (a : Nat) : Byte :=
  if laRange a = some .regs then regWinByte c a
  else if !c.inService && inRange a c.rcv.logBase.toNat (min 0x40000 c.rcv.logSize.toNat) then slotByte c a
  else spanByte c.mem.mem c.mem.undef a

/-- The bytes of a range of a core's memory. -/
def laBytes (c : Core) : Nat → Nat → List Byte
  | _, 0 => []
  | a, n + 1 => laByte c a :: laBytes c (a + 1) n

/-- The bytes that a local load of a context reads (R164). -/
def loadBytes (s : State) (n : Node) (x : Fin 8) (a len : Nat) : List Byte :=
  if laRange a = some .csr then (List.range len).map fun i => csrWinByte s n x (a + i)
  else laBytes (s.core n) a len

/-! ### Local checks (R160) -/

/-- What a local access does. -/
inductive LocalUse where
  | load | store | fe | atomic
  deriving DecidableEq, Repr

/-- A trap's code and TRAP_VAL. -/
structure TrapOf where
  code : BitVec 8
  val : Word
  deriving DecidableEq, Repr

/-- R334: `E_ALIGN`. -/
def eAlign (v : Word) : TrapOf := ⟨0x03, v⟩
/-- R334: `E_PERM`. -/
def ePerm (v : Word) : TrapOf := ⟨0x04, v⟩

/-- R96: `PROT` refuses a load or a store. -/
def protRefuses (c : Core) (x : Fin 8) (r : LaRange) (store : Bool) : Bool :=
  match r with
  | .acc => x ≠ 7 && !c.comm.prot.getLsbD 2
  | .regs => store || (x ≠ 7 && !c.comm.prot.getLsbD 1)
  | .csr => store || (x ≠ 7 && !c.comm.prot.getLsbD 0)
  | .scratch | .shelf => false

/-- R96: the end of the read-only code range. -/
def codeRoTop (c : Core) : Nat := 0x40000000 + bits c.comm.prot.toNat 32 9 * 0x10000

/-- R113: the first CSR number that a range of the CSR window names and the table does not hold. -/
def csrMissing (s : State) (n : Node) (x : Fin 8) (a len : Nat) : Option Nat :=
  ((List.range ((a + len - 1) / 8 - a / 8 + 1)).map fun i => (a - 0x300000) / 8 + i).find? fun k =>
    (csrRead s n x k).isNone

/-- R160 steps 2–5, on a range whose first byte is `ea`: the first failure. DEDUCED (log 39). -/
def localCheck (s : State) (n : Node) (x : Fin 8) (use : LocalUse) (ea : Word) (len : Nat) : Option TrapOf :=
  let c := s.core n
  let a := ea.toNat
  let store := use == .store || use == .atomic
  if a ≥ 2 ^ 32 then some (ePerm ea)
  else
    match laRangeOf a len with
    | none => some (ePerm ea)
    | some r =>
      if (use == .fe && r ≠ .scratch) || (use == .atomic && r ≠ .scratch && r ≠ .shelf)
        || protRefuses c x r store
        || (store && (inLog c a len || inSpill c a len))
        || (store && r == .shelf && a < codeRoTop c) then some (ePerm ea)
      else
        match (if r = .csr then csrMissing s n x a len else none) with
        | some k => some (ePerm (BitVec.ofNat 64 k))
        | none =>
          if r = .shelf ∧ a + len > shelfTop c then some ⟨0x0B, ea⟩
          else if anyArmed c a len then some ⟨0x07, ea⟩
          else if use ≠ .store ∧ anyExpired s n a len then some ⟨0x0A, ea⟩
          else none

/-- R159, R160: a local access of `size` bytes: alignment before every check of the address (R108). -/
def localFault (s : State) (n : Node) (x : Fin 8) (use : LocalUse) (ea : Word) (size : Nat) : Option TrapOf :=
  if ea.toNat % size ≠ 0 then some (eAlign ea) else localCheck s n x use ea size

/-! ### Global addresses (R85) -/

/-- R85: the node that a GA names. -/
def gaNode (ga : Word) : Node := mkNode (bits ga.toNat 59 4) (bits ga.toNat 43 16)
/-- R85: the LA of a GA. -/
def gaLa (ga : Word) : Nat := bits ga.toNat 0 32

/-- R364, R365: the links of a module that are up, by bridge and then port, each with the module at its far end. -/
def links (s : State) (p : Nat) : List (Node × Nat × Nat) :=
  (List.range 32).flatMap fun b => (List.range 4).filterMap fun q =>
    let o := vget (s.bridge (mkNode p (0xFF00 + b))).ports {} q
    if o.up then
      (s.modules.find? fun m => m.1 ≠ p && m.2.present && m.2.wafer == bits o.entry.toNat 16 4).map fun m =>
        (mkNode p (0xFF00 + b), q, m.1)
    else none

/-- R365: the modules one optical hop from a module. -/
def oneHop (s : State) (p : Nat) : List Nat := (links s p).map (·.2.2)

/-- R365: the modules that a module reaches in at most `n` hops. -/
def reaches (s : State) (p : Nat) : Nat → List Nat
  | 0 => [p]
  | n + 1 =>
    let l := reaches s p n
    (l.flatMap (oneHop s)).foldl insertNat l

/-- R365: a module reaches another. -/
def reachable (s : State) (p q : Nat) : Bool := p == q || (reaches s p 15).contains q

/-- R365: the fewest hops from a module to another. -/
def hops (s : State) (p q : Nat) : Option Nat := (List.range 16).find? fun n => (reaches s p n).contains q

/-- R365: the ports by which traffic from a module to another leaves each module on its path: a path of fewest hops, by
the lowest bridge and then the lowest port. -/
def pathLinks (s : State) : Nat → Nat → Nat → List (Node × Nat)
  | 0, _, _ => []
  | fuel + 1, p, q =>
    if p = q then []
    else
      match (links s p).find? fun l => ((hops s l.2.2 q).map (· + 1)) == hops s p q && (hops s p q).isSome with
      | some l => (l.1, l.2.1) :: pathLinks s fuel l.2.2 q
      | none => []

/-- R365: the links that traffic between two modules takes, in both directions. -/
def usesLink (s : State) (p q : Nat) (l : Node × Nat) : Bool :=
  (pathLinks s 16 p q).contains l || (pathLinks s 16 q p).contains l

/-- R363: the module that a wafer number names, as a module of the pod sees it. -/
def waferKey (s : State) (p wafer : Nat) : Option Nat :=
  if (s.module p).wafer = wafer then some p
  else (s.modules.find? fun q => q.1 ≠ p && q.2.present && q.2.wafer == wafer).map (·.1)

/-- R365: the GA with its wafer number replaced by the module that it names; `none` where no path exists. -/
def physGa (s : State) (p : Nat) (ga : Word) : Option Word :=
  match waferKey s p (bits ga.toNat 59 4) with
  | some q =>
    if reachable s p q then
      some (BitVec.ofNat 64 (ga.toNat - bits ga.toNat 59 4 * 2 ^ 59 + q % 16 * 2 ^ 59))
    else none
  | none => none

/-- The home of a GA that an agent of a module issued; the module itself where no path exists. -/
def homeOf (s : State) (p : Nat) (ga : Word) : Node := gaNode ((physGa s p ga).getD ga)

/-- R343, R346: wafer in [19:16], number in [15:0]. -/
def location (s : State) (n : Node) : Nat := bits (s.module (nodeWafer n)).wafer 0 4 * 65536 + nodeNum n

/-- R85: a GA that an agent of a module refuses. -/
def gaBadAt (s : State) (w : Nat) (ga : Word) : Bool :=
  let num := bits ga.toNat 43 16
  !bitOf ga.toNat 63 || bits ga.toNat 32 11 ≠ 0 || (0xF3C0 ≤ num && num ≤ 0xFEFF) || 0xFF20 ≤ num
    || !(s.module w).members.getLsbD (bits ga.toNat 59 4)

/-- R85: a GA that an instruction refuses at issue. -/
def gaBad (s : State) (ga : Word) : Bool := gaBadAt s (nodeWafer s.cur.core) ga

/-- R85, R108: the faults at issue of a global access of `size` bytes: alignment first. DEDUCED (log 39). -/
def gaFault (s : State) (ga : Word) (size : Nat) : Option TrapOf :=
  if ga.toNat % size ≠ 0 then some (eAlign ga) else if gaBad s ga then some (ePerm ga) else none

/-! ### Checks at the target (R86, R94, R161) -/

/-- What a remote access needs (R94). -/
inductive RemoteUse where
  | read | write | writeFe | atomic | dealer
  deriving DecidableEq, Repr

/-- R93: the range of an enabled window. -/
def windowHolds (w : Window) (a n : Nat) : Bool :=
  let sz := bits w.w0.toNat 24 5
  let base := bits w.w0.toNat 32 32
  sz ≠ 0 && base ≤ a && a + n ≤ base + 2 ^ sz

/-- R93: the filter of a window admits a source. -/
def filterAdmits (s : State) (target : Node) (w : Window) (src : Node) : Bool :=
  let p := w.param.toNat
  match bits w.w0.toNat 18 2 with
  | 0 => (regionsOf s target).any fun r => (regionsOf s src).contains r
  | 1 => waferKey s (nodeWafer target) (bits p 8 4) == some (nodeWafer src)
      && (regionsOf s src).contains (nodeWafer src, bits p 0 5)
  | 2 => !isBridge src && waferKey s (nodeWafer target) (bits p 12 4) == some (nodeWafer src) && clusterOf src == bits p 0 10
  | _ => nodeWafer src == nodeWafer target
      && (List.range 4).any fun i => bits p (16 * i) 16 == nodeNum src && bits p (16 * i) 16 ≠ 0xFFFF

/-- R94: the rights of a window suffice for the access. -/
def rightsOk (w : Window) (u : RemoteUse) (regs : Bool) : Bool :=
  let b (i : Nat) : Bool := w.w0.getLsbD i
  if regs then
    match u with
    | .read => b 20
    | .write | .dealer => b 23
    | .writeFe => false
    | .atomic => false
  else
    match u with
    | .read => b 20
    | .write | .dealer => b 21
    | .writeFe => b 21 && b 22
    | .atomic => b 20 && b 21

/-- R115: every byte of the range may be written in a register window. -/
def allWritable (a n : Nat) : Bool := (List.range n).all fun i => regWritable ((a + i - 0x200000) % 0x2000)

/-- R86, R94: the access is refused with a NACK. -/
def nacked (s : State) (target src : Node) (u : RemoteUse) (a n : Nat) : Bool :=
  let c := s.core target
  if !isCore target || (slotOf s target).isNone then true
  else if (s.module (nodeWafer target)).retiredCores.contains (nodeNum target)
    || !clusterAvailable (s.module (nodeWafer target)) (clusterOf target) then true
  else
    match laRangeOf a n with
    | none => true
    | some .csr => true
    | some r =>
      (r == .shelf && a + n > shelfTop c)
        || !((List.range 8).any fun i =>
          let w := vget c.comm.win {} i
          windowHolds w a n && filterAdmits s target w src && rightsOk w u (r == .regs))
        || (r == .regs && u ≠ .read && !allWritable a n)
        || (u == .atomic && r ≠ .scratch && r ≠ .shelf)
        || (u == .writeFe && r ≠ .scratch)

/-- R84: the full/empty words of a range. -/
def feWords (a n : Nat) : List Nat := (List.range ((n + 3) / 4)).map fun i => a / 4 * 4 + 4 * i

/-- R161: the refusal of a remote access after admission, or by it. -/
def refusal (s : State) (target src : Node) (u : RemoteUse) (a n : Nat) : Option (BitVec 8) :=
  let c := s.core target
  if nacked s target src u a n then some 0x05
  else if u ≠ .dealer ∧ anyArmed c a n then some 0x07
  else if (u = .read ∨ u = .atomic) ∧ anyExpired s target a n then some 0x0A
  else if u = .writeFe ∧ (feWords a n).any c.mem.full.contains then some 0x05
  else none

end Sys2Proof.Machine
end

