-- ==== Sys2Proof/Machine/Freeze.lean ====
section
/-! DEFINITION. The debug freeze, the spill of channel queues and the readout stream (R136, R187, R344–R346, R355). -/

namespace Sys2Proof.Machine

/-! ### Spill areas (R187) -/

/-- R187: one 16-byte aligned record of a spill area. -/
def spillRecord (s : State) (w : ChWord) : List Byte :=
  vbytes w.val.data ++ leBytes 8 w.val.side.toNat ++ leBytes 1 w.htag.toNat
    ++ leBytes 1 (w.val.tag.toNat + (if w.val.sp then 16 else 0) + (if w.usr then 32 else 0)
        + (if w.mark then 64 else 0))
    ++ leBytes 3 (location s w.src) ++ leBytes 3 0

/-- R187: the spill-area image of a list of words. -/
def spillImage (s : State) (ws : List ChWord) : List Byte :=
  leBytes 2 ws.length ++ leBytes 62 0 ++ ws.flatMap (spillRecord s)

/-- Write bytes that no log record precedes: spill areas, log records, loading (R318). -/
def Core.pokeRaw (c : Core) (a : Nat) (bs : List Byte) : Core :=
  { c with mem := { c.mem with mem := memWrite c.mem.mem a bs, undef := cutSpans a bs.length c.mem.undef } }

/-- R187: every non-empty queue of a core is written to its spill area and emptied. -/
def Core.spill (s : State) (c : Core) : Core :=
  c.comm.chans.foldl (fun c p =>
    let ch := p.2
    if ch.queue.isEmpty then c
    else
      let c := c.pokeRaw ch.spillLa (spillImage s (ch.spill ++ ch.queue))
      { c with comm := { c.comm with
          chans := AMap.put c.comm.chans p.1 { ch with spill := ch.spill ++ ch.queue, queue := [] } } }) c

/-! ### Readout (R346) -/

/-- R346: a record with its header, padded to a multiple of 16. DEDUCED (log 89). -/
def readoutRecord (s : State) (kind item : Nat) (src : Node) (payload : List Byte) : List Byte :=
  leBytes 1 kind ++ [0] ++ leBytes 2 item ++ leBytes 4 (location s src) ++ leBytes 4 payload.length
    ++ leBytes 4 0 ++ payload ++ leBytes ((16 - payload.length % 16) % 16) 0

/-- R21: a trigger entry as 16 bytes. -/
def trigBytes (e : TrigEntry) : List Byte :=
  leBytes 2 e.fmask.toNat ++ leBytes 2 e.fval.toNat ++ leBytes 2 e.conda.toNat ++ leBytes 2 e.condb.toNat
    ++ leBytes 4 e.hpc.toNat ++ leBytes 1 e.binda.toNat ++ leBytes 1 e.bindb.toNat ++ leBytes 1 e.tctl.toNat ++ [0]

/-- Bytes of a context's register window. -/
def winBytes (k : Ctx) (off n : Nat) : List Byte := (List.range n).map fun i => regByte k (off + i)

/-- R292: the code of a Dealer's state. -/
def DkState.code : DkState → Nat
  | .idle => 0 | .running => 1 | .waiting => 2 | .sealpt => 3 | .halted => 4

/-- R290: an index of a Deck word as its 13-bit register shows it; past the end of a Deck of 8,192 words it has wrapped. -/
def dkIndex (i : Nat) : Nat := i % 8192

/-- R292: `DK_STS`. -/
def dkSts (d : Dealer) : Nat :=
  d.st.code + d.kicks.length * 2 ^ 8 + d.cause.toNat * 2 ^ 24 + dkIndex d.faultPc * 2 ^ 32

/-- R22, R346: the words that wait in the link buffers of a core's router, by port and virtual channel. -/
def linkWords (s : State) (n : Node) (port vc : Nat) : List ChWord :=
  s.net.filterMap fun m =>
    match m.kind with
    | .word at_ p w => if at_ = n ∧ p = port ∧ w.vc = vc then some w else none
    | _ => none

/-- R182: the sideband of a word's second flit: FMT, SP, TAG, USR, MARK, SRC and STREAM from the lowest bit on. The place
of each is the model's. DESIGN CHOICE (log 103). -/
def sidebandWord (s : State) (w : ChWord) : Nat :=
  w.val.tag.toNat + (if w.val.sp then 2 ^ 4 else 0) + w.htag.toNat * 2 ^ 5 + (if w.usr then 2 ^ 13 else 0)
    + (if w.mark then 2 ^ 14 else 0) + location s w.src % 2 ^ 20 * 2 ^ 15 + w.stream % 64 * 2 ^ 35

/-- R182, R346 KIND 3: the two flits of a word, each of 64 data bytes and 8 of sideband. DESIGN CHOICE (log 103). -/
def flitBytes (s : State) (w : ChWord) : List Byte :=
  (vbytes w.val.data).take 64 ++ leBytes 8 w.val.side.toNat ++ (vbytes w.val.data).drop 64 ++ leBytes 8 (sidebandWord s w)

/-- R69, R346: where the flits of a message that is no channel word stand: the spec lays down no path for them, so the link
buffer, by core, port and virtual channel, is free, but for ingress and egress words the channel. DESIGN CHOICE (log 103). -/
def flitPlace (m : Msg) : Node × Nat × Nat :=
  let free (k : Nat) : Nat := (Config.freeWord (2 ^ 40 + 4 * m.id + k)).toNat
  (mkNode (nodeWafer m.src) (free 0 % 61440), free 1 % 4,
    match m.kind with
    | .ingress .. | .egress .. => 0
    | _ => free 2 % 8)

/-- R346 KIND 3: the flits of the requests, answers and other messages in a link buffer; their number, up to three, and
their bytes are the device's. An ingress or egress word is two flits as R182 lays down. DESIGN CHOICE (log 103). -/
def otherFlits (s : State) (n : Node) (port vc : Nat) : List (List Byte) :=
  (s.net.filter fun m =>
    (match m.kind with | .word .. => false | _ => true) && flitPlace m == (n, port, vc)).flatMap fun m =>
      match m.kind with
      | .ingress _ _ _ _ w | .egress _ _ _ w => [(flitBytes s w).take 72, (flitBytes s w).drop 72]
      | _ =>
        (List.range (1 + (Config.freeWord (2 ^ 40 + 4 * m.id + 3)).toNat % 3)).map fun k =>
          (List.range 72).map fun i => Config.freeByte m.id (72 * k + i)

/-- R346: the records of one core under a mask. No record has a place for the range table of R305. DEDUCED (log 89).
DESIGN CHOICE (log 107). -/
def readoutCore (s : State) (mask : BitVec 64) (n : Node) : List (List Byte) :=
  let c := s.core n
  let r := readoutRecord s
  let ctxs := (List.range 8).map fun i => (i, vget c.ctxs {} i)
  (if mask.getLsbD 0 then ctxs.map fun p => r 0 p.1 n (winBytes p.2 0 0x80 ++ winBytes p.2 0x600 0x30) else [])
  ++ (if mask.getLsbD 1 then ctxs.map fun p => r 1 p.1 n (winBytes p.2 0x80 0x10 ++ winBytes p.2 0x100 0x480)
      else [])
  ++ (if mask.getLsbD 2 then c.comm.chans.filterMap fun p =>
        let ws := p.2.spill ++ p.2.queue
        if ws.isEmpty then none else some (r 2 p.1 n (spillImage s ws)) else [])
  ++ (if mask.getLsbD 3 then (List.range 32).map fun i =>
        let ws := linkWords s n (i / 8) (i % 8)
        let fs := otherFlits s n (i / 8) (i % 8)
        r 3 i n (leBytes 8 (2 * ws.length + fs.length) ++ ws.flatMap (flitBytes s) ++ fs.flatten) else [])
  ++ (if mask.getLsbD 4 then
        [r 4 0 n (c.trg.entries.toList.flatMap trigBytes ++ leBytes 8 c.trg.ctl.toNat
          ++ leBytes 8 (trgSts s n).toNat ++ c.trg.pseudo.flatMap fun q =>
            leBytes 4 q.h.val ++ leBytes 4 q.la ++ leBytes 4 q.len ++ leBytes 4 (location s q.src))] else [])
  ++ (if mask.getLsbD 5 then
        [r 5 0 n (c.sync.k.toList.flatMap (fun k => leBytes 4 k.toNat) ++ leBytes 8 c.sync.flags.toNat)] else [])
  ++ (if mask.getLsbD 6 then
        [r 6 0 n (c.mx.w.toList.flatMap (fun w => w.tile.toList.flatMap vbytes ++ vbytes w.scale0 ++ vbytes w.scale1
            ++ leBytes 8 (w.wfmt.toNat + (if w.wsp then 16 else 0)))
          ++ laBytes c 0x100000 0x10000 ++ leBytes 8 c.mx.cfg.toNat)] else [])
  ++ (if mask.getLsbD 8 then
        [r 8 0 n (((List.range 64).flatMap fun i =>
            match AMap.find c.comm.routes i with
            | some e => e.sets.toList.flatMap fun x => leBytes 2 x.toNat
            | none => leBytes 8 0)
          ++ (List.range 64).map fun i => BitVec.ofNat 8 (((AMap.find c.comm.routes i).map (·.cur)).getD 0))]
      else [])

/-- R346 KIND 7: the record of a hub. -/
def readoutHub (s : State) (mask : BitVec 64) (n : Node) : List (List Byte) :=
  let d := s.dealer n
  if mask.getLsbD 7 then
    [readoutRecord s 7 0 n (d.d.toList.flatMap (fun x => leBytes 8 x.toNat) ++ leBytes 8 (dkIndex d.pc) ++ leBytes 8 (dkSts d)
      ++ leBytes 8 d.inst.toNat ++ leBytes 8 d.lpCnt.toNat ++ leBytes 8 (dkIndex d.lpBeg) ++ leBytes 8 (dkIndex d.lpEnd)
      ++ d.g.toList.flatMap (fun x => leBytes 4 x.toNat)
      ++ d.held.flatMap fun h => leBytes 1 h.sz ++ leBytes 1 h.ctag.toNat ++ leBytes 1 h.inst ++ [0]
          ++ leBytes 4 (location s h.sender) ++ leBytes 8 h.stream)]
  else []

/-- R346: the cores of a slot's rectangle in ascending core number. -/
def Slot.coresByNumber (t : Slot) (w : Nat) : List Node :=
  (List.range (8 * t.h)).flatMap fun y => (List.range (8 * t.w)).map fun x =>
    mkNode w ((8 * t.y0 + y) * 256 + 8 * t.x0 + x)

/-- R346: the readout stream of a slot's region, a list of records. DEDUCED (log 89). DESIGN CHOICE (log 105). -/
def readoutStream (s : State) (w slot : Nat) (reason : Nat) : List (List Byte) :=
  let t := (s.module w).slot slot
  let mask := (t.image.map (·.readoutMask)).getD 0
  let src := owningBridge s w slot
  let cores := t.coresByNumber w
  let c := s.core (cores.headD 0)
  let body := cores.flatMap (readoutCore s mask) ++ (slotHubs s w slot).flatMap (readoutHub s mask)
  [readoutRecord s 0xFE 0 src (leBytes 8 reason ++ leBytes 8 c.rcv.rin.toNat ++ leBytes 8 c.rcv.rbCount.toNat
    ++ leBytes 8 (cycleOf s (cores.headD 0)))] ++ body
    ++ [readoutRecord s 0xFF 0 src (leBytes 8 (body.length + 2))]

/-- R62, R343: an MSI-X message of a port. -/
def sendMsix (s : State) (w port vec : Nat) : State :=
  s.modModule w fun m => { m with msix := (port, vec) :: m.msix }

/-- Write bytes into the memory of the host on a port. -/
def hostPoke (s : State) (w port a : Nat) (bs : List Byte) : State :=
  s.modModule w fun m =>
    let p := vget m.ports {} (port - 1)
    { m with ports := vset m.ports (port - 1) { p with hostMem := memWrite p.hostMem a bs } }

/-- R355: the records that a buffer of `extent` bytes takes; the last is always written in full. DEDUCED (log 89). -/
def fitReadout (recs : List (List Byte)) (extent : Nat) : List Byte :=
  let last := recs.getLastD []
  let body := recs.dropLast.flatten
  if body.length + last.length ≤ extent then body ++ last
  else body.take (extent - last.length) ++ last

/-- R65, R355: the oldest readout that the bridge holds goes to the armed buffer, unless the slot is orphaned. -/
def fillReadout (s : State) (w slot : Nat) : State :=
  let t := (s.module w).slot slot
  match t.readout, t.heldReadouts with
  | some (a, e), recs :: rest =>
    if t.orphaned then s
    else (hostPoke s w t.owner a (fitReadout recs e)).modSlot w slot fun t => { t with readout := none, heldReadouts := rest }
  | _, _ => s

/-- R23: the sequence numbers of the seal points whose checkpoints the cores of a list hold, each with its core.
DESIGN CHOICE (log 105). -/
def sealSeqs (s : State) (cores : List Node) : List (Nat × Nat) :=
  cores.filterMap fun n =>
    let r := (s.core n).rcv
    (if r.active then r.slot1 else r.slot0).map fun k => (location s n, k.sealSeq)

/-- R23, R355: a readout stream goes to the armed buffer, or is held at the bridge, and the slot keeps the sequence numbers
that it reports. DESIGN CHOICE (log 105). -/
def deliverReadout (s : State) (w slot : Nat) (recs : List (List Byte)) : State :=
  fillReadout (s.modSlot w slot fun t =>
    { t with heldReadouts := t.heldReadouts ++ [recs], readoutSeals := sealSeqs s (t.coresByNumber w) }) w slot

/-- R345: the freeze itself: spill, FROZEN, readout of every region of the domain, MSI-X vector 32. -/
def freezeNow (s : State) (d : Nat) (reason : BitVec 32) : State :=
  let s := s.modDomain d fun x =>
    { x with frozen := true, reason := reason, wantFreeze := none, phase := .open_ }
  let s := (domCores s d).foldl (fun s n => s.modCore n (Core.spill s)) s
  (memberSlots s d).foldl (fun s p =>
    sendMsix (deliverReadout s p.1 p.2 (readoutStream s p.1 p.2 reason.toNat)) p.1 ((s.module p.1).slot p.2).owner 32) s

/-- R324, R345: the sequence is past CHECK. -/
def SealPhase.pastCheck : SealPhase → Bool
  | .open_ | .hold | .check => false
  | .clean | .ckpt | .point | .flip | .change | .release => true

/-- R345: a debug freeze of a domain; past CHECK it waits until RELEASE. -/
def debugFreeze (s : State) (d : Nat) (reason : BitVec 32) : State :=
  if (s.domain d).frozen then s
  else if (s.domain d).phase.pastCheck then s.modDomain d fun x => { x with wantFreeze := some reason }
  else freezeNow s d reason

end Sys2Proof.Machine
end

