-- ==== Sys2Proof/Machine/Float.lean ====
section
/-! DEFINITION. Number formats, rounding, overflow and conversion of one value (R27–R48):
every value is held exactly and rounded once where a rule rounds it. -/

namespace Sys2Proof.Machine

/-- The floating formats of R32. -/
inductive FFmt where
  | fp32 | bf16 | e4m3 | e5m2 | e2m1
  deriving DecidableEq, Repr

/-- R32: the width of the mantissa field M. -/
def FFmt.manBits : FFmt → Nat
  | .fp32 => 23 | .bf16 => 7 | .e4m3 => 3 | .e5m2 => 2 | .e2m1 => 1

/-- R32: the width of the exponent field E. -/
def FFmt.expBits : FFmt → Nat
  | .fp32 => 8 | .bf16 => 8 | .e4m3 => 4 | .e5m2 => 5 | .e2m1 => 2

/-- R32: the exponent bias. -/
def FFmt.bias : FFmt → Nat
  | .fp32 => 127 | .bf16 => 127 | .e4m3 => 7 | .e5m2 => 15 | .e2m1 => 1

/-- R27: the element width. -/
def FFmt.width (f : FFmt) : Nat := f.manBits + f.expBits + 1

/-- R32: the encoding of the largest finite value. -/
def FFmt.maxBits : FFmt → Nat
  | .fp32 => 0x7F7FFFFF | .bf16 => 0x7F7F | .e4m3 => 0x7E | .e5m2 => 0x7B | .e2m1 => 0x7

/-- R32: the canonical NaN; E2M1 has none, and R44 gives +0 where a NaN would be the result. -/
def FFmt.canonNaN : FFmt → Nat
  | .fp32 => 0x7FC00000 | .bf16 => 0x7FC0 | .e4m3 => 0x7F | .e5m2 => 0x7E | .e2m1 => 0

/-- R32: formats with an infinity. -/
def FFmt.hasInf : FFmt → Bool
  | .fp32 | .bf16 | .e5m2 => true
  | .e4m3 | .e2m1 => false

/-- R32: the encoding of +Inf in a format that has one. -/
def FFmt.infBits (f : FFmt) : Nat := (2 ^ f.expBits - 1) * 2 ^ f.manBits

/-- The sign bit's weight. -/
def FFmt.signBit (f : FFmt) : Nat := 2 ^ (f.manBits + f.expBits)

/-- An exact value: a NaN, a signed infinity, or `(−1)^neg · mag · 2^exp` (signed zeros kept, R39). -/
inductive Ext where
  | nan
  | inf (neg : Bool)
  | fin (neg : Bool) (mag : Nat) (exp : Int)
  deriving DecidableEq, Repr

/-- R32, R33: the exact value of an encoding. -/
def decodeFloat (f : FFmt) (b : Nat) : Ext :=
  let m := bits b 0 f.manBits
  let e := bits b f.manBits f.expBits
  let neg := bitOf b (f.manBits + f.expBits)
  let top := 2 ^ f.expBits - 1
  if f.hasInf && e == top then (if m = 0 then .inf neg else .nan)
  else if f == .e4m3 && e == 15 && m == 7 then .nan
  else if e = 0 then .fin neg m (1 - (f.bias : Int) - f.manBits)
  else .fin neg (2 ^ f.manBits + m) ((e : Int) - f.bias - f.manBits)

/-- R34: an E8M0 scale. -/
def decodeE8M0 (e : Nat) : Ext := if e = 255 then .nan else .fin false 1 ((e : Int) - 127)

/-- R38: the 2-bit field codes. -/
def roundingOf (n : Nat) : RMode :=
  match n with
  | 0 => .rne | 1 => .rtz | 2 => .rdn | _ => .rup

/-- The integer nearest to `m / 2^sh` under a mode, for a value of the given sign. -/
def roundShift (md : RMode) (neg : Bool) (m sh : Nat) : Nat :=
  let q := m / 2 ^ sh
  let r := m % 2 ^ sh
  match md with
  | .rne => if 2 * r > 2 ^ sh ∨ (2 * r = 2 ^ sh ∧ q % 2 = 1) then q + 1 else q
  | .rtz => q
  | .rdn => if neg ∧ r ≠ 0 then q + 1 else q
  | .rup => if ¬ neg ∧ r ≠ 0 then q + 1 else q

/-- A value at quantum `2^q`: exact when the quantum is not coarser than the value's, else rounded. -/
def quantize (md : RMode) (neg : Bool) (mag : Nat) (exp q : Int) : Nat :=
  if q ≤ exp then mag * 2 ^ (exp - q).toNat else roundShift md neg mag (q - exp).toNat

/-- A rounded result: its encoding and the flags of R42 it gives rise to. -/
structure Rounded where
  enc : Nat
  /-- R40: the result overflowed. -/
  ovf : Bool
  /-- R44: a NaN or an infinity met a format that cannot hold it. -/
  inv : Bool
  deriving DecidableEq, Repr

/-- The encoding of a magnitude `n · 2^q` with `n < 2^(M+1)`, where `q` is at least the subnormal quantum. -/
def encodeMag (f : FFmt) (n : Nat) (q : Int) : Nat :=
  if n < 2 ^ f.manBits then n
  else (q - (1 - (f.bias : Int) - f.manBits) + 1).toNat * 2 ^ f.manBits + (n - 2 ^ f.manBits)

/-- R40: the result of an overflow. -/
def overflowBits (f : FFmt) (md : RMode) (sat neg : Bool) : Nat :=
  let sg := if neg then f.signBit else 0
  let toMax := sat || (match md with | .rne => false | .rtz => true | .rdn => !neg | .rup => neg)
  match f with
  | .e2m1 => sg + f.maxBits
  | .e4m3 => if toMax then sg + f.maxBits else f.canonNaN
  | .fp32 | .bf16 | .e5m2 => if toMax then sg + f.maxBits else sg + f.infBits

/-- R38–R41: one exact value rounded once to a format. DEDUCED (log 34). DESIGN CHOICE (log 109). -/
def roundFloat (f : FFmt) (md : RMode) (sat : Bool) : Ext → Rounded
  | .nan => { enc := f.canonNaN, ovf := false, inv := !f.hasInf }
  | .inf neg =>
    let sg := if neg then f.signBit else 0
    match f with
    | .e2m1 => { enc := sg + f.maxBits, ovf := false, inv := true }
    | .e4m3 => { enc := if sat then sg + f.maxBits else f.canonNaN, ovf := false, inv := true }
    | .fp32 | .bf16 | .e5m2 =>
      { enc := if sat then sg + f.maxBits else sg + f.infBits, ovf := false, inv := false }
  | .fin neg mag exp =>
    let sg := if neg then f.signBit else 0
    if mag = 0 then { enc := sg, ovf := false, inv := false }
    else
      let qmin : Int := 1 - (f.bias : Int) - f.manBits
      let q := max qmin ((Nat.log2 mag : Int) + exp - f.manBits)
      let n := quantize md neg mag exp q
      let (n, q) := if n = 2 ^ (f.manBits + 1) then (2 ^ f.manBits, q + 1) else (n, q)
      let e := encodeMag f n q
      if e > f.maxBits then { enc := overflowBits f md sat neg, ovf := true, inv := false }
      else { enc := sg + e, ovf := false, inv := false }

/-- The sum of two exact values; an exact zero sum of opposite signs is +0, or −0 under `.rdn` (R39, R41). -/
def Ext.add (md : RMode) : Ext → Ext → Ext
  | .nan, _ => .nan
  | .inf _, .nan => .nan
  | .inf a, .inf b => if a = b then .inf a else .nan
  | .inf a, .fin _ _ _ => .inf a
  | .fin _ _ _, .nan => .nan
  | .fin _ _ _, .inf b => .inf b
  | .fin n1 m1 e1, .fin n2 m2 e2 =>
    let e := min e1 e2
    let a : Int := (m1 * 2 ^ (e1 - e).toNat : Nat)
    let b : Int := (m2 * 2 ^ (e2 - e).toNat : Nat)
    let t := (if n1 then -a else a) + (if n2 then -b else b)
    if t = 0 then .fin (if n1 = n2 then n1 else md == .rdn) 0 e else .fin (t < 0) t.natAbs e

/-- The product of two exact values (R41: 0 × Inf is NaN). -/
def Ext.mul : Ext → Ext → Ext
  | .nan, _ => .nan
  | .inf _, .nan => .nan
  | .inf a, .inf b => .inf (a != b)
  | .inf a, .fin n m _ => if m = 0 then .nan else .inf (a != n)
  | .fin _ _ _, .nan => .nan
  | .fin n m _, .inf b => if m = 0 then .nan else .inf (n != b)
  | .fin n1 m1 e1, .fin n2 m2 e2 => .fin (n1 != n2) (m1 * m2) (e1 + e2)

/-- The value with its sign changed; NaN stays NaN. -/
def Ext.neg : Ext → Ext
  | .nan => .nan
  | .inf a => .inf (!a)
  | .fin n m e => .fin (!n) m e

/-- Compare two finite or infinite values as numbers (−0 equals +0); a NaN is handled before. -/
def Ext.cmp : Ext → Ext → Ordering
  | .nan, _ => .eq
  | _, .nan => .eq
  | .inf a, .inf b => if a = b then .eq else if a then .lt else .gt
  | .inf a, .fin _ _ _ => if a then .lt else .gt
  | .fin _ _ _, .inf b => if b then .gt else .lt
  | .fin n1 m1 e1, .fin n2 m2 e2 =>
    let e := min e1 e2
    let a : Int := (m1 * 2 ^ (e1 - e).toNat : Nat)
    let b : Int := (m2 * 2 ^ (e2 - e).toNat : Nat)
    compare (if n1 then -a else a) (if n2 then -b else b)

/-- The sign of a value that is not a NaN. -/
def Ext.isNeg : Ext → Bool
  | .nan => false
  | .inf a => a
  | .fin n _ _ => n

/-- R43: the order of `vmin` and `vmax`, in which −0 is less than +0. -/
def Ext.ltTotal (a b : Ext) : Bool :=
  match a.cmp b with
  | .lt => true
  | .gt => false
  | .eq => a.isNeg && !b.isNeg

/-- R43: minimum; a NaN input gives NaN. DEDUCED (log 35). -/
def Ext.min (a b : Ext) : Ext :=
  if a = .nan ∨ b = .nan then .nan else if b.ltTotal a then b else a

/-- R43: maximum; a NaN input gives NaN. DEDUCED (log 35). -/
def Ext.max (a b : Ext) : Ext :=
  if a = .nan ∨ b = .nan then .nan else if a.ltTotal b then b else a

/-- The exact value of a 32-bit or 8-bit integer read as signed or unsigned (R35). -/
def intValue (w : Nat) (signed : Bool) (x : Nat) : Int :=
  if signed && x ≥ 2 ^ (w - 1) then (x : Int) - 2 ^ w else x

/-- An integer as an exact value. -/
def Ext.ofInt (i : Int) : Ext := .fin (i < 0) i.natAbs 0

/-- The low `w` bits of an integer. -/
def lowBits (w : Nat) (i : Int) : Nat := (i % (2 : Int) ^ w).toNat

/-- The range of a `w`-bit integer target (R35). -/
def intMin (w : Nat) (signed : Bool) : Int := if signed then -((2 : Int) ^ (w - 1)) else 0
/-- The range of a `w`-bit integer target (R35). -/
def intMax (w : Nat) (signed : Bool) : Int := if signed then (2 : Int) ^ (w - 1) - 1 else (2 : Int) ^ w - 1

/-- R44: an integer narrowed to a `w`-bit target. -/
def narrowInt (w : Nat) (signed sat : Bool) (i : Int) : Rounded :=
  let lo := intMin w signed
  let hi := intMax w signed
  if lo ≤ i ∧ i ≤ hi then { enc := lowBits w i, ovf := false, inv := false }
  else if sat then { enc := lowBits w (if i < lo then lo else hi), ovf := false, inv := true }
  else { enc := lowBits w i, ovf := false, inv := true }

/-- R44: a floating value rounded to an integer under a mode and narrowed. -/
def floatToInt (w : Nat) (signed : Bool) (md : RMode) (sat : Bool) : Ext → Rounded
  | .nan => { enc := 0, ovf := false, inv := true }
  | .inf neg =>
    { enc := if sat then lowBits w (if neg then intMin w signed else intMax w signed) else 0,
      ovf := false, inv := true }
  | .fin neg mag exp =>
    let n : Int := quantize md neg mag exp 0
    narrowInt w signed sat (if neg then -n else n)

/-! ### Code tables (R36, R46) -/

/-- The exact distance from a finite value to a finite entry, as a magnitude and an exponent. -/
def Ext.dist (x y : Ext) : Nat × Int :=
  match Ext.add .rne x y.neg with
  | .fin _ m e => (m, e)
  | _ => (0, 0)

/-- Whether `a` is a smaller distance than `b`. -/
def distLt (a b : Nat × Int) : Bool :=
  let e := min a.2 b.2
  a.1 * 2 ^ (a.2 - e).toNat < b.1 * 2 ^ (b.2 - e).toNat

/-- The first index of the list whose entry no other entry beats. -/
def bestIndex (better : Ext → Ext → Bool) : List (Nat × Ext) → Option (Nat × Ext)
  | [] => none
  | p :: rest =>
    match bestIndex better rest with
    | none => some p
    | some q => if better q.2 p.2 then some q else some p

/-- The greatest entry (ties to the lowest index, −0 equal to +0). -/
def greatestIndex (l : List (Nat × Ext)) : Nat :=
  ((bestIndex (fun q p => q.cmp p == .gt) l).map (·.1)).getD 0
/-- The least entry (ties to the lowest index, −0 equal to +0). -/
def leastIndex (l : List (Nat × Ext)) : Nat :=
  ((bestIndex (fun q p => q.cmp p == .lt) l).map (·.1)).getD 0

/-- Pair each element with its index. -/
def indexed {α : Type} (l : List α) (from_ : Nat) : List (Nat × α) :=
  match l with
  | [] => []
  | a :: t => (from_, a) :: indexed t (from_ + 1)

/-- R46: the index of the code-table entry chosen for a value. -/
def toCB4 (ctab : List Ext) (x : Ext) : Rounded :=
  let all := indexed ctab 0
  let live := all.filter (fun p => p.2 ≠ .nan)
  let finite := live.filter (fun p => match p.2 with | .fin _ _ _ => true | _ => false)
  let r (n : Nat) (nv : Bool) : Rounded := { enc := n, ovf := false, inv := nv }
  if live.isEmpty then r 0 true
  else
    match x with
    | .nan =>
      match all.find? (fun p => p.2 = .nan) with
      | some p => r p.1 false
      | none => r 0 true
    | .inf neg => r (if neg then leastIndex live else greatestIndex live) false
    | .fin neg m e =>
      if finite.isEmpty then r (if neg then leastIndex live else greatestIndex live) false
      else
        r (((bestIndex (fun q p => distLt (Ext.dist (.fin neg m e) q) (Ext.dist (.fin neg m e) p))
              finite).map (·.1)).getD 0) false

/-- R47: a BF16 immediate as an exact value. -/
def bf16Ext (imm : Nat) : Ext := decodeFloat .bf16 imm

/-! ### FP32 helpers: one rounding each (R38) -/

/-- The exact value of an FP32 lane. -/
def f32 (x : BitVec 32) : Ext := decodeFloat .fp32 x.toNat

/-- R8: `rne_f32`, the exact value rounded once to FP32. -/
def rneF32 (x : Ext) : BitVec 32 := BitVec.ofNat 32 (roundFloat .fp32 .rne false x).enc

/-- Whether an RNE rounding to FP32 overflows (R40). -/
def rneOvf (x : Ext) : Bool := (roundFloat .fp32 .rne false x).ovf

/-- The exact sum of products of a list of pairs, terms taken in order (R8 `exact_dot`). -/
def exactDot : List (Ext × Ext) → Ext
  | [] => .fin false 0 0
  | [(a, b)] => a.mul b
  | (a, b) :: rest => (a.mul b).add .rne (exactDot rest)

end Sys2Proof.Machine
end

