-- ==== Sys2Proof/Machine/Flags.lean ====
section
/-! DEFINITION. The status flags of a context: `STS` (R42, R114, R144). -/

namespace Sys2Proof.Machine

/-- R114: the bit of `STS.DZ`. -/
def stsDZ : BitVec 64 := 1
/-- R114: the bit of `STS.NV`. -/
def stsNV : BitVec 64 := 2
/-- R114: the bit of `STS.OF`. -/
def stsOF : BitVec 64 := 4
/-- R114: the bit of `STS.SVC`. -/
def stsSVC : BitVec 64 := 16

/-- R42: a flag becomes set and stays set. -/
def Ctx.raiseFlag (k : Ctx) (f : BitVec 64) (on : Bool) : Ctx := if on then { k with sts := k.sts ||| f } else k

/-- R42: the flags of a list of rounded results: OF when one overflowed, NV when one was invalid. -/
def Ctx.raiseRounded (k : Ctx) (l : List Rounded) : Ctx :=
  (k.raiseFlag stsOF (l.any (·.ovf))).raiseFlag stsNV (l.any (·.inv))

/-- R114: a write of `STS` clears the flags whose bit is 1. -/
def Ctx.clearFlags (k : Ctx) (w : Word) : Ctx := { k with sts := k.sts &&& ~~~(w &&& 7) }

/-- R114: a firing clears every bit except SVC. -/
def freshSts (sts : BitVec 64) : BitVec 64 := sts &&& stsSVC

end Sys2Proof.Machine
end

