-- ==== Sys2Proof/Machine/Operands.lean ====
section
/-! DEFINITION. The operand forms: registers of the issuing context, memory operands, targets, literals, and which
registers an instruction reads (R102, R111, R139, R140, R159, R268). -/

namespace Sys2Proof.Machine

/-! ### The issuing context -/

/-- The context that is executing. -/
def State.cc (s : State) : Ctx := s.ctx s.cur.core s.cur.ctx
/-- The core that is executing. -/
def State.cn (s : State) : Core := s.core s.cur.core
/-- Change the context that is executing. -/
def State.modCc (s : State) (f : Ctx → Ctx) : State := s.modCtx s.cur.core s.cur.ctx f
/-- Change the core that is executing. -/
def State.modCn (s : State) (f : Core → Core) : State := s.modCore s.cur.core f

/-- R111: a scalar register; `s0` reads as zero. -/
def Ctx.sreg (k : Ctx) (r : SReg) : Word := if r = 0 then 0 else k.s[r]
/-- R158: an awaited word enters a scalar register. -/
def Ctx.fillS (k : Ctx) (id : Nat) (r : SReg) (x : Word) : Ctx :=
  let y := k.keepPoked id 8 x.toNat k.s[r].toNat
  if r = 0 then k else { k with
    s := k.s.set r (BitVec.ofNat 64 y), pending := k.pending.filter (fun p => p.2 ≠ .request id)
    poked := k.poked.filter (·.1 ≠ id) }
/-- R158: an awaited row enters a vector register; its tag, SP and side field are the result's (R115). -/
def Ctx.fillV (k : Ctx) (id : Nat) (r : VReg) (x : VVal) : Ctx :=
  { k with
    v := k.v.set r { x with data := BitVec.ofNat 1024 (k.keepPoked id 128 x.data.toNat k.v[r].data.toNat) }
    pending := k.pending.filter (fun p => p.2 ≠ .request id), poked := k.poked.filter (·.1 ≠ id) }
/-- R158, R240: an awaited 32-bit lane enters a vector register. -/
def Ctx.fillLane (k : Ctx) (id : Nat) (r : VReg) (i : Nat) (x : BitVec 32) : Ctx :=
  let old := k.v[r].data.toNat
  let new := (List.range 4).foldl (fun y j =>
    if k.poked.contains (id, 4 * i + j) then y else setByte y (4 * i + j) (x.extractLsb' (8 * j) 8)) old
  { k with v := k.v.set r { k.v[r] with data := BitVec.ofNat 1024 new } }
/-- R158: a register no longer awaits the result of a name. -/
def Ctx.arrived (k : Ctx) (id : Nat) : Ctx :=
  { k with pending := k.pending.filter (fun p => p.2 ≠ .request id), poked := k.poked.filter (·.1 ≠ id) }
/-- R111: write a scalar register; a write to `s0` is discarded. A result still pending for it is dropped.
DEDUCED (log 22). -/
def Ctx.setSreg (k : Ctx) (r : SReg) (x : Word) : Ctx :=
  if r = 0 then k else { k with s := k.s.set r x, pending := k.pending.filter (fun p => p.1 ≠ .s r) }
/-- A vector register. -/
def Ctx.vreg (k : Ctx) (r : VReg) : VVal := k.v[r]
/-- Write a vector register. -/
def Ctx.setVreg (k : Ctx) (r : VReg) (x : VVal) : Ctx :=
  { k with v := k.v.set r x, pending := k.pending.filter (fun p => p.1 ≠ .v r) }
/-- A predicate register. -/
def Ctx.preg (k : Ctx) (r : PReg) : Pred := k.p[r]
/-- Write a predicate register. -/
def Ctx.setPreg (k : Ctx) (r : PReg) (x : Pred) : Ctx :=
  { k with p := k.p.set r x, pending := k.pending.filter (fun p => p.1 ≠ .p r) }

/-- A scalar register of the issuing context. -/
def State.sr (s : State) (r : SReg) : Word := s.cc.sreg r
/-- A vector register of the issuing context. -/
def State.vr (s : State) (r : VReg) : VVal := s.cc.vreg r
/-- A predicate register of the issuing context. -/
def State.pr (s : State) (r : PReg) : Pred := s.cc.preg r
/-- Write a scalar register of the issuing context. -/
def State.setS (s : State) (r : SReg) (x : Word) : State := s.modCc fun k => k.setSreg r x
/-- Write a vector register of the issuing context. -/
def State.setV (s : State) (r : VReg) (x : VVal) : State := s.modCc fun k => k.setVreg r x
/-- Write a predicate register of the issuing context. -/
def State.setP (s : State) (r : PReg) (x : Pred) : State := s.modCc fun k => k.setPreg r x

/-- A register awaits a result (R140, R165, R172, R173). DEDUCED (log 22). -/
def Ctx.await (k : Ctx) (r : RegName) (a : Await) : Ctx := { k with pending := k.pending ++ [(r, a)] }
/-- R140: a later instruction writes a register, which awaits the results of earlier ones no more. DEDUCED (log 22). -/
def Ctx.forget (k : Ctx) (r : RegName) : Ctx := { k with pending := k.pending.filter (fun p => p.1 ≠ r) }
/-- R140, R165, R217: what a register awaits has still to come in a cycle of the core. -/
def Await.isOpen (cycle : Nat) : Await → Bool
  | .request _ | .sector _ => true
  | .cycle t => cycle < t
/-- R140: a register awaits a result in a cycle of the core. -/
def Ctx.awaits (k : Ctx) (cycle : Nat) (r : RegName) : Bool := k.pending.any fun p => p.1 == r && p.2.isOpen cycle

/-- R139: the registers as an instruction reads them when it issues. -/
def Ctx.regs (k : Ctx) : Regs := { s := k.s, v := k.v, p := k.p }
/-- A scalar register as read at issue. -/
def Regs.sreg (g : Regs) (r : SReg) : Word := if r = 0 then 0 else g.s[r]
/-- A vector register as read at issue. -/
def Regs.vreg (g : Regs) (r : VReg) : VVal := g.v[r]
/-- A predicate register as read at issue. -/
def Regs.preg (g : Regs) (r : PReg) : Pred := g.p[r]

/-! ### Memory operands, literals, targets -/

/-- R159: the address of a local form. -/
def localEa (base : Word) (off : BitVec 16) : Word := base + off.signExtend 64
/-- R159: the address of a global form; the offset never carries into the core and wafer fields. -/
def globalGa (base : Word) (off : BitVec 16) : Word :=
  base.extractLsb' 32 32 ++ (base.extractLsb' 0 32 + off.signExtend 32)
/-- R102, R149: the PC that a target names, in the line of the branch. -/
def targetPc (pc : BitVec 32) (t : Target) : BitVec 32 :=
  (pc &&& ~~~63#32) + (t.loff.signExtend 32 <<< 6) + 2 + (t.slot.setWidth 32 <<< 1)
/-- R272, R273: a 32-bit operand, a literal sign-extended or the low half of a register. -/
def State.operand32 (s : State) : RegOrImm → BitVec 32
  | .imm v => v.signExtend 32
  | .reg sa => (s.sr sa).extractLsb' 0 32
/-- R276: a 16-bit mask, a literal or the low bits of a register. -/
def State.operand16 (s : State) : RegOrImm → BitVec 16
  | .imm v => v
  | .reg sa => (s.sr sa).extractLsb' 0 16
/-- R277: the entries that an arming form names. -/
def State.operandEntries (s : State) : RegOrImm → BitVec 32
  | .imm v => 1#32 <<< (v.toNat % 32)
  | .reg sa => (s.sr sa).extractLsb' 0 32
/-- R114: the issuing context runs in service mode. -/
def State.svc (s : State) : Bool := s.cc.sts.getLsbD 4

/-! ### Registers that an instruction reads (R140) -/

/-- The registers of a literal or register operand. -/
def roiRegs : RegOrImm → List RegName
  | .imm _ => []
  | .reg sa => [.s sa]

/-- A predicated result keeps the lanes it does not write, so it reads its destination (R105). -/
def predRegs (vd : VReg) : Option PReg → List RegName
  | none => []
  | some p => [.p p, .v vd]

/-- The register of a predicate that only masks what an instruction reads. -/
def maskRegs : Option PReg → List RegName
  | none => []
  | some p => [.p p]

/-- The registers of a vector shift amount. -/
def shiftRegs : ShiftBy → List RegName
  | .reg vb => [.v vb]
  | .amt _ => []

/-- The registers of a broadcast source. -/
def bcastRegs : BcastSrc → List RegName
  | .lane va _ => [.v va]
  | .scalar sa _ => [.s sa]

/-- The registers of a scan's carry-in. -/
def scanRegs : ScanIn → List RegName
  | .vc v _ => [.v v]
  | .none | .w => []

/-- R36, R54: the code table, where a type is CB4. -/
def ctabRegs (ty : VTy) : List RegName := if ty = .cb4 then [.ctab] else []

/-- R140: the registers that an instruction reads when it issues. A conversion reads its destination only where it keeps
elements of it (R233). -/
def reads : Instr → List RegName
  | .ret => [.s 15]
  | .bEq a b _ | .bNe a b _ | .bLt a b _ | .bGe a b _ | .bLtn a b _ | .bGen a b _ => [.s a, .s b]
  | .bpAny p _ | .bpAll p _ | .bpNone p _ => [.p p]
  | .loop a _ => [.s a]
  | .add _ a b | .sub _ a b | .mul _ a b | .mulh _ a b | .mulhn _ a b | .div _ a b | .divn _ a b
  | .rem _ a b | .remn _ a b | .and _ a b | .or _ a b | .xor _ a b | .andn _ a b | .shl _ a b
  | .shr _ a b | .sra _ a b | .min _ a b | .max _ a b | .minn _ a b | .maxn _ a b | .slt _ a b
  | .sltn _ a b => [.s a, .s b]
  | .sel _ a b c _ => [.s a, .s b, .s c]
  | .popc _ a | .clz _ a | .ctz _ a => [.s a]
  | .addi _ a _ | .andi _ a _ | .ori _ a _ | .xori _ a _ => [.s a]
  | .shli _ a _ | .shri _ a _ | .srai _ a _ => [.s a]
  | .movk d _ _ => [.s d]
  | .ldS8 _ a _ | .ldS16 _ a _ | .ldS32 _ a _ | .ldS64 _ a _ | .ldN8 _ a _ | .ldN16 _ a _ | .ldN32 _ a _
  | .ldWf _ a _ | .ldWfe _ a _ | .feTst _ a _ => [.s a]
  | .stN8 b a _ | .stN16 b a _ | .stN32 b a _ | .stN64 b a _ | .stWef b a _ | .stSf b a _ => [.s b, .s a]
  | .pf a _ | .feSet a _ | .feClr a _ => [.s a]
  | .amoAdd _ b a _ _ _ _ | .amoMin _ b a _ _ _ _ | .amoMax _ b a _ _ _ _ | .amoAnd _ b a _ _ _ _
  | .amoOr _ b a _ _ _ _ | .amoXchg _ b a _ _ _ _ => [.s b, .s a]
  | .amoCas _ b c a _ _ _ _ => [.s b, .s c, .s a]
  | .get _ a _ _ => [.s a]
  | .getv _ a _ => [.s a]
  | .put b a _ _ _ => [.s b, .s a]
  | .putv v a _ _ => [.v v, .s a]
  | .putH b a c _ => [.s b, .s a, .s c]
  | .putK b a c _ | .cpStart b a c _ => [.s b, .s a, .s c]
  | .l1Wb a b | .l1Inv a b | .l2Inv a b => [.s a, .s b]
  | .chsend v a _ => [.v v, .s a]
  | .chmark a _ => [.s a]
  | .nbPut v _ => [.v v]
  | .trgArm x | .trgOff x | .flgSet x | .flgClr x => roiRegs x
  | .cntAdd _ x | .cntSet _ x | .cntWait _ _ x _ => roiRegs x
  | .barWait a _ => [.s a]
  | .vadd d a b p _ _ _ | .vsub d a b p _ _ _ | .vmul d a b p _ _ _ | .vmin d a b p _ _ _
  | .vmax d a b p _ _ _ => [.v a, .v b] ++ predRegs d p
  | .vfma d a b c p _ _ _ | .vfms d a b c p _ _ _ | .vfnma d a b c p _ _ _ =>
    [.v a, .v b, .v c] ++ predRegs d p
  | .vabs d a p _ _ _ | .vneg d a p _ _ _ => [.v a] ++ predRegs d p
  | .vaddImm d a p _ _ _ _ | .vsubImm d a p _ _ _ _ | .vmulImm d a p _ _ _ _ | .vminImm d a p _ _ _ _
  | .vmaxImm d a p _ _ _ _ => [.v a] ++ predRegs d p
  | .vrcp d a p _ _ | .vrsqrt d a p _ _ | .vexp2 d a p _ _ | .vlog2 d a p _ _ | .vtanh d a p _ _
  | .vsgm d a p _ _ => [.v a] ++ predRegs d p
  | .vsqrt d a p _ _ => [.v a] ++ predRegs d p
  | .vand d a b p | .vor d a b p | .vxor d a b p => [.v a, .v b] ++ predRegs d p
  | .vshl d a x p _ | .vshr d a x p _ | .vsra d a x p _ => [.v a] ++ shiftRegs x ++ predRegs d p
  | .vmulh d a b p _ => [.v a, .v b] ++ predRegs d p
  | .vaddc _ a b q i _ | .vsubc _ a b q i _ => [.v a, .v b] ++ (if i = .p then [.p q] else [])
  | .vcmp d a b p _ _ _ =>
    [.v a, .v b] ++ (match p with | none => [] | some q => [.p q, .p d])
  | .vsel _ a b p => [.v a, .v b, .p p]
  | .pand _ a b | .por _ a b | .pxor _ a b => [.p a, .p b]
  | .pnot _ a => [.p a]
  | .pcnt _ a | .pfirst _ a => [.p a]
  | .vmov d a p => [.v a] ++ predRegs d p
  | .vbcast d x p => bcastRegs x ++ predRegs d p
  | .vbcastImm d p _ _ _ _ => predRegs d p
  | .vins d a _ => [.v d, .s a]
  | .vext _ a _ => [.v a]
  | .vperm d a b p => [.v a, .v b] ++ predRegs d p
  | .vrot d a _ p => [.v a] ++ predRegs d p
  | .vshf d a b _ p => [.v a, .v b] ++ predRegs d p
  | .vredAdd _ a p _ | .vredMax _ a p _ | .vredMin _ a p _ => [.v a] ++ maskRegs p
  | .vscanAdd _ a p _ x _ | .vscanMax _ a p _ x _ | .vscanMul _ a p _ x _ => [.v a] ++ scanRegs x ++ maskRegs p
  | .vlrec _ a b c _ _ _ => [.v a, .v b, .v c]
  | .vcvt d a dst src _ _ _ =>
    [.v a] ++ (if src.count < dst.count then [.v d] else []) ++ ctabRegs dst ++ ctabRegs src
  | .vdq _ a _ src _ _ _ => [.v a] ++ ctabRegs src
  | .vqnt d a c dst _ _ _ => [.v a, .v d] ++ (if dst = .e2m1 then [] else [.v c]) ++ ctabRegs dst
  | .vlut _ a _ _ _ => [.v a, .ctab]
  | .ctabWr a => [.v a]
  | .vld d a _ p _ => [.s a] ++ predRegs d p
  | .vst v a _ p => [.v v, .s a] ++ maskRegs p
  | .vgat d b a _ p _ => [.v b, .s a] ++ predRegs d p
  | .vsct v b a _ p => [.v v, .v b, .s a] ++ maskRegs p
  | .vtagRd _ a _ => [.v a]
  | .vtagSet d a _ _ _ => [.v d, .s a]
  | .mxLdw _ a _ _ _ => [.s a]
  | .mxScw _ v _ => [.v v]
  | .mxCfg _ a => (match a with | none => [] | some r => [.s r])
  | .mxMac _ v _ ty _ | .mxMacp _ v _ ty _ _ _ => [.v v] ++ ctabRegs ty
  | .mxRun ty _ _ _ => ctabRegs ty
  | .collKick a b c _ => [.s a, .s b, .s c]
  | .collWait _ a _ => [.s a]
  | .collRng _ a => [.s a]
  | .csrWr _ a _ | .csrSet _ a _ | .csrClr _ a _ => [.s a]
  | .frz a => [.s a]
  | _ => []

/-! ### Classes of accesses (R179) -/

/-- R179: local loads and stores, full/empty forms and local atomics: the local alias port (R192). -/
def localPort : Instr → Bool
  | .ldS8 .. | .ldS16 .. | .ldS32 .. | .ldS64 .. | .ldN8 .. | .ldN16 .. | .ldN32 ..
  | .stN8 .. | .stN16 .. | .stN32 .. | .stN64 .. | .ldWf .. | .ldWfe .. | .stWef .. | .stSf ..
  | .feSet .. | .feClr .. | .feTst .. | .vld .. | .vst .. | .vgat .. | .vsct .. => true
  | .amoAdd _ _ _ _ _ _ g | .amoMin _ _ _ _ _ _ g | .amoMax _ _ _ _ _ _ g | .amoAnd _ _ _ _ _ _ g
  | .amoOr _ _ _ _ _ _ g | .amoXchg _ _ _ _ _ _ g => !g
  | .amoCas _ _ _ _ _ _ _ g => !g
  | _ => false

/-- R179: the group *reads*. DEDUCED (log 48). -/
def isRead : Instr → Bool
  | .ldS8 .. | .ldS16 .. | .ldS32 .. | .ldS64 .. | .ldN8 .. | .ldN16 .. | .ldN32 ..
  | .ldWf .. | .ldWfe .. | .feTst .. | .vld .. | .vgat .. | .get .. | .getv .. | .chrecv ..
  | .amoAdd .. | .amoMin .. | .amoMax .. | .amoAnd .. | .amoOr .. | .amoXchg .. | .amoCas .. => true
  | _ => false

/-- R179, R199: the group *writes*; a release fence before an `nb.put` holds it back. DEDUCED (log 48). -/
def isWrite : Instr → Bool
  | .stN8 .. | .stN16 .. | .stN32 .. | .stN64 .. | .ldWfe .. | .stWef .. | .stSf .. | .feSet .. | .feClr ..
  | .vst .. | .vsct .. | .put .. | .putv .. | .putH .. | .putK .. | .cntAdd .. | .chsend .. | .chmark .. | .nbPut ..
  | .amoAdd .. | .amoMin .. | .amoMax .. | .amoAnd .. | .amoOr .. | .amoXchg .. | .amoCas .. => true
  | _ => false

/-- R162: a form that occupies a put-tracker entry. -/
def tracked : Instr → Bool
  | .get .. | .getv .. | .put .. | .putv .. | .putH .. | .putK .. => true
  | .amoAdd _ _ _ _ _ _ g | .amoMin _ _ _ _ _ _ g | .amoMax _ _ _ _ _ _ g | .amoAnd _ _ _ _ _ _ g
  | .amoOr _ _ _ _ _ _ g | .amoXchg _ _ _ _ _ _ g => g
  | .amoCas _ _ _ _ _ _ _ g => g
  | _ => false

/-- R140: the divisions, which share the core's one divider. -/
def isDivision : Instr → Bool
  | .div .. | .divn .. | .rem .. | .remn .. => true
  | _ => false

/-- R240: a form that needs the load and store port of the core. -/
def usesPort (i : Instr) : Bool := localPort i || (match i with | .pf .. => true | _ => false)

/-- R240: a form that holds the load and store port for 8 cycles. -/
def holdsPort : Instr → Bool
  | .vgat .. | .vsct .. => true
  | _ => false

/-- R247: a form that enters the matrix operation queue. -/
def isMatrix : Instr → Bool
  | .mxLdw .. | .mxLdwc .. | .mxScw .. | .mxCfg .. | .mxClr .. | .mxMac .. | .mxMacp .. | .mxRun .. | .mxRd .. => true
  | _ => false

/-- R199: the forms that change a full/empty bit wait for the earlier accesses of their context homed on the core. -/
def releasesWord : Instr → Bool
  | .stSf .. | .stWef .. | .feSet .. | .feClr .. | .ldWfe .. => true
  | _ => false

/-- R272, R276: forms that wait for the earlier writes of their context homed on the core. -/
def releases : Instr → Bool
  | .cntAdd .. | .flgSet .. | .flgClr .. => true
  | _ => false

end Sys2Proof.Machine
end

