-- ==== Sys2Proof/Machine/Route.lean ====
section
/-! DEFINITION. Where channel words can go: routers, ports and channels (R20, R184, R300, R312), what lies within a scope
(R195), and the order of words on a link (R184, R198). -/

namespace Sys2Proof.Machine

/-! ### Chunk streams and attachment routers (R300) -/

/-- R300, R312: a stream number is a chunk stream of a core's image. DEDUCED (log 29). -/
def isChunkStream (s : State) (n : Node) (stream : Nat) : Bool :=
  match slotOf s n with
  | some i => (((s.module (nodeWafer n)).slot i).image.map (fun m => m.chunk.getLsbD stream)).getD false
  | none => false

/-- The core one hop away on the wafer. -/
def meshNext (n : Node) (d : Nat) : Option Node :=
  let x := coreX n
  let y := coreY n
  let go (x' y' : Nat) : Option Node := some (mkNode (nodeWafer n) (y' * 256 + x'))
  match d with
  | 0 => if y = 0 then none else go x (y - 1)
  | 1 => if x ≥ 255 then none else go (x + 1) y
  | 2 => if y ≥ 239 then none else go x (y + 1)
  | _ => if x = 0 then none else go (x - 1) y

/-- R300: the core at whose router a bridge's Dealer attaches. -/
def attachCore (b : Nat) : Nat :=
  let i := b % 8
  match b / 8 with
  | 0 => 32 * i + 16
  | 1 => (30 * i + 15) * 256 + 255
  | 2 => 239 * 256 + 32 * i + 16
  | _ => (30 * i + 15) * 256

/-- R300: the Dealer attached at a router that takes a chunk stream there. -/
def attachedDealer (n : Node) (stream : Nat) : Option Node :=
  let num := nodeNum n
  let bridge := ((List.range 32).find? fun b => attachCore b == num).map fun b => mkNode (nodeWafer n) (0xFF00 + b)
  if coreX n % 8 = 0 ∧ coreY n % 8 = 0 then
    match bridge with
    | some b => if 60 ≤ stream then some b else some (hubOf n)
    | none => some (hubOf n)
  else bridge

/-- The word is a chunk word, or a marker on a chunk stream. -/
def onChunkStream (s : State) (n : Node) (w : ChWord) : Bool := w.chunk.isSome || isChunkStream s n w.stream

/-- R300: a word that goes to the Dealer of an attachment router: a chunk word, or a marker on a chunk stream. -/
def forDealer (s : State) (n : Node) (w : ChWord) : Bool :=
  w.chunk.isSome || (w.mark && isChunkStream s n w.stream)

/-- R184: the channel of a core that takes a word. -/
def channelFor (s : State) (n : Node) (w : ChWord) : Option (Nat × Chan) :=
  (s.core n).comm.chans.find? fun p => !p.2.host && p.2.stream == w.stream && p.2.src == w.src

/-- R184, R193, R300: the home of a word at the local port of a core's router: the Dealer attached there, or the core. -/
def wordHome (s : State) (n : Node) (w : ChWord) : Option Node :=
  (if forDealer s n w then attachedDealer n w.stream else none) <|> ((channelFor s n w).map fun _ => n)

/-! ### The ports that a word can reach (R20, R184) -/

/-- R20: the set index after a marker. -/
def nextSet (r : Route) : Nat := if (vget r.sets 0 r.cur).getLsbD 13 then 0 else (r.cur + 1) % 4

/-- R20: the current set of an entry and those that `k` markers step it to. -/
def Route.setsFrom (r : Route) : Nat → List (BitVec 16)
  | 0 => [vget r.sets 0 r.cur]
  | k + 1 => vget r.sets 0 r.cur :: Route.setsFrom { r with cur := nextSet r } k

/-- R184: the output ports of a set. DEDUCED (log 27). -/
def outPorts (set : BitVec 16) : List Nat := (List.range 5).filter fun i => set.getLsbD (5 + i)

/-- R184: where a word at a router's port can be next under one set: the ports that it reaches, port 5 for its home at
the core. -/
def portsUnder (n : Node) (port : Nat) (set : BitVec 16) : List (Node × Nat) :=
  if set.getLsbD 15 && set.getLsbD port then
    (outPorts set).filterMap fun o =>
      if o = 4 then some (n, 5) else (meshNext n o).map fun m => (m, oppositeDir o)
  else []

/-- R184: where it can be next under a set to which markers may step the router's entry. -/
def portsNext (s : State) (stream : Nat) (p : Node × Nat) : List (Node × Nat) :=
  match AMap.find (s.core p.1).comm.routes stream with
  | some r => (r.setsFrom 3).flatMap (portsUnder p.1 p.2)
  | none => []

/-- R184: a word at one of a list of ports can reach a home of a kind; `fuel` bounds the ports looked at.
DEDUCED (log 52). -/
def mayReach (s : State) (w : ChWord) (home : Node → Bool) : Nat → List (Node × Nat) → List (Node × Nat) → Bool
  | 0, _, _ => true
  | _, [], _ => false
  | fuel + 1, p :: work, seen =>
    if p.2 = 5 then (wordHome s p.1 w).any home || mayReach s w home fuel work seen
    else if seen.contains p then mayReach s w home fuel work seen
    else mayReach s w home fuel (portsNext s w.stream p ++ work) (p :: seen)

/-- R184: the word at a router's port can reach a home of a kind. -/
def wordReaches (s : State) (n : Node) (port : Nat) (w : ChWord) (home : Node → Bool) : Bool :=
  mayReach s w home (2 ^ 20) [(n, port)] []

/-! ### The order of words (R184, R198) -/

/-- R184: an earlier word of the same source and stream can still reach the channel that a word would enter, so the word
waits: words of one source, stream and channel arrive in send order. DEDUCED (log 52). -/
def overtakes (s : State) (n : Node) (w : ChWord) : Bool :=
  s.net.any fun e => match e.kind with
    | .word m p v =>
      v.src == w.src && v.stream == w.stream && v.lot < w.lot && wordReaches s m p v (· == n)
    | _ => false

/-- R184, R198: a word at the local port of its core's router waits for an earlier word alone. DEDUCED (log 52). -/
def orderWaits (s : State) (n : Node) (w : ChWord) : Bool :=
  (match AMap.find (s.core n).comm.routes w.stream with
    | some r => (vget r.sets 0 r.cur).getLsbD 9
    | none => false)
  && wordHome s n w == some n
  && (match channelFor s n w with
    | some (_, x) => x.queue.length < 16 && x.spill.isEmpty
    | none => false)
  && overtakes s n w

/-- R20, R184, R198: an earlier word keeps a later one from moving: at one port, words of one source and stream go in the
order in which they were sent; other words on one virtual channel of a link in the order in which they entered it, but for
those that wait for an earlier word alone. DEDUCED (log 52). -/
def wordAhead (s : State) (e m : Msg) : Bool :=
  match e.kind, m.kind with
  | .word a p v, .word b q w =>
    a == b && p == q
      && (if v.src == w.src && v.stream == w.stream then v.lot < w.lot || (v.lot == w.lot && e.id < m.id)
          else p != 4 && v.vc == w.vc && e.id < m.id && !orderWaits s a v)
  | _, _ => false

/-! ### Scopes (R195) -/

/-- R195: a home lies within a scope of a context of core `n`. -/
def inScope (s : State) (n : Node) (sc : Scope) (home : Node) : Bool :=
  match sc with
  | .ctx | .core => home == n
  | .clu => nodeWafer home == nodeWafer n && !isBridge home && clusterOf home == clusterOf n
  | .reg => (regionsOf s home).any (regionsOf s n).contains
  | .waf => nodeWafer home == nodeWafer n
  | .pod => true

/-- R199, R293: a home lies in the kicked Dealer's cluster, or in the kicker's region for an edge-bridge Dealer. -/
def kickReach (s : State) (kicker d home : Node) : Bool :=
  if isHub d then isCore home && nodeWafer home == nodeWafer d && clusterOf home == clusterOf d
  else (regionsOf s home).any (regionsOf s kicker).contains

/-- R179, R193: a channel, neighbour or egress word in flight may still reach a home of a kind. -/
def wordMayReach (s : State) (m : Msg) (home : Node → Bool) : Bool :=
  match m.kind with
  | .word n p w => wordReaches s n p w home
  | .egress w i _ _ => home (owningBridge s w i)
  | .nbWord n _ _ => home n
  | _ => false

end Sys2Proof.Machine
end

