-- ==== Sys2Proof/Machine/Ops.lean ====
section
/-! DEFINITION. The shared operations: free choices, messages, seal requests, first-store logging and memory writes,
taking a trap and returning from one, blocking, completing, and when an instruction may start. -/

namespace Sys2Proof.Machine

/-- The outcome of an instruction. -/
abbrev Out := Host.Outcome State Fault Refusal

/-! ### Free values and names -/

/-- Draw a free value; the state counts the draws. DESIGN CHOICE (log 8). -/
def drawn (s : State) : State := { s with draws := s.draws + 1 }
/-- A choice among `n` that the spec leaves open. DESIGN CHOICE (log 8). -/
def chosen (s : State) (n : Nat) : Nat := Config.freeChoice s.draws % n

/-- The next name. DESIGN CHOICE (log 9). -/
def named (s : State) : State := { s with nextId := s.nextId + 1 }

/-! ### Messages (R198, R316) -/

/-- The region that a bridge sends for: that of its Dealer's Deck, else the first that it serves. -/
def bridgeSlot (s : State) (b : Node) : Option Nat :=
  let d := (s.bridge b).dealer
  if d.deck.isSome then some d.slot else (servedSlots s b).head?

/-- The core whose `RIN` and `RB_COUNT` are those of the domain of an agent. -/
def tagCore (s : State) (src : Node) : Core :=
  if isCore src then s.core src
  else if isHub src then s.core ((clusterCores (nodeWafer src) (clusterOf src)).headD 0)
  else s.core (((bridgeSlot s src).toList.flatMap (slotCores s (nodeWafer src))).headD 0)

/-- R316: the recovery domain that an agent's requests carry. -/
def tagDomain (s : State) (src : Node) : Option Nat :=
  if isBridge src then (bridgeSlot s src).bind (slotDomain s (nodeWafer src)) else domainOf s src

/-- Put a message into flight; a request of a domain carries its tags (R316). -/
def post (s : State) (src : Node) (after : List Nat) (kind : MsgKind) : State :=
  let c := tagCore s src
  { named s with
    net := s.net ++ [{ id := s.nextId, kind := kind, dom := tagDomain s src, rin8 := c.rcv.rin.setWidth 8,
                       rb4 := c.rcv.rbCount.setWidth 4, src := src, after := after }] }

/-- A message in flight. -/
def message (s : State) (m : Nat) : Option Msg := s.net.find? (·.id == m)
/-- Take a message out of flight. -/
def unpost (s : State) (m : Nat) : State := { s with net := s.net.filter (·.id ≠ m) }
/-- R179, R185: the name of a channel or neighbour word in flight. -/
def Msg.wordName (m : Msg) : Option Nat :=
  match m.kind with
  | .word _ _ w | .egress _ _ _ w => some w.lot
  | .nbWord .. => some m.id
  | _ => none

/-- R179, R193: one of the named words may still reach a home of a kind. -/
def wordsOpen (s : State) (ids : List Nat) (home : Node → Bool) : Bool :=
  s.net.any fun m => m.wordName.any ids.contains && wordMayReach s m home

/-- R179, R279: of the accesses of a list of a core, a request is unanswered, an access through a local alias port has
not performed, or a word has not reached every home of a kind. -/
def accessOpen (s : State) (n : Node) (ids : List Nat) (home : Node → Bool) : Bool :=
  ((s.core n).comm.tracker.any fun t => ids.contains t.id)
    || ((s.core n).later.any fun l => ids.contains l.id)
    || wordsOpen s ids home

/-- R199, R279: the homes at which the accesses that a message waits for perform. -/
def Msg.homes (s : State) (m : Msg) : Node → Bool :=
  match m.kind with
  | .kick c _ d .. => kickReach s c d
  | _ => fun _ => true

/-- R279, R293: the accesses that a message waits for have performed. -/
def Msg.free (s : State) (m : Msg) : Bool := m.after.isEmpty || !accessOpen s m.src m.after (m.homes s)

/-- R179: the words of a context that may still be on their way. -/
def wordsOut (s : State) (n : Node) (x : Fin 8) : List Nat :=
  ((s.core n).comm.out.filter (·.2 == x)).map (·.1)

/-- R179, R196: what a fence waits for has still to perform. -/
def FenceHold.isOpen (s : State) (n : Node) (f : FenceHold) : Bool := accessOpen s n f.ids (inScope s n f.scope)

/-- R179: a context sends a channel or neighbour word of a name; words that have arrived are forgotten. -/
def noteWord (s : State) (n : Node) (x : Fin 8) (name : Nat) : State :=
  s.modCore n fun c => { c with comm := { c.comm with
    out := (c.comm.out ++ [(name, x)]).filter fun p => s.net.any fun m => m.wordName == some p.1 } }

/-! ### Seal requests (R322) -/

/-- R322: a seal request of a domain goes out to every core of it. -/
def requestSeal (s : State) (d : Nat) : State :=
  let s := s.modDomain d fun x => { x with req := true }
  (domCores s d).foldl (fun s n => post s n [] (.sealReq n)) s

/-- R322: a seal request raised at a node, if it belongs to a domain. -/
def requestSealAt (s : State) (n : Node) : State :=
  match domainOf s n with
  | some d => requestSeal s d
  | none => s

/-! ### The L1 of a core's own Shelf (R97) -/

/-- R97: the set of a line; of a line of a remote window, for which R97 names none, a free choice.
DESIGN CHOICE (log 102). -/
def lineSet (line : Nat) : Nat := (if line < 65536 then line else Config.freeChoice line) % 128

/-- R97: the line that makes room for a new one: the least recently used of a full set. -/
def Core.victim (c : Core) (line : Nat) : Option Nat :=
  let mates := c.mem.l1.filter fun l => lineSet l.line == lineSet line
  if (mates.any (·.line == line)) || mates.length < 12 then none else mates.head?.map (·.line)

/-- R193: an access that writes. -/
def Later.isStore (l : Later) : Bool :=
  match l.what with
  | .store .. | .amo .. | .fill .. | .bit .. => true
  | .load .. | .row .. | .lane .. | .test .. => false

/-- R193: an access that reads. -/
def Later.isLoad (l : Later) : Bool :=
  match l.what with
  | .load .. | .row .. | .lane .. | .test .. | .amo .. => true
  | .store .. | .fill .. | .bit .. => false

/-- R318: the record that a store has written at its issue stands until it performs: its granule keeps the logged bit.
DEDUCED (log 59). -/
def Core.holdsRecord (c : Core) (g : Nat) : Bool := c.later.any fun l => l.isStore && overlaps g 128 l.la l.len

/-- R97, R98: a sector of a line becomes present and most recently used, and dirty by a write. An evicted own line
loses the logged bits of its sectors (R318), an evicted SHR line its copies. DEDUCED (log 20). -/
def Core.touchLine (c : Core) (line : Nat) (bit : BitVec 4) (dirty : Bool) : Core :=
  let old := (c.mem.l1.find? (·.line == line)).getD { line := line, present := 0, dirty := 0 }
  let victim := c.victim line
  { c with mem := { c.mem with
      l1 := (c.mem.l1.filter fun l => l.line ≠ line && some l.line ≠ victim)
        ++ [{ old with present := old.present ||| bit, dirty := if dirty then old.dirty ||| bit else old.dirty }]
      logged := match victim with
        | some v => c.mem.logged.filter fun g => !inRange g (0x40000000 + 512 * v) 512 || c.holdsRecord g
        | none => c.mem.logged
      shr := c.mem.shr.filter fun x => some (x.ga / 512) ≠ victim } }

/-- R97: the place of an address among the sectors of its line. -/
def sectorBit (a : Nat) : BitVec 4 := BitVec.ofNat 4 (2 ^ (a / 128 % 4))

/-- R165: the sector of an address is present in the L1. -/
def Core.hasSector (c : Core) (a : Nat) : Bool :=
  match c.mem.l1.find? (·.line == (a - 0x40000000) / 512) with
  | some l => l.present.getLsbD (a / 128 % 4)
  | none => false

/-- R97, R351: an access reaches a Shelf sector; one that is not present crosses the vertical bus. DEDUCED (log 20). -/
def Core.touch (c : Core) (a : Nat) (dirty : Bool) : Core :=
  if laRange a ≠ some .shelf then c
  else
    let c' := c.touchLine ((a - 0x40000000) / 512) (sectorBit a) dirty
    { c' with mem := { c'.mem with
        beat := c.mem.beat <|> (if c.hasSector a then none else some (a / 128 * 128)) } }

/-- R97: every sector of a range is reached. -/
def Core.touchRange (c : Core) (a n : Nat) (dirty : Bool) : Core :=
  (granules a n).foldl (fun c g => c.touch g dirty) c

/-! ### First-store logging (R317–R320) -/

/-- R318: a granule whose writes are logged; a core in service mode logs none (R206). -/
def residentGranule (c : Core) (g : Nat) : Bool :=
  (laRange g == some .scratch || laRange g == some .shelf) && classAt c g == 0 && c.rcv.logSize ≠ 0 && !c.inService

/-- R320: RQ, the request point. -/
def logRequestPoint (c : Core) : Nat := (3 * logCap c + 3) / 4
/-- R320: ST, the stall point. -/
def logStallPoint (c : Core) : Nat := logCap c - logCap c / 8
/-- R321: `LOG_CTL.FULL` is DEGRADE. -/
def logDegrades (c : Core) : Bool := c.rcv.logCtl.getLsbD 0
/-- R321: `LOG_CTL.UNREC`. DEDUCED (log 59). -/
def logUnrec (c : Core) : Bool := c.rcv.logCtl.getLsbD 15

/-- R319: the full/empty bits of a scratchpad granule, zero for a Shelf granule. -/
def granuleFe (c : Core) (g : Nat) : Nat :=
  if laRange g = some .scratch then
    (List.range 32).foldl (fun a j => a + (if c.mem.full.contains (g + 4 * j) then 2 ^ j else 0)) 0
  else 0

/-- R319: the log record of a granule as it stands. -/
def logRecord (c : Core) (g : Nat) : List Byte :=
  leBytes 4 c.rcv.rin.toNat ++ leBytes 4 g ++ leBytes 4 (granuleFe c g) ++ leBytes 2 c.rcv.logFill
    ++ leBytes 1 (if laRange g = some .scratch then 0 else 1) ++ leBytes 1 0 ++ laBytes c g 128

/-- R318: a record is written for the granule. -/
def Core.writeRecord (c : Core) (g : Nat) : Core :=
  let c' := c.pokeRaw (c.rcv.logBase.toNat + 0x40000 + 144 * c.rcv.logFill) (logRecord c g)
  { c' with
    mem := { c'.mem with logged := insertNat c'.mem.logged g }
    rcv := { c'.rcv with logFill := c.rcv.logFill + 1 } }

/-- R318: a logged write to the granule needs a record. -/
def needsRecord (c : Core) (g : Nat) : Bool := residentGranule c g && !c.mem.logged.contains g

/-- R320: UNREC once FILL has reached CAP, or the stall point under DEGRADE. -/
def Core.stopLog (c : Core) : Core :=
  if logCap c ≤ c.rcv.logFill || (logDegrades c && logStallPoint c ≤ c.rcv.logFill) then
    { c with rcv := { c.rcv with logCtl := c.rcv.logCtl ||| 0x8000 } }
  else c

/-- R318, R320: the logging step of one granule, before the write performs. DEDUCED (log 59). -/
def logGranule (s : State) (n : Node) (g : Nat) : State :=
  let c := (s.core n).touch g true
  if !needsRecord c g then s.setCore n c
  else if logUnrec c.stopLog then s.setCore n c.stopLog
  else
    let s' := s.setCore n (c.writeRecord g).stopLog
    if c.rcv.logFill + 1 = logRequestPoint c then requestSealAt s' n else s'

/-- R318: the logging steps of every granule of a range, in rising order. -/
def logRange (s : State) (n : Node) (a len : Nat) : State :=
  (granules a len).foldl (fun s g => logGranule s n g) s

/-- R320: a write by one of the core's own contexts blocks in WAIT_LOG. -/
def logStalls (c : Core) (a len : Nat) : Bool :=
  !logDegrades c && logStallPoint c ≤ c.rcv.logFill && (granules a len).any (needsRecord c)

/-! ### Performing a write at its home -/

/-- R103: the earlier contents of a code line that a write changes. -/
def Core.keepLine (c : Core) (line : Nat) : Core :=
  let old := (AMap.find c.mem.lineHist line).getD []
  { c with mem := { c.mem with lineHist := AMap.put c.mem.lineHist line (old ++ [laBytes c line 64]) } }

/-- The 64-byte lines of a Shelf range. -/
def codeLines (a n : Nat) : List Nat :=
  if laRange a = some .shelf ∧ 0 < n then
    (List.range ((a + n - 1) / 64 - a / 64 + 1)).map fun i => (a / 64 + i) * 64
  else []

/-- R91: the last write of a granule in a cycle that began at `start`, and the one before that cycle. -/
def stampOf (old : Option (Nat × Option Nat)) (start now : Nat) : Nat × Option Nat :=
  (now, old.bind fun w => if start ≤ w.1 then w.2 else some w.1)

/-- R91: a write restarts the deadlines of the granules it reaches. -/
def Core.stamp (c : Core) (start now a n : Nat) : Core :=
  { c with mem := { c.mem with
      written := (granules a n).foldl
        (fun w g => if classAt c g = 2 then AMap.put w g (stampOf (AMap.find w g) start now) else w) c.mem.written } }

/-- Bytes written at a core's scratchpad, accumulator rows or Shelf, logged first (R318). DEDUCED (log 12). -/
def writeMem (s : State) (n : Node) (a : Nat) (bs : List Byte) : State :=
  let s := logRange s n a bs.length
  s.modCore n fun c =>
    ((codeLines a bs.length).foldl Core.keepLine c).stamp (cycleStart s n) s.now a bs.length |>.pokeRaw a bs

/-- R167: full/empty bits of scratchpad words. -/
def Core.setFull (c : Core) (ws : List Nat) (on : Bool) : Core :=
  { c with mem := { c.mem with
      full := if on then ws.foldl insertNat c.mem.full else c.mem.full.filter fun w => !ws.contains w } }

/-- R167: a change of full/empty bits, logged in their granule. -/
def writeFe (s : State) (n : Node) (ws : List Nat) (on : Bool) : State :=
  let s := ws.foldl (fun s w => logRange s n w 4) s
  s.modCore n fun c => c.setFull ws on

/-! ### Advancing (R101, R154) -/

/-- R154: the context goes on after an instruction at `pc`, in a cycle of its core, that did not transfer control. -/
def Ctx.goOn (k : Ctx) (pc succ : BitVec 32) (cycle : Nat) : Ctx :=
  if pc = k.lpEnd ∧ 2 ≤ k.lpCnt.toNat then
    { k with lpCnt := k.lpCnt - 1, pc := k.lpBeg, notBefore := cycle + 2 }
  else if pc = k.lpEnd ∧ k.lpCnt = 1 then { k with lpCnt := 0, pc := succ }
  else { k with pc := succ }

/-- R1: the cycle of the executing core. -/
def State.cycle (s : State) : Nat := cycleOf s s.cur.core

/-- The instruction has completed without a transfer of control. -/
def advance (s : State) : State := s.modCc fun k => k.goOn s.cur.pc s.cur.succ s.cycle

/-- R149: control is transferred; the next instruction issues no earlier than cycle t + 2 (R140). -/
def jump (s : State) (pc : BitVec 32) : State := s.modCc fun k => { k with pc := pc, notBefore := s.cycle + 2 }

/-! ### Taking a trap, and returning (R334–R341) -/

/-- R335: `TRAP_CAUSE` from its fields. -/
def trapCauseWord (code : BitVec 8) (reported orphan : Bool) (pend : Nat) : Word :=
  BitVec.ofNat 64 (code.toNat + (if reported then 2 ^ 8 else 0) + (if orphan then 2 ^ 9 else 0) + pend * 2 ^ 16)

/-- R335: `TRAP_CTX` from its fields, KILL clear. -/
def trapCtxWord (ctx : Nat) (rpc : BitVec 32) : Word := BitVec.ofNat 64 (rpc.toNat + ctx * 2 ^ 32)

/-- R336: the trap CSRs describe a trap. -/
def Core.describe (c : Core) (t : PTrap) (ctx pend : Nat) : Core :=
  { c with rcv := { c.rcv with
      trapCause := trapCauseWord t.code t.reported t.orphan pend
      trapPc := t.pc.setWidth 64
      trapVal := t.val
      trapCtx := trapCtxWord ctx t.rpc } }

/-- R336, R337: a context takes a trap. A context among 0–6 enters TRAPPED, nothing else of it changes, and the trap
joins the pending set. A trap of context 7 freezes the domain with `TRAP_CTX.CTX` = 7. -/
def takeTrap (s : State) (n : Node) (x : Fin 8) (t : PTrap) : State :=
  if x = 7 then
    let s := s.modCore n fun c => c.describe t 7 c.rcv.traps.length
    match domainOf s n with
    | some d => debugFreeze s d ((s.core n).rcv.trapCause.setWidth 32)
    | none => s
  else
    let s := s.modCtx n x fun k => { k with st := .trapped, blocked := none }
    s.modCore n fun c => { c with rcv := { c.rcv with traps := c.rcv.traps ++ [t] } }

/-- R334: a precise trap of the issuing context: the instruction changes nothing, and RPC is its own PC. -/
def precise (s : State) (t : TrapOf) : State :=
  takeTrap s s.cur.core s.cur.ctx
    { code := t.code, reported := false, orphan := false, pc := s.cur.pc, val := t.val, rpc := s.cur.pc,
      ctx := some s.cur.ctx, stamp := s.cycle }

/-- R334: an after trap of the issuing context: the instruction has completed, and RPC is its successor. -/
def afterTrap (s : State) (t : TrapOf) : State :=
  takeTrap (s.modCc fun k => { k with pc := s.cur.succ }) s.cur.core s.cur.ctx
    { code := t.code, reported := false, orphan := false, pc := s.cur.pc, val := t.val, rpc := s.cur.succ,
      ctx := some s.cur.ctx, stamp := s.cycle }

/-- R334: a trap on entry: PC and RPC are the PC being entered. -/
def entryTrap (s : State) (t : TrapOf) (pc : BitVec 32) : State :=
  takeTrap s s.cur.core s.cur.ctx
    { code := t.code, reported := false, orphan := false, pc := pc, val := t.val, rpc := pc,
      ctx := some s.cur.ctx, stamp := s.cycle }

/-- R162, R168: the watched words that blocked contexts still wait on. -/
def Core.refreshWatch (c : Core) : Core :=
  let ws := (c.ctxs.toList.filter (fun k => k.st == .waitFe)).filterMap fun k => k.blocked.map (·.arg)
  { c with sync := { c.sync with watch := c.sync.watch.filter ws.contains } }

/-- R252: the `mx.ldwc` of a context, with the number of words that it has taken. -/
def ldwcTaken (c : Core) (x : Fin 8) : Option Nat :=
  c.mx.queue.findSome? fun o => match o with
    | .ldwc _ _ _ _ y _ taken => if y = x then some taken.length else none
    | _ => none

/-- R252, R262: an abandoned `mx.ldwc` that has taken no word leaves the queue. -/
def Core.dropLdwc (c : Core) (x : Fin 8) : Core :=
  let keep (o : MxOp) : Bool := match o with
    | .ldwc _ _ _ _ y _ _ => y != x
    | _ => true
  { c with mx := { c.mx with
      queue := c.mx.queue.filter keep, done := c.mx.done + (c.mx.queue.filter (!keep ·)).length } }

/-- R162: a live context takes a reported cause at its next instruction boundary. A wait is abandoned, and the
blocked instruction runs again after `eret`. -/
def takeReport (s : State) (n : Node) (x : Fin 8) (code : BitVec 8) (pc : BitVec 32) (val : Word) : State :=
  let k := s.ctx n x
  let s := takeTrap s n x
    { code := code, reported := true, orphan := false, pc := pc, val := val, rpc := k.pc, ctx := some x,
      stamp := cycleOf s n }
  s.modCore n fun c => (c.dropLdwc x).refreshWatch

/-- R336, R338: an orphan report of a put-tracker entry joins the pending set and stops no context. -/
def orphanReport (s : State) (n : Node) (id : Nat) (code : BitVec 8) (pc : BitVec 32) (val : Word) : State :=
  s.modCore n fun c => { c with rcv := { c.rcv with traps := c.rcv.traps ++
    [{ code := code, reported := true, orphan := true, pc := pc, val := val, rpc := 0, ctx := none,
       stamp := cycleOf s n, pos := id }] } }

/-- R162, R252, R338: a report for a context that was firing number `fires` when it issued. A trapped context takes
it when it resumes, one whose `mx.ldwc` has taken a word when that ends, and a blocked one at the start of the next cycle, if
its wait has not completed by then (R350). DEDUCED (log 117). -/
def report (s : State) (n : Node) (x : Fin 8) (fires id : Nat) (code : BitVec 8) (pc : BitVec 32) (val : Word) :
    State :=
  let k := s.ctx n x
  if k.st = .free ∨ k.fires ≠ fires then orphanReport s n id code pc val
  else if k.st = .trapped ∨ k.st.blocked ∨ k.kick.isSome then
    s.modCtx n x fun k => { k with reports := k.reports ++ [(id, code, pc, val)] }
  else takeReport s n x code pc val

/-- The least of the pending reports, which is the oldest issue (R162). -/
def oldestReport : List (Nat × BitVec 8 × BitVec 32 × Word) → Option (Nat × BitVec 8 × BitVec 32 × Word)
  | [] => none
  | r :: t =>
    match oldestReport t with
    | none => some r
    | some q => if q.1 < r.1 then some q else some r

/-- R162: a context that resumed takes the oldest report that waits. -/
def takeWaiting (s : State) (n : Node) (x : Fin 8) : State :=
  let k := s.ctx n x
  match oldestReport k.reports with
  | some r =>
    takeReport (s.modCtx n x fun k => { k with reports := k.reports.filter (·.1 ≠ r.1) }) n x r.2.1 r.2.2.1 r.2.2.2
  | none => s

/-- R134, R156: a context becomes FREE; its claims end, reports that wait become orphans, and an arrival that it
holds is withdrawn (R332). -/
def endContext (s : State) (n : Node) (x : Fin 8) : State :=
  let k := s.ctx n x
  let s := s.setCtx n x { k with st := .free, blocked := none, bind0 := 0, bind1 := 0, reports := [], fences := [] }
  let s := s.modCore n fun c => { c with rcv := { c.rcv with
    arrival := if c.rcv.arrival = some x then none else c.rcv.arrival } }
  k.reports.foldl (fun s r => orphanReport s n r.1 r.2.1 r.2.2.1 r.2.2.2) s

/-- R341: the return from a trap, by context 7. With KILL the trapped context ends, otherwise it becomes READY at
RPC; context 7 becomes FREE and KILL clears. -/
def returnFromTrap (s : State) (n : Node) (kill : Bool) : State :=
  let r := (s.core n).rcv
  let c := bits r.trapCtx.toNat 32 3
  let s :=
    if c = 7 then s
    else if kill || r.trapCtx.getLsbD 40 then endContext s n (Fin.ofNat 8 c)
    else
      takeWaiting (s.modCtx n (Fin.ofNat 8 c) fun k =>
        { k with st := .ready, pc := r.trapCtx.setWidth 32, notBefore := cycleOf s n + 2 }) n (Fin.ofNat 8 c)
  let s := endContext s n 7
  s.modCore n fun c => { c with rcv := { c.rcv with trapCtx := c.rcv.trapCtx &&& ~~~(1#64 <<< 40) } }

/-! ### Starting a context (R130) -/

/-- R130: the registers of a context at a start in a cycle of its core. DEDUCED (log 24). DESIGN CHOICE (log 64). -/
def freshCtx (k : Ctx) (pc : BitVec 32) (regs : List (Nat × Word)) (b0 b1 : BitVec 6) (cycle : Nat) : Ctx :=
  { st := .ready, pc := pc, sts := freshSts k.sts, fires := k.fires + 1, bind0 := b0, bind1 := b1,
    notBefore := cycle + 2,
    s := regs.foldl (fun v p => vset v p.1 p.2) (Vector.replicate 16 0) }

/-- R130: `s2`, the relative coordinates of a core. -/
def relWord (s : State) (n : Node) : Word := BitVec.ofNat 64 ((relXY s n).1 + (relXY s n).2 * 2 ^ 16)

/-! ### Blocking and waking (R131–R133) -/

/-- The issuing context blocks: its instruction runs when the wait ends. -/
def block (s : State) (i : Instr) (st : CtxState) (arg : Nat) : State :=
  named (s.modCc fun k => { k with
    st := st
    blocked := some { instr := i, pc := s.cur.pc, succ := s.cur.succ, value := s.cur.value,
                      since := s.nextId, arg := arg, regs := k.regs } })

/-- What a wait consumes (R133): a word's full or empty bit, a channel's words, an incoming register. -/
inductive WaitKey where
  | full (la : Nat)
  | empty (la : Nat)
  | chan (ch : Nat)
  | nb (d : Nat)
  deriving DecidableEq, Repr

/-- R133: what a blocked instruction consumes when its wait ends. -/
def Blocked.key (b : Blocked) : Option WaitKey :=
  match b.instr with
  | .ldWfe .. => some (.full b.arg)
  | .stWef .. => some (.empty b.arg)
  | .chrecv _ _ ch => some (.chan ch)
  | .nbGet _ d => some (.nb d.code)
  | .vaddc _ _ _ _ .w _ | .vsubc _ _ _ _ .w _ => some (.nb 3)
  | .vscanAdd _ _ _ _ .w _ | .vscanMax _ _ _ _ .w _ | .vscanMul _ _ _ _ .w _ => some (.nb 3)
  | .vlrec _ _ _ _ _ .w _ => some (.nb 3)
  | _ => none

/-- The place in line of the executing instruction: when it blocked, or last if it is issuing. -/
def sinceOf (s : State) : Nat :=
  match s.cc.blocked with
  | some b => b.since
  | none => s.nextId

/-- R133: another context of the core blocked earlier on what the instruction would consume. DEDUCED (log 23). -/
def behind (s : State) (key : WaitKey) (st : CtxState) : Bool :=
  (List.range 8).any fun i =>
    let k := vget s.cn.ctxs {} i
    i ≠ s.cur.ctx.val && k.st == st
      && (match k.blocked with
          | some b => b.key == some key && b.since < sinceOf s
          | none => false)

/-- R133: a queued matrix operation that waits for a channel or an incoming register is served before a context
that blocked later, an `mx.ldwc` from its issue on (R252). -/
def behindUnit (s : State) (key : WaitKey) : Bool :=
  s.cn.mx.queue.any fun o => match o with
    | .ldwc _ ch _ _ _ since _ => key == .chan ch && since ≤ sinceOf s
    | .mac _ _ _ _ .w _ _ _ _ (some since) => key == .nb 3 && since ≤ sinceOf s
    | .run _ cfg _ _ _ _ _ _ _ _ _ (some since) =>
      (key == .chan (bits cfg.toNat 0 5) || (key == .nb 3 && bits cfg.toNat 25 2 == 2)) && since ≤ sinceOf s
    | _ => false

/-- What a blocking form does when it is tried: it completes, it waits, with or without a part of its effect done, or
it takes a trap. -/
inductive Try where
  | done (s : State)
  | wait (st : CtxState) (arg : Nat)
  | part (s : State) (st : CtxState) (arg : Nat)
  | trap (t : TrapOf)

/-- A blocking form at issue: it completes, blocks, or traps. -/
def orBlock (s : State) (i : Instr) (t : Try) : State :=
  match t with
  | .done s => advance s
  | .wait st arg => block s i st arg
  | .part s st arg => block s i st arg
  | .trap t => precise s t

/-! ### Starting an instruction (R135) -/

/-- The put-tracker entries of the issuing context. -/
def myTracks (s : State) : List Track := s.cn.comm.tracker.filter (·.ctx == s.cur.ctx)

/-- R162: an entry of a put. -/
def Track.isPut (t : Track) : Bool := match t.kind with | .put => true | _ => false
/-- R162: an entry that reads. -/
def Track.isReadT (t : Track) : Bool := !t.isPut
/-- R162: an entry that writes. -/
def Track.isWriteT (t : Track) : Bool := match t.kind with | .put | .atomic .. => true | _ => false

/-- R192: the GA of a form that goes through the remote port of its context. -/
def remoteGa (s : State) : Instr → Option Word
  | .get _ sa off _ | .getv _ sa off | .put _ sa off _ _ | .putv _ sa off _ => some (globalGa (s.sr sa) off)
  | .amoAdd _ _ sa off _ _ true | .amoMin _ _ sa off _ _ true | .amoMax _ _ sa off _ _ true
  | .amoAnd _ _ sa off _ _ true | .amoOr _ _ sa off _ _ true | .amoXchg _ _ sa off _ _ true
  | .amoCas _ _ _ sa off _ _ true => some (globalGa (s.sr sa) off)
  | .putH _ sa _ _ | .putK _ sa _ _ => some (s.sr sa)
  | _ => none

/-- R196: an access of the issuing context to its own core's GA. -/
def ownGa (s : State) (i : Instr) : Bool :=
  (remoteGa s i).any fun ga => homeOf s (nodeWafer s.cur.core) ga == s.cur.core

/-- R179, R196: a fence still holds back the instruction. DEDUCED (log 48). -/
def fenceHolds (s : State) (i : Instr) (f : FenceHold) : Bool :=
  f.isOpen s s.cur.core && (match f.kind with
    | .acq | .full | .put => isRead i || isWrite i
    | .rel => isWrite i
    | .lb => if f.ga then ownGa s i else localPort i)

/-- R193: the accesses of the issuing context through its local alias port that have not performed. -/
def myLater (s : State) : List Later := s.cn.later.filter (·.ctx == s.cur.ctx)

/-- R194: an access of the issuing context that has not performed touches a range of local aliases. -/
def laterOver (s : State) (r : Nat × Nat) : Bool := (myLater s).any fun l => overlaps r.1 r.2 l.la l.len

/-- R193, R199: a word that the issuing context has sent may still enter a channel of its own core. -/
def ownWordsOpen (s : State) : Bool := wordsOpen s (wordsOut s s.cur.core s.cur.ctx) (· == s.cur.core)

/-- R272, R276: an earlier write of the context homed on its own core has not performed. -/
def ownWritesOpen (s : State) : Bool :=
  (myLater s).any (·.isStore) || ownWordsOpen s
    || (myTracks s).any fun t => t.isWriteT && homeOf s (nodeWafer s.cur.core) t.ga == s.cur.core

/-- R199: an earlier access of the context homed on its own core has not performed. -/
def ownAccessesOpen (s : State) : Bool :=
  !(myLater s).isEmpty || ownWordsOpen s || (myTracks s).any fun t => homeOf s (nodeWafer s.cur.core) t.ga == s.cur.core

/-- R115: the offsets and lengths in its window of a register's bytes. -/
def RegName.window : RegName → List (Nat × Nat)
  | .s r => [(8 * r.val, 8)]
  | .p r => [(0x80 + 4 * r.val, 4)]
  | .v r => [(0x100 + 128 * r.val, 128), (0x500 + 16 * r.val, 16)]
  | .ctab => []

/-- R115: a register of the issuing context that awaits a result lies in a range of local aliases. -/
def windowPending (s : State) (r : Nat × Nat) : Bool :=
  s.cc.pending.any fun p => p.2.isOpen s.cycle
    && p.1.window.any fun q => overlaps r.1 r.2 (0x200000 + 0x2000 * s.cur.ctx.val + q.1) q.2

/-- R240: the address of a lane of `vgat` and `vsct`. -/
def laneEa (base : Word) (off : BitVec 16) (vb : VData) (i : Nat) : Word :=
  localEa base off + (vb.extractLsb' (32 * i) 32).setWidth 64

/-- R240: the lanes that a predicate selects, ascending. -/
def lanesOf (p : Pred) : List Nat := (List.range 32).filter fun i => p.getLsbD i

/-- R215: the predicate of an instruction; without one, every lane. -/
def predOf (s : State) : Option PReg → Pred
  | none => BitVec.allOnes 32
  | some p => s.pr p

/-- R164: the ranges that a load with a scalar address, or the lanes of a `vgat`, read: address and length. -/
def loadSpans (s : State) : Instr → List (Nat × Nat)
  | .ldS8 _ a off | .ldN8 _ a off => [((localEa (s.sr a) off).toNat, 1)]
  | .ldS16 _ a off | .ldN16 _ a off => [((localEa (s.sr a) off).toNat, 2)]
  | .ldS32 _ a off | .ldN32 _ a off => [((localEa (s.sr a) off).toNat, 4)]
  | .ldS64 _ a off => [((localEa (s.sr a) off).toNat, 8)]
  | .vgat _ b a off p _ => (lanesOf (predOf s p)).map fun i => ((laneEa (s.sr a) off (s.vr b).data i).toNat, 4)
  | _ => []

/-- R251: the length of a tile with its scale image. -/
def tileBytes (ty : VTy) (sc : Bool) : Nat := 4096 + if sc then (if ty == .e2m1 then 256 else 128) else 0

/-- R170: the bytes of an atomic. -/
def amoSize (wide : Bool) : Nat := if wide then 8 else 4

/-- R167, R171, R202: the ranges of an access that waits for the earlier ones of its context to the same bytes: a
full/empty form that may wait, a `cas` that may need a log record, what a matrix operation reads, and the CSRs that an
instruction changes. DEDUCED (log 12). -/
def laterSpans (s : State) : Instr → List (Nat × Nat)
  | .ldWf _ a off | .ldWfe _ a off | .stWef _ a off => [((localEa (s.sr a) off).toNat, 4)]
  | .amoCas _ _ _ a off _ wide false =>
    let la := (localEa (s.sr a) off).toNat
    if (granules la (amoSize wide)).any (needsRecord s.cn) then [(la, amoSize wide)] else []
  | .mxLdw _ a off ty sc => [((localEa (s.sr a) off).toNat, tileBytes ty sc)]
  | .mxClr .. | .mxMac .. | .mxMacp .. | .mxRun .. | .mxRd .. => [(0x100000, 0x10000)]
  | .l1Wb .. | .l1Inv .. => [(0, 2 ^ 32)]
  | .csrWr .. | .csrSet .. | .csrClr .. | .cntAdd .. | .cntSet .. | .flgSet .. | .flgClr .. | .trgArm .. | .trgOff ..
  | .ctabWr .. => [(0x300000, 0x10000)]
  | _ => []

/-- R247: while an `mx.ldwc` or an `mx.run` is queued, no other matrix instruction issues. -/
def MxOp.holdsIssue : MxOp → Bool
  | .ldwc .. | .run .. => true
  | _ => false

/-- R135: the instruction can start. DEDUCED (log 41). -/
def canStart (s : State) (i : Instr) : Bool :=
  let k := s.cc
  k.st == .ready && k.notBefore ≤ s.cycle && s.cn.issueFrom ≤ s.cycle && !isFrozen s s.cur.core && powered s s.cur.core
    && (s.cur.ctx == 7 || !isHeld s s.cur.core)
    && !((reads i).any (k.awaits s.cycle))
    && !(k.fences.any (fenceHolds s i))
    && (!tracked i || s.cn.comm.tracker.length < 16)
    && !((match i with | .cpStart .. => true | _ => false) && 8 ≤ s.cn.comm.copies.length)
    && (!isMatrix i || s.cn.mx.queue.length < 8)
    && (!(isMatrix i || i == .mxSync) || !s.cn.mx.queue.any MxOp.holdsIssue)
    && (!isDivision i || s.cn.divFree ≤ s.cycle)
    && (!usesPort i || s.cn.portFree ≤ s.cycle)
    && !(releases i && ownWritesOpen s)
    && !(releasesWord i && ownAccessesOpen s)
    && !((loadSpans s i).any (windowPending s))
    && !((laterSpans s i).any (laterOver s))
    && k.kick.isNone && !k.stuck

/-- R135: the context issues; the core issues nothing more in this cycle. -/
def issued (s : State) : State :=
  s.modCn fun c =>
    { c with
      issueFrom := s.cycle + 1
      lastIssued := if s.cur.ctx = 7 then c.lastIssued else s.cur.ctx.val
      yielded := (c.yielded.map fun y => (y.1, y.2.filter (· ≠ s.cur.ctx.val))).filter
        fun y => !y.2.isEmpty && y.1 ≠ s.cur.ctx.val }

/-- R135: an instruction of a context runs if it can start; otherwise the context is passed over. -/
def guarded (s : State) (i : Instr) (k : State → State) : State :=
  if canStart s i then k (issued s) else s

/-- A guarded instruction with a fault check: a fault is taken precisely, otherwise the effect. -/
def checked (s : State) (i : Instr) (fault : State → Option TrapOf) (k : State → State) : State :=
  guarded s i fun s =>
    match fault s with
    | some t => precise s t
    | none => k s

/-- R84: the address of an accumulator row. -/
def accLa (row : Nat) : Nat := 0x100000 + 128 * (row % 512)

/-- R202: the accumulator rows that a queued operation of a context has still to read. -/
def MxOp.toRead (x : Fin 8) : MxOp → List (Nat × Nat)
  | .mac _ _ row _ .acc _ _ c _ _ => if c = x then [(accLa row, 128)] else []
  | .rd row _ c _ _ => if c = x then [(accLa row, 128)] else []
  | .run _ w _ _ n q _ _ c _ _ _ =>
    if c = x ∧ bits w.toNat 25 2 = 0 then
      (List.range (n - q)).map fun j => (accLa (bits w.toNat 16 9 + q + j), 128)
    else []
  | _ => []

/-- R177: a copy operand is a GA. -/
def isGa (x : Word) : Bool := x.getLsbD 63
/-- R177: the LA of a copy operand. -/
def copyLa (x : Word) : Nat := bits x.toNat 0 32
/-- R177: the home of one side of a copy. -/
def copyHome (s : State) (c : Node) (x : Word) : Node := if isGa x then homeOf s (nodeWafer c) x else c
/-- R177: the length of the piece of a copy at an offset; pieces are 128-byte-aligned at the destination. -/
def Copy.pieceLen (c : Copy) (off : Nat) : Nat := min (128 - (copyLa c.dst + off) % 128) (c.len - off)

/-- R176, R202: a store of the issuing context would overlap a source that a copy or a queued matrix operation of
that context has not read yet. DEDUCED (log 41). -/
def sourceBusy (s : State) (a n : Nat) : Bool :=
  (s.cn.comm.copies.any fun c =>
    c.ctx == s.cur.ctx && copyHome s s.cur.core c.src == s.cur.core && c.todo.any fun o =>
      overlaps a n (copyLa c.src + o) (c.pieceLen o))
  || (s.net.any fun m => match m.kind, m.unread with
      | .piece o _ bs .., some (la, gs) =>
        o.node == s.cur.core && o.ctx == s.cur.ctx.val
          && gs.any fun g => overlaps a n (max g la) (min (g + 128) (la + bs.length) - max g la)
      | _, _ => false)
  || (s.cn.mx.queue.any fun o => (o.toRead s.cur.ctx).any fun r => overlaps a n r.1 r.2)

/-- R251: a byte that the matrix unit reads; those of an expired granule are undefined. DEDUCED (log 45). -/
def unitByte (s : State) (n : Node) (a : Nat) : Byte :=
  if expired s n (a / 128 * 128) then Config.freeByte s.draws a else laByte (s.core n) a

/-- R244: an image row in memory. DEDUCED (log 45). -/
def unitRow (s : State) (n : Node) (a : Nat) : VData := vdataOf ((List.range 128).map fun i => unitByte s n (a + i))

/-- R202: a queued `mx.ldw` of a context reads the rows among `gs` now, where it has not read them. DEDUCED (log 41). -/
def MxOp.readRows (x : Fin 8) (row : Nat → VData) (gs : List Nat) : MxOp → MxOp
  | .ldw wn ea ty sc c read =>
    let todo := gs.filter fun g => ea ≤ g && g < ea + tileBytes ty sc && (AMap.find read g).isNone
    .ldw wn ea ty sc c (if c = x then todo.foldl (fun r g => AMap.put r g (row g)) read else read)
  | o => o

/-- R202: before a store of the issuing context performs, each queued `mx.ldw` of that context reads the rows that the
store overlaps. DEDUCED (log 41). -/
def readSources (s : State) (a n : Nat) : State :=
  if s.cn.mx.queue.isEmpty then s
  else
    s.modCn fun c =>
      { c with mx := { c.mx with
        queue := c.mx.queue.map (MxOp.readRows s.cur.ctx (unitRow s s.cur.core) (granules a n)) } }

/-- A store of the issuing context performs at its own core. DEDUCED (log 12). -/
def storeOwn (s : State) (a : Nat) (bs : List Byte) : State :=
  writeMem (readSources s a bs.length) s.cur.core a bs

/-- R193: an access of the issuing context may perform after its issue: not one to its own register window or to its own
`STS` or loop registers, which its later instructions change. DEDUCED (log 12). -/
def mayDefer (s : State) (a : Nat) : Bool :=
  match laRange a with
  | some .scratch | some .acc | some .shelf => true
  | some .regs => (a - 0x200000) / 0x2000 ≠ s.cur.ctx.val
  | some .csr => !inRange ((a - 0x300000) / 8) 0x008 4
  | none => false

/-- R193, R194: an access of the issuing context to a range performs later: timing says so, or an earlier access of the
context to one of its bytes has not performed. -/
def defers (s : State) (a n : Nat) : Bool := mayDefer s a && (s.cur.late || laterOver s (a, n))

/-- R193: an access that performs later joins those of its core under the next name. -/
def defer (s : State) (a n : Nat) (what : LaterKind) : State :=
  named (s.modCn fun c => { c with later := c.later ++
    [{ id := s.nextId, ctx := s.cur.ctx, fires := s.cc.fires, la := a, len := n, what := what }] })

/-- Bytes over others, in the lanes of a mask. -/
def maskBytes (p : Pred) (old new : List Byte) : List Byte :=
  (old.zip new).zipIdx.map fun q => if p.getLsbD (q.2 / 4) then q.1.2 else q.1.1

/-- R193, R320: a write that performs later joins those of its core; what the first write of a granule logs is logged as it
issues. DEDUCED (log 59). -/
def deferStore (s : State) (a n : Nat) (what : LaterKind) : State := defer (logRange s s.cur.core a n) a n what

/-- R164, R239: the issuing context stores bytes in the lanes of a mask, now or later. -/
def storeMasked (s : State) (a : Nat) (bs : List Byte) (p : Pred) : State :=
  if defers s a bs.length then deferStore s a bs.length (.store bs p)
  else storeOwn s a (maskBytes p (laBytes s.cn a bs.length) bs)

/-- R165, R240: a register of the issuing context awaits a load that performs later. -/
def deferLoad (s : State) (r : RegName) (a n : Nat) (what : LaterKind) : State :=
  defer (s.modCc fun k => k.await r (.request s.nextId)) a n what

/-- R194: no earlier access of the same context to one of its bytes is still to perform. -/
def Later.next (l : Later) (c : Core) : Bool :=
  !c.later.any fun e => e.ctx == l.ctx && e.id < l.id && overlaps l.la l.len e.la e.len

/-! ### Latencies (R140, R165, R171, R217) -/

/-- R165, R239, R240: the first bytes of what a load or a local atomic reads. -/
def loadsAt (s : State) : Instr → List Nat
  | .vld _ a off _ _ => [(localEa (s.sr a) off).toNat]
  | .amoAdd _ _ a off _ _ false | .amoMin _ _ a off _ _ false | .amoMax _ _ a off _ _ false
  | .amoAnd _ _ a off _ _ false | .amoOr _ _ a off _ _ false | .amoXchg _ _ a off _ _ false
  | .amoCas _ _ _ a off _ _ false => [(localEa (s.sr a) off).toNat]
  | i => (loadSpans s i).map (·.1)

/-- R140, R165, R171, R217, R239, R240: the registers that an instruction writes and that later instructions of its context
can read no earlier than so many cycles after it; `las` are the first bytes of what it reads, and a division takes `div`
cycles. What the tables do not name can be read in the next cycle. DESIGN CHOICE (log 10). -/
def latency (las : List Nat) (div : Nat) : Instr → List (RegName × Nat)
  | .mul d _ _ | .mulh d _ _ | .mulhn d _ _ => [(.s d, 3)]
  | .div d _ _ | .divn d _ _ | .rem d _ _ | .remn d _ _ => [(.s d, div)]
  | .ldS8 d _ _ | .ldS16 d _ _ | .ldS32 d _ _ | .ldS64 d _ _ | .ldN8 d _ _ | .ldN16 d _ _ | .ldN32 d _ _
  | .ldWf d _ _ | .ldWfe d _ _ => [(.s d, if shelf then 4 else 2)]
  | .amoAdd d _ _ _ _ _ false | .amoMin d _ _ _ _ _ false | .amoMax d _ _ _ _ _ false | .amoAnd d _ _ _ _ _ false
  | .amoOr d _ _ _ _ _ false | .amoXchg d _ _ _ _ _ false | .amoCas d _ _ _ _ _ _ false => [(.s d, if shelf then 6 else 4)]
  | .vand d .. | .vor d .. | .vxor d .. | .vshl d .. | .vshr d .. | .vsra d .. | .vsel d .. | .vmov d .. | .vbcast d ..
  | .vbcastImm d .. | .vins d .. | .vperm d .. | .vrot d .. | .vshf d .. | .vtagSet d .. => [(.v d, 2)]
  | .pand d .. | .por d .. | .pxor d .. | .pnot d _ => [(.p d, 2)]
  | .pcnt d _ | .pfirst d _ | .vext d .. | .vtagRd d .. => [(.s d, 2)]
  | .ctabWr _ => [(.ctab, 2)]
  | .vadd d .. | .vsub d .. | .vmul d .. | .vmin d .. | .vmax d .. | .vaddImm d .. | .vsubImm d .. | .vmulImm d ..
  | .vminImm d .. | .vmaxImm d .. | .vabs d .. | .vneg d .. | .vmulh d .. | .vcvt d .. | .vdq d .. | .vlut d .. => [(.v d, 4)]
  | .vcmp d .. => [(.p d, 4)]
  | .vfma d .. | .vfms d .. | .vfnma d .. => [(.v d, 5)]
  | .vaddc d _ _ q _ o | .vsubc d _ _ q _ o => (.v d, 6) :: (if o = .p then [(.p q, 6)] else [])
  | .vrcp d .. | .vrsqrt d .. | .vsqrt d .. | .vexp2 d .. | .vlog2 d .. | .vtanh d .. | .vsgm d .. => [(.v d, 10)]
  | .vredAdd d .. | .vredMax d .. | .vredMin d .. | .vscanAdd d .. | .vscanMax d .. | .vscanMul d .. | .vqnt d .. =>
    [(.v d, 12)]
  | .vlrec d .. => [(.v d, 16)]
  | .vld d .. => [(.v d, if shelf then 5 else 3)]
  | .vgat d .. => if las.all fun a => laRange a == some .scratch then [(.v d, 10)] else []
  | _ => []
where
  /-- What is read lies in the Shelf. -/
  shelf : Bool := las.any fun a => laRange a == some .shelf

/-- R140: from a cycle of the core on, the registers of a list can be read only after so many cycles; one that awaits a
sector, and `s0`, are as they are. DESIGN CHOICE (log 10). -/
def Ctx.lag (k : Ctx) (cycle : Nat) (l : List (RegName × Nat)) : Ctx :=
  let open_ := k.pending.filter fun p => p.2.isOpen cycle
  let late := l.filter fun r => r.1 ≠ .s 0 && !open_.any fun p => p.1 == r.1 && (match p.2 with | .sector _ => true | _ => false)
  { k with pending := open_ ++ late.map fun r => (r.1, .cycle (cycle + r.2)) }

end Sys2Proof.Machine
end

