-- ==== Sys2Proof/Machine/Fetch.lean ====
section
/-! DEFINITION. Fetching an instruction (R99–R104, R108): entry checks, the instruction cache, the value of a head. -/

namespace Sys2Proof.Machine

/-- R103: the bytes of a code line as a fetch returns them. Where the line was written after the last boundary, the
moment is a free choice. DEDUCED (log 19). -/
def fetchLine (s : State) (n : Node) (line : Nat) : List Byte :=
  let now := laBytes (s.core n) line 64
  match AMap.find (s.core n).mem.lineHist line with
  | none => now
  | some old => (old ++ [now]).getD (chosen s (old.length + 1)) now

/-- R100, R101: the fault of a PC that a context enters or fetches at. -/
def fetchFault (s : State) (n : Node) (pc : BitVec 32) : Option TrapOf :=
  let a := pc.toNat
  if laRange a ≠ some .shelf then some (ePerm (pc.setWidth 64))
  else if shelfTop (s.core n) ≤ a then some ⟨0x0B, pc.setWidth 64⟩
  else if namesHead (fetchLine s n (a / 64 * 64)) a then none
  else some ⟨0x02, BitVec.ofNat 64 (a / 64 * 64)⟩

/-- R99, R104: the instruction value at a PC. -/
def fetchValue (s : State) (n : Node) (pc : BitVec 32) : Nat :=
  lineValue (fetchLine s n (pc.toNat / 64 * 64)) ((pc.toNat % 64 - 2) / 2)

/-- R101: succ(PC). -/
def succOf (s : State) (n : Node) (pc : BitVec 32) : BitVec 32 :=
  BitVec.ofNat 32 (succIn (fetchLine s n (pc.toNat / 64 * 64)) pc.toNat)

end Sys2Proof.Machine
end

