-- ==== Sys2Proof/Machine/Control.lean ====
section
/-! DEFINITION. Control instructions (R149–R157) and the illegal head (R108). -/

namespace Sys2Proof.Machine

/-- R149, R150: a conditional branch. -/
def branchIf (s : State) (i : Instr) (t : Target) (cond : State → Bool) : State :=
  guarded s i fun s => if cond s then jump s (targetPc s.cur.pc t) else advance s

/-- R157: takes one issue slot. -/
def execNop (s : State) : Out := .next (guarded s .nop advance)

/-- R156, R341: `end`: the context becomes FREE; by context 7 it is `eret` with KILL = 1. -/
def execEndHandler (s : State) : Out :=
  .next (guarded s .endHandler fun s =>
    if s.cur.ctx = 7 then returnFromTrap s s.cur.core true else endContext s s.cur.core s.cur.ctx)

/-- R157, R135: `yield` changes only the issue order: the context waits for the others that could issue in this cycle. -/
def execYield (s : State) : Out :=
  .next (guarded s .yield fun s =>
    advance (s.modCn fun c => { c with
      yielded := if s.cur.others.isEmpty then c.yielded else c.yielded ++ [(s.cur.ctx.val, s.cur.others)] }))

/-- R152: `ret` goes to the head at `s15`[31:0]. -/
def execRet (s : State) : Out := .next (guarded s .ret fun s => jump s ((s.sr 15).setWidth 32))

/-- R152: `br`. -/
def execBr (t : Target) (s : State) : Out := .next (branchIf s (.br t) t fun _ => true)

/-- R152: `call` writes `s15` := succ(PC) and goes to the target. -/
def execCall (t : Target) (s : State) : Out :=
  .next (guarded s (.call t) fun s => jump (s.setS 15 (s.cur.succ.setWidth 64)) (targetPc s.cur.pc t))

/-- R150: `b.eq`. -/
def execBEq (sa sb : SReg) (t : Target) (s : State) : Out :=
  .next (branchIf s (.bEq sa sb t) t fun s => s.sr sa == s.sr sb)
/-- R150: `b.ne`. -/
def execBNe (sa sb : SReg) (t : Target) (s : State) : Out :=
  .next (branchIf s (.bNe sa sb t) t fun s => s.sr sa != s.sr sb)
/-- R150: `b.lt`, signed. -/
def execBLt (sa sb : SReg) (t : Target) (s : State) : Out :=
  .next (branchIf s (.bLt sa sb t) t fun s => (s.sr sa).slt (s.sr sb))
/-- R150: `b.ge`, signed. -/
def execBGe (sa sb : SReg) (t : Target) (s : State) : Out :=
  .next (branchIf s (.bGe sa sb t) t fun s => !(s.sr sa).slt (s.sr sb))
/-- R150: `b.ltn`, unsigned. -/
def execBLtn (sa sb : SReg) (t : Target) (s : State) : Out :=
  .next (branchIf s (.bLtn sa sb t) t fun s => (s.sr sa).ult (s.sr sb))
/-- R150: `b.gen`, unsigned. -/
def execBGen (sa sb : SReg) (t : Target) (s : State) : Out :=
  .next (branchIf s (.bGen sa sb t) t fun s => !(s.sr sa).ult (s.sr sb))

/-- R151: `bp.any`. -/
def execBpAny (pm : PReg) (t : Target) (s : State) : Out :=
  .next (branchIf s (.bpAny pm t) t fun s => s.pr pm != 0)
/-- R151: `bp.all`. -/
def execBpAll (pm : PReg) (t : Target) (s : State) : Out :=
  .next (branchIf s (.bpAll pm t) t fun s => s.pr pm == BitVec.allOnes 32)
/-- R151: `bp.none`. -/
def execBpNone (pm : PReg) (t : Target) (s : State) : Out :=
  .next (branchIf s (.bpNone pm t) t fun s => s.pr pm == 0)

/-- R153: the loop registers of a hardware loop. -/
def setLoop (s : State) (n : BitVec 32) (last : BitVec 32) : State :=
  s.modCc fun k => { k with lpBeg := s.cur.succ, lpEnd := last, lpCnt := n }

/-- R153: `loop`. With a count of zero the body is skipped; the header of the line that holds `last` is read then. -/
def loopEffect (s : State) (sa : SReg) (t : Target) : State :=
  let n := (s.sr sa).setWidth 32
  let last := targetPc s.cur.pc t
  let s' := setLoop s n last
  if n ≠ 0 then s'.modCc fun k => { k with pc := s.cur.succ }
  else if namesHead (fetchLine s s.cur.core (last.toNat / 64 * 64)) last.toNat then
    jump s' (succOf s s.cur.core last)
  else entryTrap s' ⟨0x02, BitVec.ofNat 64 (last.toNat / 64 * 64)⟩ last

/-- R153: `loop`. -/
def execLoop (sa : SReg) (t : Target) (s : State) : Out :=
  .next (guarded s (.loop sa t) fun s => loopEffect s sa t)

/-- R108: a head that stands for no instruction, or has a nonzero reserved bit: `E_ILLEGAL` with the value. -/
def execIllegalHead (v : Word) (s : State) : Out :=
  .next (guarded s .nop fun s => precise s ⟨0x01, v⟩)

end Sys2Proof.Machine
end

