-- ==== Sys2Proof/Machine/Special.lean ====
section
/-! DEFINITION. The special functions of the vector unit (R220, R221): exact values, their bounds, and the choice
inside a bound that the spec leaves to the device. -/

namespace Sys2Proof.Machine

/-- R220: the special functions, in the order of their minors (R213). -/
inductive VFn where
  | rcp | rsqrt | sqrt | exp2 | log2 | tanh | sgm
  deriving DecidableEq, Repr

/-- R213: the minor of a function. -/
def VFn.code : VFn → Nat
  | .rcp => 0 | .rsqrt => 1 | .sqrt => 2 | .exp2 => 3 | .log2 => 4 | .tanh => 5 | .sgm => 6

/-! ### Quotients, roots, powers and logarithms held to more bits than any rounding reads -/

/-- The quotient `(a / b) · 2^e`, with 80 significant bits and a last bit that says whether it is inexact. -/
def ratio (neg : Bool) (a b : Nat) (e : Int) : Ext :=
  if a = 0 then .fin neg 0 e
  else
    let k := (Nat.log2 b + 80) - Nat.log2 a
    let q := a * 2 ^ k / b
    let r := a * 2 ^ k % b
    .fin neg (2 * q + (if r = 0 then 0 else 1)) (e - k - 1)

/-- The exact quotient of two values (a zero divisor does not occur). -/
def Ext.div : Ext → Ext → Ext
  | .nan, _ => .nan
  | .inf _, .nan => .nan
  | .inf _, .inf _ => .nan
  | .inf a, .fin n _ _ => .inf (a != n)
  | .fin _ _ _, .nan => .nan
  | .fin n _ _, .inf b => .fin (n != b) 0 0
  | .fin n1 m1 e1, .fin n2 m2 e2 => ratio (n1 != n2) m1 m2 (e1 - e2)

/-- The integer square root, one bit at a time from bit `k − 1` down. -/
def rootBits : Nat → Nat → Nat → Nat
  | 0, r, _ => r
  | k + 1, r, n => if (r + 2 ^ k) * (r + 2 ^ k) ≤ n then rootBits k (r + 2 ^ k) n else rootBits k r n

/-- The square root of `m · 2^e`, with a last bit that says whether it is inexact. -/
def rootExt (m : Nat) (e : Int) : Ext :=
  let k : Nat := 160 + (if e % 2 = 0 then 0 else 1)
  let n := m * 2 ^ k
  let r := rootBits (Nat.log2 n / 2 + 1) 0 n
  .fin false (2 * r + (if r * r = n then 0 else 1)) ((e - k) / 2 - 1)

/-- The fraction bits of the fixed-point numbers below. -/
def fixBits : Nat := 64

/-- `2^f` for a fraction `f`: `c` runs through `2^(1/2)`, `2^(1/4)`, …, one for each bit of `f`. -/
def expFrac : Nat → Nat → Nat → Nat → Nat
  | 0, _, acc, _ => acc
  | k + 1, c, acc, f =>
    let c := rootBits (fixBits + 1) 0 (c * 2 ^ fixBits)
    expFrac k c (if bitOf f k then acc * c / 2 ^ fixBits else acc) f

/-- `2^z` for a fixed-point `z`. -/
def expFix (z : Int) : Ext :=
  let n := z / (2 ^ fixBits : Int)
  let f := (z % (2 ^ fixBits : Int)).toNat
  .fin false (2 * expFrac fixBits (2 * 2 ^ fixBits) (2 ^ fixBits) f + (if f = 0 then 0 else 1)) (n - fixBits - 1)

/-- A finite value as a fixed-point number, clamped to `±2^10`; what lies below the last place counts toward −∞, but a
positive value stays above 0, so that a power keeps the side of 1 on which it lies. -/
def toFix (neg : Bool) (m : Nat) (e : Int) : Int :=
  let v : Int :=
    if m = 0 then 0
    else if (Nat.log2 m : Int) + e ≥ 10 then (2 : Int) ^ (fixBits + 10)
    else max 1 (quantize (if neg then .rup else .rtz) false m e (-(fixBits : Int)) : Int)
  if neg then -v else v

/-- The fraction bits of a logarithm, by squaring: `y` lies in `[1, 2)` with `fixBits` fraction bits. -/
def logFrac : Nat → Nat → Nat → Nat
  | 0, _, acc => acc
  | k + 1, y, acc =>
    let y := y * y / 2 ^ fixBits
    if y ≥ 2 * 2 ^ fixBits then logFrac k (y / 2) (2 * acc + 1) else logFrac k y (2 * acc)

/-- `log2 (m · 2^e)` for `m > 0`. -/
def logExt (m : Nat) (e : Int) : Ext :=
  let l := Nat.log2 m
  let n : Int := l + e
  if m = 2 ^ l then Ext.ofInt n
  else
    let f := logFrac fixBits (m * 2 ^ fixBits / 2 ^ l) 0
    let v : Int := 2 * (n * 2 ^ fixBits + f) + 1
    .fin (v < 0) v.natAbs (-(fixBits : Int) - 1)

/-- `e^x` for a finite `x`, clamped to `±256`: the constant is `log2 e` with 80 fraction bits. -/
def expNat (neg : Bool) (m : Nat) (e : Int) : Ext :=
  let c : Int := if (Nat.log2 m : Int) + e ≥ 8 then (if neg then -256 else 256) * 2 ^ fixBits else toFix neg m e
  expFix (c * 1744111284760651037637903 / 2 ^ 80)

/-- `1`. -/
def oneExt : Ext := .fin false 1 0

/-- R220: `1 / (1 + e^−x)`. -/
def sgmExt (neg : Bool) (m : Nat) (e : Int) : Ext := oneExt.div (oneExt.add .rne (expNat (!neg) m e))

/-- R220: `tanh x`: below `2^−12`, by `x (3 − x²) / 3`. -/
def tanhExt (neg : Bool) (m : Nat) (e : Int) : Ext :=
  let x : Ext := .fin neg m e
  if (Nat.log2 m : Int) + e < -12 then
    (x.mul ((Ext.fin false 3 0).add .rne (x.mul x).neg)).div (.fin false 3 0)
  else
    let u := expNat true m (e + 1)
    let t := (oneExt.add .rne u.neg).div (oneExt.add .rne u)
    if neg then t.neg else t

/-! ### The bound of a result -/

/-- The place of the last bit of an FP32 result of a magnitude (R220). -/
def ulpExp (m : Nat) (e : Int) : Int := max (-149) ((Nat.log2 m : Int) + e - 23)

/-- An FP32 encoding as a value with no limit on the exponent: the encodings of infinity stand for `±2^128`. -/
def freeExt (b : Nat) : Ext :=
  match f32 (BitVec.ofNat 32 b) with
  | .inf n => .fin n 1 128
  | x => x

/-- The magnitude of a difference is at most a bound. DESIGN CHOICE (log 14). -/
def within (x y bound : Ext) : Bool :=
  match x.add .rne y.neg with
  | .fin _ m e => (Ext.fin false m e).cmp bound != .gt
  | _ => false

/-- R220: the bound on the distance of a result from its exact value. DESIGN CHOICE (log 14). -/
def VFn.bound (fn : VFn) (exact : Ext) : Ext :=
  match exact with
  | .fin _ m e =>
    let ulps (n : Nat) : Ext := .fin false n (ulpExp m e)
    match fn with
    | .tanh | .sgm => ulps 2
    | .log2 => if (Ext.fin false m e).cmp (.fin false 1 (-2)) == .lt then .fin false 1 (-24) else ulps 1
    | .rcp | .rsqrt | .sqrt | .exp2 => ulps 1
  | _ => .fin false 0 0

/-- R40: a value whose rounding has been chosen, as a result: beyond the range it overflows. DESIGN CHOICE (log 14). -/
def chosenResult (sat : Bool) (x : Ext) : Rounded :=
  let r := roundFloat .fp32 .rne sat x
  if r.ovf then { r with enc := overflowBits .fp32 .rne sat x.isNeg } else r

/-- R220: an inexact result: the device's own, where it lies within the bound, and otherwise the nearest.
DESIGN CHOICE (log 14). -/
def freeResult (fn : VFn) (sat : Bool) (operand : Nat) (exact : Ext) : Rounded :=
  let b := Config.special fn.code operand % 2 ^ 32
  if freeExt b ≠ .nan ∧ within (freeExt b) exact (fn.bound exact) then chosenResult sat (freeExt b)
  else chosenResult sat exact

/-- R220: a result that the table calls exact, when FP32 holds it or it overflows. -/
def exactOr (fn : VFn) (sat : Bool) (operand : Nat) (isExact : Bool) (x : Ext) : Rounded :=
  let r := chosenResult sat x
  if isExact && (r.ovf || (f32 (BitVec.ofNat 32 r.enc)).cmp x == .eq) then r else freeResult fn sat operand x

/-! ### The functions on one FP32 element -/

/-- An encoding without flags. -/
def plain (n : Nat) : Rounded := { enc := n, ovf := false, inv := false }
/-- R32: FP32 infinities. -/
def infEnc (neg : Bool) : Rounded := plain (if neg then 0xFF800000 else 0x7F800000)
/-- R32: FP32 zeros. -/
def zeroEnc (neg : Bool) : Rounded := plain (if neg then 0x80000000 else 0)
/-- R32: the canonical NaN of FP32. -/
def nanEnc : Rounded := plain 0x7FC00000

/-- A power of two. -/
def isPow2 (m : Nat) : Bool := m == 2 ^ Nat.log2 m

/-- R220, R221: a special function of one FP32 element. -/
def specialF32 (fn : VFn) (rnd : RMode) (sat : Bool) (b : Nat) : Rounded :=
  match f32 (BitVec.ofNat 32 b), fn with
  | .nan, _ => nanEnc
  | .inf n, .rcp => zeroEnc n
  | .inf n, .rsqrt => if n then nanEnc else zeroEnc false
  | .inf n, .sqrt => if n then nanEnc else infEnc false
  | .inf n, .exp2 => if n then zeroEnc false else infEnc false
  | .inf n, .log2 => if n then nanEnc else infEnc false
  | .inf n, .tanh => plain (if n then 0xBF800000 else 0x3F800000)
  | .inf n, .sgm => if n then zeroEnc false else plain 0x3F800000
  | .fin n m e, .rcp => if m = 0 then infEnc n else exactOr fn sat b (isPow2 m) (ratio n 1 m (-e))
  | .fin n m e, .rsqrt =>
    if m = 0 then infEnc n
    else if n then nanEnc
    else exactOr fn sat b (isPow2 m && (Nat.log2 m + e) % 2 == 0) (oneExt.div (rootExt m e))
  | .fin n m e, .sqrt =>
    if m = 0 then zeroEnc n else if n then nanEnc else roundFloat .fp32 rnd sat (rootExt m e)
  | .fin n m e, .exp2 =>
    if m = 0 then plain 0x3F800000
    else exactOr fn sat b (toFix n m e % 2 ^ fixBits == 0 && quantize .rup false m e 0 == quantize .rtz false m e 0)
      (expFix (toFix n m e))
  | .fin n m e, .log2 =>
    if m = 0 then infEnc true else if n then nanEnc else exactOr fn sat b (isPow2 m) (logExt m e)
  | .fin n m e, .tanh => if m = 0 then zeroEnc n else freeResult fn sat b (tanhExt n m e)
  | .fin n m e, .sgm => if m = 0 then plain 0x3F000000 else freeResult fn sat b (sgmExt n m e)

/-- R220: a special function of one element: BF16 widens, is computed as FP32 and is rounded with RNE. -/
def specialElem (fn : VFn) (ty : VTy) (rnd : RMode) (sat : Bool) (b : Nat) : Rounded :=
  match ty with
  | .bf16 =>
    let r := specialF32 fn rnd sat (b * 65536)
    let exactInf := r.enc % 2 ^ 31 = 0x7F800000 ∧ !r.ovf
    let q := roundFloat .bf16 .rne (sat && !exactInf) (f32 (BitVec.ofNat 32 r.enc))
    { q with ovf := r.ovf || q.ovf }
  | _ => specialF32 fn rnd sat b

end Sys2Proof.Machine
end

