-- ==== Sys2Proof/Machine/Memory.lean ====
section
/-! DEFINITION. Local loads, stores, prefetch, full/empty forms, local atomics, cache maintenance (R159–R171, R181). -/

namespace Sys2Proof.Machine

/-! ### Loads and stores (R164–R166) -/

/-- The fault of a local form of the issuing context. -/
def localTrap (s : State) (use : LocalUse) (sa : SReg) (off : BitVec 16) (size : Nat) : Option TrapOf :=
  localFault s s.cur.core s.cur.ctx use (localEa (s.sr sa) off) size

/-- R165: a register takes the bytes of a Shelf sector that is not in the L1 when the sector arrives.
DEDUCED (log 21). -/
def awaitSector (s : State) (r : RegName) (a n : Nat) : State :=
  (granules a n).foldl (fun s g =>
    if laRange g = some .shelf ∧ !s.cn.hasSector g then
      (if r = .s 0 then s else s.modCc fun k => k.await r (.sector g)).modCn fun c =>
        { c with mem := { c.mem with fills := insertNat c.mem.fills g } }
    else s.modCn fun c => c.touch g false) s

/-- The value of `n` loaded bytes, sign- or zero-extended to 64 bits. -/
def extendBytes (bs : List Byte) (signed : Bool) : Word :=
  let w := 8 * bs.length
  if signed && bitOf (leNat bs) (w - 1) then BitVec.ofNat 64 (2 ^ 64 - 2 ^ w + leNat bs)
  else BitVec.ofNat 64 (leNat bs)

/-- R164, R165, R193: the effect of a load. One into `s0` reads, too (R351). DEDUCED (log 12). DEDUCED (log 21). -/
def loadEffect (s : State) (sd : SReg) (a size : Nat) (signed : Bool) : State :=
  if sd ≠ 0 ∧ defers s a size then
    advance (deferLoad (s.modCc fun k => k.forget (.s sd)) (.s sd) a size (.load sd signed))
  else
    let v := extendBytes (loadBytes s s.cur.core s.cur.ctx a size) signed
    advance (awaitSector (s.setS sd v) (.s sd) a size)

/-- R164: a local load. -/
def localLoad (s : State) (i : Instr) (sd sa : SReg) (off : BitVec 16) (size : Nat) (signed : Bool) : State :=
  checked s i (fun s => localTrap s .load sa off size) fun s =>
    loadEffect s sd (localEa (s.sr sa) off).toNat size signed

/-- R320: a write of the issuing context in the lanes of a mask, which waits while the log is stalled. -/
def tryWrite (s : State) (a : Nat) (bs : List Byte) (p : Pred) : Try :=
  if logStalls s.cn a bs.length then .wait .waitLog 0 else .done (storeMasked s a bs p)

/-- R164: the store of the low bytes of a register. -/
def tryStore (g : Regs) (s : State) (sb sa : SReg) (off : BitVec 16) (size : Nat) : Try :=
  tryWrite s (localEa (g.sreg sa) off).toNat (leBytes size (g.sreg sb).toNat) (BitVec.allOnes 32)

/-- R164: a local store. -/
def localStore (s : State) (i : Instr) (sb sa : SReg) (off : BitVec 16) (size : Nat) : State :=
  if sourceBusy s (localEa (s.sr sa) off).toNat size then s
  else checked s i (fun s => localTrap s .store sa off size) fun s =>
    orBlock s i (tryStore s.cc.regs s sb sa off size)

/-- R164: `ld.s8`. -/
def execLdS8 (sd sa : SReg) (off : BitVec 16) (s : State) : Out := .next (localLoad s (.ldS8 sd sa off) sd sa off 1 true)
/-- R164: `ld.s16`. -/
def execLdS16 (sd sa : SReg) (off : BitVec 16) (s : State) : Out := .next (localLoad s (.ldS16 sd sa off) sd sa off 2 true)
/-- R164: `ld.s32`. -/
def execLdS32 (sd sa : SReg) (off : BitVec 16) (s : State) : Out := .next (localLoad s (.ldS32 sd sa off) sd sa off 4 true)
/-- R164: `ld.s64`. -/
def execLdS64 (sd sa : SReg) (off : BitVec 16) (s : State) : Out := .next (localLoad s (.ldS64 sd sa off) sd sa off 8 true)
/-- R164: `ld.n8`. -/
def execLdN8 (sd sa : SReg) (off : BitVec 16) (s : State) : Out := .next (localLoad s (.ldN8 sd sa off) sd sa off 1 false)
/-- R164: `ld.n16`. -/
def execLdN16 (sd sa : SReg) (off : BitVec 16) (s : State) : Out := .next (localLoad s (.ldN16 sd sa off) sd sa off 2 false)
/-- R164: `ld.n32`. -/
def execLdN32 (sd sa : SReg) (off : BitVec 16) (s : State) : Out := .next (localLoad s (.ldN32 sd sa off) sd sa off 4 false)
/-- R164: `st.n8`. -/
def execStN8 (sb sa : SReg) (off : BitVec 16) (s : State) : Out := .next (localStore s (.stN8 sb sa off) sb sa off 1)
/-- R164: `st.n16`. -/
def execStN16 (sb sa : SReg) (off : BitVec 16) (s : State) : Out := .next (localStore s (.stN16 sb sa off) sb sa off 2)
/-- R164: `st.n32`. -/
def execStN32 (sb sa : SReg) (off : BitVec 16) (s : State) : Out := .next (localStore s (.stN32 sb sa off) sb sa off 4)
/-- R164: `st.n64`. -/
def execStN64 (sb sa : SReg) (off : BitVec 16) (s : State) : Out := .next (localStore s (.stN64 sb sa off) sb sa off 8)

/-- R166: `pf` fills the own-Shelf line that holds ea, and never traps. -/
def execPf (sa : SReg) (off : BitVec 16) (s : State) : Out :=
  .next (guarded s (.pf sa off) fun s =>
    let ea := (localEa (s.sr sa) off).toNat
    let line := ea / 512 * 512
    advance (if laRange ea ≠ some .shelf ∨ shelfTop s.cn ≤ ea ∨ anyArmed s.cn line 512
        ∨ anyExpired s s.cur.core line 512 then s
      else s.modCn fun c => c.touchRange line 512 false))

/-! ### Full/empty words (R167–R169) -/

/-- R168: a waiting form takes a watched-word entry, or E_WATCH. -/
def waitWord (s : State) (a : Nat) : Try :=
  if s.cn.sync.watch.contains a || s.cn.sync.watch.length < 16 then .wait .waitFe a
  else .trap ⟨0x0C, BitVec.ofNat 64 a⟩

/-- R168: the entry of a word that a context waits on. -/
def takeWatch (s : State) (a : Nat) : State :=
  s.modCn fun c => { c with sync := { c.sync with
    watch := if c.sync.watch.contains a then c.sync.watch else c.sync.watch ++ [a] } }

/-- A full/empty form at issue. -/
def orBlockFe (s : State) (i : Instr) (t : Try) : State :=
  match t with
  | .wait .waitFe a => takeWatch (orBlock s i t) a
  | t => orBlock s i t

/-- R167: the 32-bit word at an address, zero-extended. -/
def feWord (s : State) (a : Nat) : Word := BitVec.ofNat 64 (leNat (laBytes s.cn a 4))

/-- R167: the word's bit is full. -/
def isFull (s : State) (a : Nat) : Bool := s.cn.mem.full.contains a

/-- R133: another context is blocked in `ld.wf` on the word. DEDUCED (log 23). -/
def readersWait (s : State) (a : Nat) : Bool :=
  (List.range 8).any fun i =>
    let k := vget s.cn.ctxs {} i
    i ≠ s.cur.ctx.val && k.st == .waitFe
      && (match k.blocked with
          | some { instr := .ldWf .., arg := b, .. } => b == a
          | _ => false)

/-- R167, R133: `ld.wf` waits for the bit; the bit stays full. Blocked ones all complete together; one that issues lets
a blocked `ld.wfe` go first. DEDUCED (log 23). -/
def tryLdWf (g : Regs) (s : State) (sd sa : SReg) (off : BitVec 16) : Try :=
  let a := (localEa (g.sreg sa) off).toNat
  if isFull s a && (s.cc.blocked.isSome || !behind s (.full a) .waitFe) then .done (s.setS sd (feWord s a)) else waitWord s a

/-- R167: `ld.wfe` waits for the bit and empties it. DEDUCED (log 23). -/
def tryLdWfe (g : Regs) (s : State) (sd sa : SReg) (off : BitVec 16) : Try :=
  let a := (localEa (g.sreg sa) off).toNat
  if !isFull s a || behind s (.full a) .waitFe || readersWait s a then waitWord s a
  else if logStalls s.cn a 4 then .wait .waitLog a
  else .done (writeFe (s.setS sd (feWord s a)) s.cur.core [a] false)

/-- R167: the word and its bit written together. -/
def fillWord (s : State) (a : Nat) (w : Word) : State :=
  (storeOwn s a (leBytes 4 w.toNat)).modCn fun c => c.setFull [a] true

/-- R167: `st.wef` waits for an empty bit, writes the word and fills it. -/
def tryStWef (g : Regs) (s : State) (sb sa : SReg) (off : BitVec 16) : Try :=
  let a := (localEa (g.sreg sa) off).toNat
  if isFull s a || behind s (.empty a) .waitFe then waitWord s a
  else if logStalls s.cn a 4 then .wait .waitLog a
  else .done (fillWord s a (g.sreg sb))

/-- R167, R193: `st.sf`, whose effect is now or later. -/
def tryStSf (g : Regs) (s : State) (sb sa : SReg) (off : BitVec 16) : Try :=
  let a := (localEa (g.sreg sa) off).toNat
  if logStalls s.cn a 4 then .wait .waitLog a
  else .done (if defers s a 4 then deferStore s a 4 (.fill (g.sreg sb)) else fillWord s a (g.sreg sb))

/-- R167, R193: `fe.set` and `fe.clr`, whose effect is now or later. -/
def tryFeBit (g : Regs) (s : State) (sa : SReg) (off : BitVec 16) (on : Bool) : Try :=
  let a := (localEa (g.sreg sa) off).toNat
  if logStalls s.cn a 4 then .wait .waitLog a
  else .done (if defers s a 4 then deferStore s a 4 (.bit on) else writeFe s s.cur.core [a] on)

/-- R167: `ld.wf`. -/
def execLdWf (sd sa : SReg) (off : BitVec 16) (s : State) : Out :=
  .next (checked s (.ldWf sd sa off) (fun s => localTrap s .fe sa off 4) fun s =>
    orBlockFe s (.ldWf sd sa off) (tryLdWf s.cc.regs s sd sa off))
/-- R167: `ld.wfe`. -/
def execLdWfe (sd sa : SReg) (off : BitVec 16) (s : State) : Out :=
  .next (checked s (.ldWfe sd sa off) (fun s => localTrap s .fe sa off 4) fun s =>
    orBlockFe s (.ldWfe sd sa off) (tryLdWfe s.cc.regs s sd sa off))
/-- R167: `st.wef`. -/
def execStWef (sb sa : SReg) (off : BitVec 16) (s : State) : Out :=
  .next (if sourceBusy s (localEa (s.sr sa) off).toNat 4 then s
    else checked s (.stWef sb sa off) (fun s => localTrap s .fe sa off 4) fun s =>
      orBlockFe s (.stWef sb sa off) (tryStWef s.cc.regs s sb sa off))
/-- R167: `st.sf`. -/
def execStSf (sb sa : SReg) (off : BitVec 16) (s : State) : Out :=
  .next (if sourceBusy s (localEa (s.sr sa) off).toNat 4 then s
    else checked s (.stSf sb sa off) (fun s => localTrap s .fe sa off 4) fun s =>
      orBlock s (.stSf sb sa off) (tryStSf s.cc.regs s sb sa off))
/-- R167: `fe.set`. -/
def execFeSet (sa : SReg) (off : BitVec 16) (s : State) : Out :=
  .next (checked s (.feSet sa off) (fun s => localTrap s .fe sa off 4) fun s =>
    orBlock s (.feSet sa off) (tryFeBit s.cc.regs s sa off true))
/-- R167: `fe.clr`. -/
def execFeClr (sa : SReg) (off : BitVec 16) (s : State) : Out :=
  .next (checked s (.feClr sa off) (fun s => localTrap s .fe sa off 4) fun s =>
    orBlock s (.feClr sa off) (tryFeBit s.cc.regs s sa off false))
/-- R167: 1 where a word's bit is full, else 0. -/
def fullWord (s : State) (a : Nat) : Word := if isFull s a then 1 else 0

/-- R167, R193: `fe.tst`, now or later. -/
def execFeTst (sd sa : SReg) (off : BitVec 16) (s : State) : Out :=
  .next (checked s (.feTst sd sa off) (fun s => localTrap s .fe sa off 4) fun s =>
    let a := (localEa (s.sr sa) off).toNat
    advance (if sd ≠ 0 ∧ defers s a 4 then deferLoad (s.modCc fun k => k.forget (.s sd)) (.s sd) a 4 (.test sd)
      else s.setS sd (fullWord s a)))

/-! ### Atomics at their home (R171) -/

/-- R170: the operation of an atomic. -/
inductive AmoOp where
  | add | min | max | and | or | xchg | cas
  deriving DecidableEq, Repr

/-- R110: the codes in the order of the table. -/
def AmoOp.code : AmoOp → Nat
  | .add => 0 | .min => 1 | .max => 2 | .and => 3 | .or => 4 | .xchg => 5 | .cas => 6

/-- R171: the new value of `n` bytes. -/
def amoNew (op n : Nat) (uns : Bool) (old sb sc : Nat) : Nat :=
  let w := 8 * n
  let b := sb % 2 ^ w
  let lt := if uns then old < b else intValue w true old < intValue w true b
  match op with
  | 0 => (old + b) % 2 ^ w
  | 1 => if lt then old else b
  | 2 => if lt then b else old
  | 3 => Nat.land old b
  | 4 => Nat.lor old b
  | 5 => b
  | _ => if old = sc % 2 ^ w then b else old

/-- R171: the write of an atomic happens unless it is a `cas` that changes nothing. -/
def amoWrites (op old new : Nat) : Bool := op ≠ 6 || new ≠ old

/-- R171: an atomic at its home: the state after, and the old bytes. -/
def amoAt (s : State) (n : Node) (a op size : Nat) (uns : Bool) (sb sc : Word) : State × List Byte :=
  let bs := laBytes (s.core n) a size
  let old := leNat bs
  let new := amoNew op size uns old sb.toNat sc.toNat
  (if amoWrites op old new then writeMem s n a (leBytes size new)
   else s.modCore n fun c => c.touchRange a size false, bs)

/-- R171: the effect of a local atomic of the issuing context at its home, and the old bytes. -/
def amoOwn (s : State) (a op size : Nat) (uns : Bool) (sb sc : Word) : State × List Byte :=
  amoAt (readSources s a size) s.cur.core a op size uns sb sc

/-- R193, R320: a local atomic performs later, its record written as it issues; a `cas` that may need one does not.
DEDUCED (log 12). DEDUCED (log 59). -/
def amoDefers (s : State) (op : AmoOp) (a size : Nat) : Bool :=
  defers s a size && !(op == .cas && (granules a size).any (needsRecord s.cn))

/-- R193: a local atomic joins the accesses that perform later; its register awaits it. -/
def deferAmo (s : State) (op : AmoOp) (sd : SReg) (a size : Nat) (uns : Bool) (sb sc : Word) : State :=
  let s := if op == .cas then s else logRange s s.cur.core a size
  let what : LaterKind := .amo sd op.code uns sb sc
  if sd = 0 then defer s a size what
  else deferLoad (s.modCc fun k => k.forget (.s sd)) (.s sd) a size what

/-- R171, R193, R320: a local atomic. -/
def tryAmo (g : Regs) (s : State) (op : AmoOp) (sd sb sc sa : SReg) (off : BitVec 16) (uns wide : Bool) : Try :=
  let a := (localEa (g.sreg sa) off).toNat
  let size := amoSize wide
  let old := leNat (laBytes s.cn a size)
  let new := amoNew op.code size uns old (g.sreg sb).toNat (g.sreg sc).toNat
  if amoWrites op.code old new && logStalls s.cn a size then .wait .waitLog a
  else if amoDefers s op a size then .done (deferAmo s op sd a size uns (g.sreg sb) (g.sreg sc))
  else
    let r := amoOwn s a op.code size uns (g.sreg sb) (g.sreg sc)
    .done (r.1.setS sd (extendBytes r.2 (!uns)))

/-! ### Accesses that perform after their issue (R193, R194) -/

/-- R193: the executing context still awaits a put-off access. -/
def Later.awaited (l : Later) (s : State) : Bool :=
  s.cc.fires == l.fires && s.cc.pending.any fun p => p.2 == .request l.id

/-- R193: a scalar result of a put-off access reaches its register, unless the register awaits it no more, or its handler
has ended. -/
def Later.fill (l : Later) (s : State) (r : SReg) (v : Word) : State :=
  if l.awaited s then s.modCc fun k => (k.fillS l.id r v).arrived l.id else s

/-- R193, R240: lanes of a put-off vector load reach its register, each with the place of its bytes. -/
def Later.fillLanes (l : Later) (s : State) (r : VReg) (is : List (Nat × Nat)) (bs : List Byte) : State :=
  if l.awaited s then
    s.modCc fun k => (is.foldl (fun k q =>
      k.fillLane l.id r q.1 (BitVec.ofNat 32 (leNat ((bs.drop q.2).take 4)))) k).arrived l.id
  else s

/-- R165: the bytes of an absent sector arrive with it; a register that awaits the load no more awaits no sector. -/
def Later.sectors (l : Later) (s t : State) (r : RegName) : State :=
  awaitSector t (if l.awaited s then r else .s 0) l.la l.len

/-- R193: an access performs at its core. DEDUCED (log 12). -/
def Later.perform (l : Later) (s : State) : State :=
  let bs := loadBytes s s.cur.core s.cur.ctx l.la l.len
  match l.what with
  | .store new p => storeOwn s l.la (maskBytes p bs new)
  | .fill w => fillWord s l.la w
  | .bit on => writeFe s s.cur.core [l.la] on
  | .amo r op uns sb sc =>
    let q := amoOwn s l.la op l.len uns sb sc
    l.fill q.1 r (extendBytes q.2 (!uns))
  | .test r => l.fill s r (fullWord s l.la)
  | .load r signed => l.sectors s (l.fill s r (extendBytes bs signed)) (.s r)
  | .row r p => l.sectors s (l.fillLanes s r ((lanesOf p).map fun i => (i, 4 * i)) bs) (.v r)
  | .lane r i => l.sectors s (l.fillLanes s r [(i, 0)] bs) (.v r)

/-- R193: an access of a core that has issued performs. -/
def performNow (s : State) (n : Node) (l : Later) : State :=
  let s := { s with cur := { s.cur with core := n, ctx := l.ctx } }
  (l.perform s).modCn fun c => { c with later := c.later.filter (·.id ≠ l.id) }

/-- R193, R194: an access of a core that has issued performs, after the earlier ones of its context to its bytes.
DEDUCED (log 12). -/
def performLater (s : State) (n : Node) (id : Nat) : State :=
  match (s.core n).later.find? (·.id == id) with
  | some l => if isFrozen s n || !l.next (s.core n) then s else performNow s n l
  | none => s

/-! ### Cache maintenance (R181) -/

/-- R181: the fault of a maintenance form: `la` says whether an LA, `ga` whether a GA is accepted. Parts of a range
outside the Shelf are skipped. -/
def cacheFault (s : State) (sa sb : Word) (la ga : Bool) : Option TrapOf :=
  let isGa : Bool := sa.getLsbD 63
  if (isGa && !ga) || (!isGa && !la) then some (ePerm sa)
  else if isGa && gaBad s sa then some (ePerm sa)
  else if sb.toNat ≥ 2 ^ 32 then some (ePerm sb)
  else none

/-- R181: the 512-byte line at an address overlaps the range; a length of 0 names the whole cache. DEDUCED (log 19). -/
def lineIn (line size base len : Nat) : Bool := len = 0 || overlaps line size base len

/-- R97: the line is one of the core's own Shelf. -/
def L1Line.own (l : L1Line) : Bool := l.line < 65536

/-- R181: dirty sectors of the own-Shelf lines in the range go back to the Shelf. -/
def Core.writeBack (c : Core) (base len : Nat) : Core :=
  let clean (l : L1Line) : L1Line :=
    if l.own && lineIn (0x40000000 + 512 * l.line) 512 base len then { l with dirty := 0 } else l
  { c with mem := { c.mem with l1 := c.mem.l1.map clean } }

/-- R181: the own-Shelf lines in the range leave the L1; their sectors lose their logged bits (R318), but for those that a
put-off store holds. -/
def Core.dropLines (c : Core) (base len : Nat) : Core :=
  let gone := (c.mem.l1.filter fun l => l.own && lineIn (0x40000000 + 512 * l.line) 512 base len).map (·.line)
  { c with mem := { c.mem with
      l1 := c.mem.l1.filter fun l => !gone.contains l.line
      logged := c.mem.logged.filter fun g =>
        !(gone.any fun l => inRange g (0x40000000 + 512 * l) 512) || c.holdsRecord g } }

/-- R181: the copies of SHR lines that stay. A GA where no path leads names none. -/
def keepCopies (s : State) (l : List ShrCopy) (sa sb : Word) : List ShrCopy :=
  match physGa s (nodeWafer s.cur.core) sa with
  | some p => l.filter fun x => !lineIn (x.ga / 512 * 512) 512 p.toNat sb.toNat
  | none => if sb = 0 then [] else l

/-- R98, R181: the L1 keeps these copies of SHR lines, and the lines that hold one. -/
def Core.setCopies (c : Core) (l : List ShrCopy) : Core :=
  { c with mem := { c.mem with
      shr := l, l1 := c.mem.l1.filter fun x => x.own || l.any fun y => y.ga / 512 == x.line } }

/-- R181: `l1.wb`. -/
def execL1Wb (sa sb : SReg) (s : State) : Out :=
  .next (checked s (.l1Wb sa sb) (fun s => cacheFault s (s.sr sa) (s.sr sb) true false) fun s =>
    advance (s.modCn fun c => c.writeBack (s.sr sa).toNat (s.sr sb).toNat))
/-- R181: `l1.inv`. -/
def execL1Inv (sa sb : SReg) (s : State) : Out :=
  .next (checked s (.l1Inv sa sb) (fun s => cacheFault s (s.sr sa) (s.sr sb) true true) fun s =>
    advance (s.modCn fun c =>
      if (s.sr sa).getLsbD 63 then
        c.setCopies (keepCopies s c.mem.shr (s.sr sa) (s.sr sb))
      else c.dropLines (s.sr sa).toNat (s.sr sb).toNat))
/-- R181: `l2.inv`. -/
def execL2Inv (sa sb : SReg) (s : State) : Out :=
  .next (checked s (.l2Inv sa sb) (fun s => cacheFault s (s.sr sa) (s.sr sb) false true) fun s =>
    advance (s.modHub (hubOf s.cur.core) fun h =>
      { h with l2 := keepCopies s h.l2 (s.sr sa) (s.sr sb) }))

end Sys2Proof.Machine
end

