-- ==== Sys2Proof/Machine/Remote.lean ====
section
/-! DEFINITION. Remote accesses, copies, fences, and their arrival at their homes (R159, R161, R162, R170–R180,
R198, R291). -/

namespace Sys2Proof.Machine

/-! ### Order of messages (R184, R198) -/

/-- R284: the root bridge of a wide barrier: the lowest on the lowest wafer that owns a member region. -/
def wideRootBridge (s : State) (d b : Nat) : Option Node :=
  (vget (s.domain d).wide {} b).members.foldl (fun l r =>
    let n := owningBridge s r.1 r.2
    let key (n : Node) : Nat := location s n
    match l with
    | some m => if key n < key m then some n else some m
    | none => some n) none

/-- The node whose port a message reaches, and the bridge of an ingress or egress word. -/
def msgTarget (s : State) : MsgKind → Node
  | .read _ ga _ | .write _ ga _ _ | .atomic _ ga .. | .piece _ ga .. | .dkPiece _ _ ga .. => gaNode ga
  | .response c _ _ | .credit c _ | .nbWord c _ _ | .relCore c _ | .mailbox c _ _ | .sealReq c => c
  | .word n _ _ => n
  | .ingress w i e _ _ => ((((s.module w).slot i).eps[e]?).map (·.core)).getD 0
  | .egress w i _ _ | .epCredit w i _ => owningBridge s w i
  | .token h .. | .report h .. | .relHub h .. => h
  | .wide d b .. => (wideRootBridge s d b).getD 0
  | .kick _ _ d .. => d
  | .chunk d _ => d
  | .arm _ c .. => c
  | .signal d _ => d

/-- What keeps the order of two messages other than channel words (`wordAhead`): those with one key arrive in the order in
which they left. DEDUCED (log 52). -/
def orderKey (m : Msg) : Option (List Nat) :=
  match m.kind with
  | .read o ga _ | .write o ga _ _ | .atomic o ga .. | .piece o ga .. => some [0, o.node, o.ctx, gaNode ga]
  | .dkPiece d _ ga .. => some [1, d, gaNode ga]
  | .arm d c .. => some [1, d, c]
  | .ingress w i e _ _ => some [3, w, i, e]
  | .egress w i e _ => some [4, w, i, e]
  | .chunk d w => some [5, d, w.src, w.stream]
  | .token .. => some [6, m.src]
  | .report h c b .. => some [7, h, c, b]
  | .relHub h b .. => some [8, h, b]
  | .relCore c b => some [9, c, b]
  | .wide d b w i .. => some [10, d, b, w, i]
  | .nbWord c d _ => some [11, c, d]
  | .mailbox c mb _ => some [12, c, mb]
  | .word .. | .response .. | .credit .. | .epCredit .. | .kick .. | .signal .. | .sealReq .. => none

/-- The operation that a piece belongs to: pieces of one operation carry no order among themselves (R198). -/
def pieceOf : MsgKind → Option Nat
  | .piece o .. => some (2 * o.id)
  | .dkPiece _ op .. => some (2 * op + 1)
  | _ => none

/-- R198: no earlier message that must arrive first is still in flight. DEDUCED (log 12). DEDUCED (log 52). -/
def inOrder (s : State) (m : Msg) : Bool :=
  !(s.net.any fun e => wordAhead s e m
    || (e.id < m.id && (orderKey m).isSome && orderKey e == orderKey m
      && !((pieceOf m.kind).isSome && pieceOf e.kind == pieceOf m.kind)))

/-- R86: a request at the request port of a core. -/
def isRequest : MsgKind → Bool
  | .read .. | .write .. | .atomic .. | .piece .. | .dkPiece .. => true
  | _ => false

/-- R126: the virtual channel on which a request from a node reaches another, which the spec leaves open.
DESIGN CHOICE (log 101). -/
def requestVc (src target : Node) : Nat := Config.freeChoice (src * 2 ^ 20 + target) % 4

/-- R126: a `put.h` that waits at the target's request port holds back the other requests on its virtual channel: those
from a node, but for pieces of its own. -/
def portHeld (s : State) (src target : Node) (own : Option Nat) : Bool :=
  s.net.any fun e =>
    e.held && msgTarget s e.kind == target && requestVc e.src target == requestVc src target && pieceOf e.kind ≠ own

/-- R126: a request in flight that a waiting `put.h` holds back. -/
def heldBack (s : State) (m : Msg) : Bool :=
  isRequest m.kind && !m.held && portHeld s m.src (msgTarget s m.kind) (pieceOf m.kind)

/-- R285: barrier traffic moves through a freeze; everything else stops in its link buffers (R345). -/
def movesFrozen : MsgKind → Bool
  | .token .. | .report .. | .relHub .. | .relCore .. | .wide .. => true
  | _ => false

/-- R345: a message stops in its link buffer: its target is frozen, or it carries a word of an endpoint of a frozen
region. -/
def linkFrozen (s : State) (x : MsgKind) : Bool :=
  let stopped (d : Nat) : Bool := (s.domain d).frozen || (s.domain d).rolling
  match x with
  | .egress w i _ _ | .ingress w i _ _ _ | .epCredit w i _ => (slotDomain s w i).any stopped
  | _ => isFrozen s (msgTarget s x) || (isBridge (msgTarget s x) && dealerFrozen s (msgTarget s x))

/-- A message that may arrive now. Its bytes have been read (R176), no message that must come first is in flight, no
waiting `put.h` holds it back, and, between wafers, a path exists (R365). DEDUCED (log 12). -/
def arriving (s : State) (m : Nat) : Option Msg :=
  match message s m with
  | some x =>
    if x.unread.isNone && x.free s && inOrder s x && !heldBack s x
        && reachable s (nodeWafer x.src) (nodeWafer (msgTarget s x.kind))
        && (movesFrozen x.kind || !linkFrozen s x.kind) then
      some x
    else none
  | none => none

/-- R327: a write of the target's own domain whose tags are not the target's is dropped. -/
def staleTags (s : State) (m : Msg) (target : Node) : Bool :=
  let r := (tagCore s target).rcv
  m.dom.isSome && m.dom == domainOf s target
    && (m.rin8 != r.rin.setWidth 8 || m.rb4 != r.rbCount.setWidth 4)

/-! ### Issuing (R162, R172–R175) -/

/-- R162: a put-tracker entry for the issuing instruction; its name is the state's next name. -/
def track (s : State) (ga : Word) (kind : TrackKind) : State :=
  s.modCn fun c => { c with comm := { c.comm with
    tracker := c.comm.tracker ++
      [{ id := s.nextId, ctx := s.cur.ctx, fires := s.cc.fires, pc := s.cur.pc, ga := ga, kind := kind }] } }

/-- The origin of a request that is being issued. -/
def origin (s : State) : Origin := { node := s.cur.core, ctx := s.cur.ctx.val, id := s.nextId }

/-- R162, R198: a request enters the tracker and leaves for its target. One for which no path exists is refused at
the wafer's edge (R365). -/
def request (s : State) (ga : Word) (kind : TrackKind) (msg : Origin → Word → MsgKind) : State :=
  match physGa s (nodeWafer s.cur.core) ga with
  | some p => post (track s ga kind) s.cur.core [] (msg (origin s) p)
  | none => post (track s ga kind) s.cur.core [] (.response s.cur.core s.nextId (.refused 0x05))

/-- A register awaits the answer of the request being issued; `s0` awaits nothing. -/
def awaitRequest (s : State) (r : RegName) : State :=
  if r = .s 0 then s else s.modCc fun k =>
    { k with pending := k.pending.filter (fun p => p.1 ≠ r) ++ [(r, .request s.nextId)] }

/-- R98: the copies of a sector that a read may be served from, whatever the home's window has become since the fill.
DEDUCED (log 49). DESIGN CHOICE (log 108). -/
def shrCopies (s : State) (ga : Word) : List VData :=
  match physGa s (nodeWafer s.cur.core) ga with
  | some p => ((s.cn.mem.shr ++ (s.hub (hubOf s.cur.core)).l2).filter fun x =>
      x.ga == p.toNat / 128 * 128).map (·.data)
  | none => []

/-- R98: a copy of a sector joins the L1 in the place of an older one. DEDUCED (log 20). -/
def Core.keepCopy (c : Core) (x : ShrCopy) : Core :=
  let c := c.touchLine (x.ga / 512) (sectorBit x.ga) false
  { c with mem := { c.mem with shr := c.mem.shr.filter (·.ga ≠ x.ga) ++ [x] } }

/-- R98: the 512-byte lines of a slice. -/
def l2Lines (l : List ShrCopy) : List Nat := l.foldl (fun a x => insertNat a (x.ga / 512)) []

/-- R98: a copy of a sector joins the slice in the place of an older one; a slice of 8,192 lines drops the line of a
free choice. DEDUCED (log 49). -/
def Hub.keepCopy (h : Hub) (x : ShrCopy) (choice : Nat) : Hub :=
  let l := h.l2.filter (·.ga ≠ x.ga)
  let ls := l2Lines l
  let l := if ls.length < 8192 || ls.contains (x.ga / 512) then l
    else l.filter fun y => y.ga / 512 ≠ ls.getD (choice % ls.length) 0
  { h with l2 := l ++ [x] }

/-- R98, R173: a read leaves for its target, or is served from a cached copy, which the L1 then holds.
DEDUCED (log 49). -/
def readRequest (s : State) (ga : Word) (n : Nat) (kind : TrackKind) : State :=
  let copies := shrCopies s ga
  let c := chosen s (copies.length + 1)
  if c < copies.length then
    let x : ShrCopy := { ga := ((physGa s (nodeWafer s.cur.core) ga).getD ga).toNat / 128 * 128, data := copies.getD c 0 }
    let bs := ((vbytes x.data).drop (ga.toNat % 128)).take n
    let s := s.modCn fun k => k.keepCopy x
    post (track s ga kind) s.cur.core [] (.response s.cur.core s.nextId (.data bs))
  else request s ga kind fun o ga => .read o ga n

/-- R173: `get`. -/
def execGet (sd sa : SReg) (off : BitVec 16) (wide : Bool) (s : State) : Out :=
  let n := if wide then 8 else 4
  .next (checked s (.get sd sa off wide) (fun s => gaFault s (globalGa (s.sr sa) off) n) fun s =>
    advance (readRequest (awaitRequest s (.s sd)) (globalGa (s.sr sa) off) n (.getS sd n)))

/-- R173: `getv`. -/
def execGetv (vd : VReg) (sa : SReg) (off : BitVec 16) (s : State) : Out :=
  .next (checked s (.getv vd sa off) (fun s => gaFault s (globalGa (s.sr sa) off) 128) fun s =>
    advance (readRequest (awaitRequest s (.v vd)) (globalGa (s.sr sa) off) 128 (.getV vd)))

/-- R174: `put`. -/
def execPut (sb sa : SReg) (off : BitVec 16) (wide sf : Bool) (s : State) : Out :=
  let n := if wide then 8 else 4
  .next (checked s (.put sb sa off wide sf) (fun s => gaFault s (globalGa (s.sr sa) off) n) fun s =>
    advance (request s (globalGa (s.sr sa) off) .put fun o ga => .write o ga (leBytes n (s.sr sb).toNat) sf))

/-- R174: `putv` writes the 128 data bytes, never the tag or the side field. -/
def execPutv (va : VReg) (sa : SReg) (off : BitVec 16) (sf : Bool) (s : State) : Out :=
  .next (checked s (.putv va sa off sf) (fun s => gaFault s (globalGa (s.sr sa) off) 128) fun s =>
    advance (request s (globalGa (s.sr sa) off) .put fun o ga => .write o ga (vbytes (s.vr va).data) sf))

/-- The first misaligned operand, in the order given (R369). -/
def misaligned (ops : List Word) : Option TrapOf := (ops.find? fun x => x.toNat % 8 ≠ 0).map eAlign

/-- R175, R369: the faults of a payload. -/
def payloadFault (s : State) (sb sa sc : Word) : Option TrapOf :=
  match misaligned [sb, sa, sc] with
  | some t => some t
  | none =>
    if gaBad s sa then some (ePerm sa)
    else if sc.toNat < 8 ∨ 65536 < sc.toNat then some (ePerm sc)
    else
      match laRangeOf sb.toNat sc.toNat with
      | some .scratch | some .shelf => localCheck s s.cur.core s.cur.ctx .load sb sc.toNat
      | _ => some (ePerm sb)

/-- R175: the 128-byte-aligned pieces of a range: offset and length. -/
def pieces (a len : Nat) : List (Nat × Nat) :=
  (granules a len).map fun g =>
    let lo := max g a
    (lo - a, min (g + 128) (a + len) - lo)

/-- R176: the source of the piece that was posted last is still to be read, from an LA on. -/
def unreadLast (s : State) (la len : Nat) : State :=
  { s with net := s.net.dropLast ++ s.net.getLast?.toList.map fun m => { m with unread := some (la, granules la len) } }

/-- R175, R176: a payload leaves in pieces, read when it issues or later. DEDUCED (log 46). -/
def sendPayload (s : State) (sb sa sc : Word) (handler : Bool) (h : Nat) : State :=
  match physGa s (nodeWafer s.cur.core) sa with
  | none => post (track s sa .put) s.cur.core [] (.response s.cur.core s.nextId (.refused 0x05))
  | some ga =>
    (pieces (gaLa sa) sc.toNat).foldl (fun t p =>
      let la := sb.toNat + p.1
      let bs := if s.cur.late then List.replicate p.2 0 else laBytes s.cn la p.2
      let t := post (if s.cur.late then t else t.modCn fun c => c.touchRange la p.2 false) s.cur.core []
        (.piece (origin s) (ga + BitVec.ofNat 64 p.1) bs ga sc.toNat handler h false)
      if s.cur.late then unreadLast t la p.2 else t) (track s sa .put)

/-- Bytes over those of a list from a place on. -/
def patchBytes (bs : List Byte) (at_ : Nat) (new : List Byte) : List Byte :=
  bs.take at_ ++ new ++ bs.drop (at_ + new.length)

/-- R176: the part of a piece that comes from a granule of its source: first byte and length. -/
def sourcePart (la len g : Nat) : Nat × Nat := (max g la, min (g + 128) (la + len) - max g la)

/-- R176: of a message, the operation and the part of a granule that it has still to read. -/
def Msg.wants (m : Msg) (key g : Nat) : Option (Nat × Nat) :=
  match m.kind, m.unread with
  | .piece _ _ bs .., some (la, gs) =>
    if pieceOf m.kind = some key ∧ gs.contains g then some (sourcePart la bs.length g) else none
  | _, _ => none

/-- R176: a piece takes the bytes of a granule of its source. -/
def Msg.takeGranule (c : Core) (key g : Nat) (m : Msg) : Msg :=
  match m.kind, m.unread, m.wants key g with
  | .piece o ga bs b l hd h adm, some (la, gs), some p =>
    let rest := gs.filter (· ≠ g)
    { m with
      kind := .piece o ga (patchBytes bs (p.1 - la) (laBytes c p.1 p.2)) b l hd h adm
      unread := if rest.isEmpty then none else some (la, rest) }
  | _, _, _ => m

/-- R160, R162: what a part of a source meets as it is read. -/
def sourceRefusal (s : State) (n : Node) (p : Nat × Nat) : Option (BitVec 8) :=
  if anyArmed (s.core n) p.1 p.2 then some 0x07
  else if anyExpired s n p.1 p.2 then some 0x0A
  else none

/-- The answer to the origin of a request. -/
def answer (s : State) (o : Origin) (a : Answer) : State := post s o.node [] (.response o.node o.id a)

/-- R175: the other pieces of a refused or stopped payload go no further. -/
def dropPieces (s : State) (key : Nat) : State :=
  { s with net := s.net.filter fun m => pieceOf m.kind ≠ some key }

/-- R175, R176, R190: a granule of the source of a payload is read at its issuer, at once for all its pieces; one that is
armed or has expired by then ends the payload. DEDUCED (log 46). -/
def readGranule (s : State) (o : Origin) (g : Nat) : State :=
  let key := 2 * o.id
  let parts := s.net.filterMap fun m => m.wants key g
  match parts.findSome? (sourceRefusal s o.node) with
  | some code => answer (dropPieces s key) o (.refused code)
  | none =>
    let c := s.core o.node
    let s := s.modCore o.node fun c => parts.foldl (fun c p => c.touchRange p.1 p.2 false) c
    { s with net := s.net.map (Msg.takeGranule c key g) }

/-- R176: the first granule of a piece's source that has still to be read is read. -/
def readPiece (s : State) (id : Nat) : State :=
  match message s id with
  | some { kind := .piece o .., unread := some (_, g :: _), .. } => if isFrozen s o.node then s else readGranule s o g
  | _ => s

/-- R175: `put.h`. -/
def execPutH (sb sa sc : SReg) (h : Fin 32) (s : State) : Out :=
  .next (checked s (.putH sb sa sc h) (fun s => payloadFault s (s.sr sb) (s.sr sa) (s.sr sc)) fun s =>
    advance (sendPayload s (s.sr sb) (s.sr sa) (s.sr sc) true h))
/-- R175: `put.k`. -/
def execPutK (sb sa sc : SReg) (k : Fin 64) (s : State) : Out :=
  .next (checked s (.putK sb sa sc k) (fun s => payloadFault s (s.sr sb) (s.sr sa) (s.sr sc)) fun s =>
    advance (sendPayload s (s.sr sb) (s.sr sa) (s.sr sc) false k))

/-! ### The copy engine (R177) -/

/-- R177: a local side is checked as a read or a write. -/
def copySide (s : State) (x : Word) (use : LocalUse) (len : Nat) : Option TrapOf :=
  if isGa x then none else localCheck s s.cur.core s.cur.ctx use x (max len 1)

/-- R177, R369: the faults of `cp.start`. DEDUCED (log 39). -/
def copyFault (s : State) (sa sb sc : Word) : Option TrapOf :=
  match misaligned [sa, sb, sc] with
  | some t => some t
  | none =>
    if isGa sa && gaBad s sa then some (ePerm sa)
    else if isGa sb && gaBad s sb then some (ePerm sb)
    else
      match copySide s sa .store sc.toNat with
      | some t => some t
      | none =>
        match copySide s sb .load sc.toNat with
        | some t => some t
        | none =>
          if sc.toNat < 8 ∨ 16777216 < sc.toNat then some (ePerm sc)
          else if !isGa sa && !isGa sb && overlaps sa.toNat sc.toNat sb.toNat sc.toNat then some (ePerm sa)
          else none

/-- R177: `cp.start` queues a copy. -/
def execCpStart (sa sb sc : SReg) (k : Fin 64) (s : State) : Out :=
  .next (checked s (.cpStart sa sb sc k) (fun s => copyFault s (s.sr sa) (s.sr sb) (s.sr sc)) fun s =>
    advance (named (s.modCn fun c => { c with comm := { c.comm with copies := c.comm.copies ++
      [{ id := s.nextId, ctx := s.cur.ctx, fires := s.cc.fires, pc := s.cur.pc, dst := s.sr sa, src := s.sr sb,
         len := (s.sr sc).toNat, k := k,
         todo := (pieces (copyLa (s.sr sa)) (s.sr sc).toNat).map (·.1) }] } })))

/-! ### Fences (R179, R195, R196) -/

/-- R179, R193, R195: the home of a word in flight may lie within a scope. -/
def wordInScope (s : State) (sc : Scope) (m : Msg) : Bool := wordMayReach s m (inScope s s.cur.core sc)

/-- R179, R196: the channel and neighbour words of the issuing context that a fence waits for. -/
def fenceWords (s : State) (kind : FenceKind) (sc : Scope) : List Nat :=
  match kind with
  | .rel | .full => (wordsOut s s.cur.core s.cur.ctx).filter fun id =>
      s.net.any fun m => m.wordName == some id && wordInScope s sc m
  | .acq | .put | .lb => []

/-- R196: the earlier requests that a fence waits for. -/
def fenceTracks (s : State) (kind : FenceKind) (sc : Scope) : List Nat :=
  ((myTracks s).filter fun t =>
    (match kind with
     | .acq => t.isReadT
     | .rel | .full => true
     | .put => t.isPut
     | .lb => homeOf s (nodeWafer s.cur.core) t.ga == s.cur.core)
      && inScope s s.cur.core sc (homeOf s (nodeWafer s.cur.core) t.ga)).map (·.id)

/-- R196: the earlier accesses through the local alias port that a fence waits for; its home lies in every scope. -/
def fenceLater (s : State) (kind : FenceKind) : List Nat :=
  ((myLater s).filter fun l =>
    match kind with
    | .acq => l.isLoad
    | .rel | .full => true
    | .put | .lb => false).map (·.id)

/-- R196: the earlier accesses that a fence waits for. -/
def fenceIds (s : State) (kind : FenceKind) (sc : Scope) : List Nat :=
  fenceTracks s kind sc ++ fenceWords s kind sc ++ fenceLater s kind

/-- R196: what a fence holds back until when; `lb` keeps the two ports of the core apart in both directions. -/
def fenceHoldsOf (s : State) (kind : FenceKind) (sc : Scope) : List FenceHold :=
  { kind := kind, ids := fenceIds s kind sc, scope := sc }
    :: (if kind = .lb then [{ kind := .lb, ids := (myLater s).map (·.id), ga := true }] else [])

/-- R179: a fence issues at once and holds back later accesses. -/
def execFence (kind : FenceKind) (scope : Scope) (s : State) : Out :=
  .next (guarded s (.fence kind scope) fun s =>
    advance (s.modCc fun k => { k with
      fences := (k.fences.filter fun f => f.isOpen s s.cur.core) ++ fenceHoldsOf s kind scope }))

/-! ### Atomics (R170–R172) -/

/-- R170: an atomic form, local or remote. -/
def atomicForm (s : State) (i : Instr) (op : AmoOp) (sd sb sc sa : SReg) (off : BitVec 16)
    (uns wide remote : Bool) : State :=
  let n := if wide then 8 else 4
  if remote then
    checked s i (fun s => gaFault s (globalGa (s.sr sa) off) n) fun s =>
      advance (request (awaitRequest s (.s sd)) (globalGa (s.sr sa) off) (.atomic sd n uns) fun o ga =>
        .atomic o ga op.code n uns (s.sr sb) (s.sr sc))
  else if sourceBusy s (localEa (s.sr sa) off).toNat n then s
  else checked s i (fun s => localTrap s .atomic sa off n) fun s =>
    orBlock s i (tryAmo s.cc.regs s op sd sb sc sa off uns wide)

/-- R170: `amo.add`. -/
def execAmoAdd (sd sb sa : SReg) (off : BitVec 16) (uns wide remote : Bool) (s : State) : Out :=
  .next (atomicForm s (.amoAdd sd sb sa off uns wide remote) .add sd sb 0 sa off uns wide remote)
/-- R170: `amo.min`. -/
def execAmoMin (sd sb sa : SReg) (off : BitVec 16) (uns wide remote : Bool) (s : State) : Out :=
  .next (atomicForm s (.amoMin sd sb sa off uns wide remote) .min sd sb 0 sa off uns wide remote)
/-- R170: `amo.max`. -/
def execAmoMax (sd sb sa : SReg) (off : BitVec 16) (uns wide remote : Bool) (s : State) : Out :=
  .next (atomicForm s (.amoMax sd sb sa off uns wide remote) .max sd sb 0 sa off uns wide remote)
/-- R170: `amo.and`. -/
def execAmoAnd (sd sb sa : SReg) (off : BitVec 16) (uns wide remote : Bool) (s : State) : Out :=
  .next (atomicForm s (.amoAnd sd sb sa off uns wide remote) .and sd sb 0 sa off uns wide remote)
/-- R170: `amo.or`. -/
def execAmoOr (sd sb sa : SReg) (off : BitVec 16) (uns wide remote : Bool) (s : State) : Out :=
  .next (atomicForm s (.amoOr sd sb sa off uns wide remote) .or sd sb 0 sa off uns wide remote)
/-- R170: `amo.xchg`. -/
def execAmoXchg (sd sb sa : SReg) (off : BitVec 16) (uns wide remote : Bool) (s : State) : Out :=
  .next (atomicForm s (.amoXchg sd sb sa off uns wide remote) .xchg sd sb 0 sa off uns wide remote)
/-- R170: `amo.cas`. -/
def execAmoCas (sd sb sc sa : SReg) (off : BitVec 16) (uns wide remote : Bool) (s : State) : Out :=
  .next (atomicForm s (.amoCas sd sb sc sa off uns wide remote) .cas sd sb sc sa off uns wide remote)

/-! ### Arrival at the home (R86, R94, R161, R171–R175) -/

/-- R291: the bytes of a Dealer's register space. -/
def dealerByte (d : Dealer) (a : Nat) : Byte :=
  let pick (x : Nat) (i : Nat) : Byte := BitVec.ofNat 8 (bits x (8 * i) 8)
  if a < 0x80 then pick (vget d.d 0 (a / 8)).toNat (a % 8)
  else if a < 0x88 then pick (dkIndex d.pc) (a % 8)
  else if a < 0x90 then pick (dkSts d) (a % 8)
  else if a < 0x98 then pick d.inst.toNat (a % 8)
  else pick (vget d.g 0 ((a - 0xA0) / 4)).toNat (a % 4)

/-- R291: the LA range names a Dealer register. -/
def dealerNames (a n : Nat) : Bool := a + n ≤ 0x98 || (0xA0 ≤ a && a + n ≤ 0xC0)

/-- R291: a read of a Dealer's registers, or a refusal. -/
def dealerRead (s : State) (target src : Node) (la n : Nat) : Answer :=
  let base := if isBridge target then 0x10000 else 0
  if base ≤ la ∧ n ≤ 8 ∧ dealerNames (la - base) n ∧ (regionsOf s src).any (regionsOf s target).contains then
    .data ((List.range n).map fun i => dealerByte (s.dealer target) (la - base + i))
  else .refused 0x05

/-- R98: the home's window that admits a read has SHR set. -/
def readShared (s : State) (target src : Node) (a n : Nat) : Bool :=
  (List.range 8).any fun i =>
    let w := vget (s.core target).comm.win {} i
    windowHolds w a n && filterAdmits s target w src && w.w0.getLsbD 20 && w.w0.getLsbD 29

/-- R98: a fill leaves a copy of the sector with the reader's L1 and its cluster's slice.
DEDUCED (log 20). DEDUCED (log 49). -/
def keepShared (s : State) (reader : Node) (ga : Word) (data : VData) : State :=
  let c : ShrCopy := { ga := ga.toNat / 128 * 128, data := data }
  let s := s.modCore reader fun k => k.keepCopy c
  s.modHub (hubOf reader) fun h => h.keepCopy c (Config.freeChoice s.draws)

/-- R173: a read reaches its home. -/
def execRemoteReadArrive (m : Nat) (s : State) : Out :=
  match arriving s m with
  | some { kind := .read o ga n, .. } =>
    let s := unpost s m
    let t := gaNode ga
    let a := gaLa ga
    if !isCore t then .next (answer s o (dealerRead s t o.node a n))
    else
      match refusal s t o.node .read a n with
      | some code => .next (answer s o (.refused code))
      | none =>
        let bs := laBytes (s.core t) a n
        let s' := s.modCore t fun c => c.touchRange a n false
        let s' := if readShared s t o.node a n && isCore o.node then
            keepShared s' o.node ga (vdataOf (laBytes (s.core t) (a / 128 * 128) 128))
          else s'
        .next (answer s' o (.data bs))
  | _ => .next s

/-- R115, R158: remote bytes enter a context's register window; those that reach it while it is blocked stand after the
blocked instruction, too. DEDUCED (log 22). -/
def Ctx.pokeBytes (k : Ctx) (off : Nat) (bs : List Byte) : Ctx :=
  { regPokes k off bs with blocked := k.blocked.map fun b =>
      { b with pokes := b.pokes ++ bs.zipIdx.map fun p => (off + p.2, p.1) } }

/-- R115, R174: bytes written at a home by a remote agent: into registers at one instruction boundary, or into
memory. -/
def remoteBytes (s : State) (t : Node) (a : Nat) (bs : List Byte) : State :=
  if laRange a = some .regs then
    s.modCtx t (Fin.ofNat 8 ((a - 0x200000) / 0x2000)) fun k => k.pokeBytes ((a - 0x200000) % 0x2000) bs
  else writeMem s t a bs

/-- R174: a put reaches its home. -/
def execRemoteWriteArrive (m : Nat) (s : State) : Out :=
  match arriving s m with
  | some ⟨_, .write o ga bs sf, dom, rin8, rb4, src, after, hb, ur, ops⟩ =>
    let msg : Msg := ⟨m, .write o ga bs sf, dom, rin8, rb4, src, after, hb, ur, ops⟩
    let s := unpost s m
    let t := gaNode ga
    let a := gaLa ga
    if staleTags s msg t then .next s
    else
      match refusal s t o.node (if sf then .writeFe else .write) a bs.length with
      | some code => .next (answer s o (.refused code))
      | none =>
        let s := remoteBytes s t a bs
        .next (answer (if sf then s.modCore t fun c => c.setFull (feWords a bs.length) true else s) o .ack)
  | _ => .next s

/-- R171, R172: an atomic reaches its home. -/
def execRemoteAtomicArrive (m : Nat) (s : State) : Out :=
  match arriving s m with
  | some ⟨_, .atomic o ga op n uns sb sc, dom, rin8, rb4, src, after, hb, ur, ops⟩ =>
    let msg : Msg := ⟨m, .atomic o ga op n uns sb sc, dom, rin8, rb4, src, after, hb, ur, ops⟩
    let s := unpost s m
    let t := gaNode ga
    if staleTags s msg t then .next s
    else
      match refusal s t o.node .atomic (gaLa ga) n with
      | some code => .next (answer s o (.refused code))
      | none =>
        let r := amoAt s t (gaLa ga) op n uns sb sc
        .next (answer r.1 o (.data r.2))
  | _ => .next s

/-- R271: an increment of a counter. -/
def addCounter (s : State) (n : Node) (k : Nat) (v : BitVec 32) : State :=
  s.modCore n fun c => { c with sync := { c.sync with k := vset c.sync.k k (vget c.sync.k 0 k + v) } }

/-- The pieces of an operation that are still in flight. -/
def piecesLeft (s : State) (key : Nat) : List Nat :=
  (s.net.filter fun m => pieceOf m.kind == some key).map (·.id)

/-- R175: the refusal of a whole payload, decided before any piece is written. -/
def payloadRefusal (s : State) (t src : Node) (base : Word) (len : Nat) (handler : Bool) (h : Nat) :
    Option (BitVec 8) :=
  if nacked s t src .write (gaLa base) len then some 0x05
  else if handler && (vget (s.core t).trg.entries {} h).hpc == 0 then some 0x05
  else none

/-- R175: the other pieces of an admitted payload. -/
def admitPieces (s : State) (key : Nat) : State :=
  { s with net := s.net.map fun m =>
      if pieceOf m.kind = some key then
        { m with kind := match m.kind with
            | .piece o ga bs b l hd h _ => .piece o ga bs b l hd h true
            | k => k }
      else m }

/-- R126, R175: what the target does after the last piece. -/
def finishPayload (s : State) (t : Node) (src : Node) (base : Word) (len : Nat) (handler : Bool) (h : Nat) : State :=
  if handler then
    s.modCore t fun c => { c with trg := { c.trg with
      pseudo := c.trg.pseudo ++ [{ h := Fin.ofNat 32 h, la := gaLa base, len := len, src := src }] } }
  else addCounter s t h 1

/-- R126: a message waits at its target's request port. -/
def holdMsg (s : State) (id : Nat) : State :=
  { s with net := s.net.map fun m => if m.id = id then { m with held := true } else m }

/-- R175: an admitted piece of a payload performs, unless its range is armed. -/
def landPiece (s : State) (o : Origin) (ga : Word) (bs : List Byte) (base : Word) (len : Nat) (handler : Bool) (h : Nat) :
    State :=
  let t := gaNode ga
  if anyArmed (s.core t) (gaLa ga) bs.length then answer (dropPieces s (2 * o.id)) o (.refused 0x07)
  else
    let s := admitPieces (remoteBytes s t (gaLa ga) bs) (2 * o.id)
    if (piecesLeft s (2 * o.id)).isEmpty then answer (finishPayload s t o.node base len handler h) o .ack else s

/-- R95, R175: a piece of a payload reaches its home: it is checked, and an admitted `put.h` waits while eight
pseudo-triggers are pending (R126). -/
def execPayloadPieceArrive (m : Nat) (s : State) : Out :=
  match arriving s m with
  | some ⟨_, .piece o ga bs base len handler h adm, dom, rin8, rb4, src, after, hb, ur, ops⟩ =>
    let msg : Msg := ⟨m, .piece o ga bs base len handler h adm, dom, rin8, rb4, src, after, hb, ur, ops⟩
    let t := gaNode ga
    if staleTags s msg t then .next (unpost s m)
    else
      match (if adm then none else payloadRefusal s t o.node base len handler h) with
      | some code => .next (answer (dropPieces s (2 * o.id)) o (.refused code))
      | none =>
        .next (if handler && 8 ≤ (s.core t).trg.pseudo.length then holdMsg (admitPieces s (2 * o.id)) m
          else landPiece (unpost s m) o ga bs base len handler h)
  | _ => .next s

/-! ### Copies run (R177, R178) -/

/-- R178: a copy stops and reports. DEDUCED (log 47). -/
def stopCopy (s : State) (c : Node) (x : Copy) (code : BitVec 8) (val : Word) : State :=
  let s := s.modCore c fun k => { k with comm := { k.comm with
    copies := k.comm.copies.filter (·.id ≠ x.id) } }
  report s c x.ctx x.fires x.id code x.pc val

/-- R161, R178: the refusal of one side of a piece. DEDUCED (log 47). -/
def copyRefusal (s : State) (c : Node) (x : Word) (off n : Nat) (use : RemoteUse) : Option (BitVec 8) :=
  if isGa x then
    match physGa s (nodeWafer c) x with
    | some p => refusal s (gaNode p) c use (gaLa x + off) n
    | none => some 0x05
  else if anyArmed (s.core c) (x.toNat + off) n then some 0x07
  else if use = .read ∧ anyExpired s c (x.toNat + off) n then some 0x0A
  else none

/-- R177: one piece of a copy is read and written. DEDUCED (log 46). -/
def movePiece (s : State) (c : Node) (x : Copy) (off : Nat) : State :=
  let n := x.pieceLen off
  match copyRefusal s c x.src off n .read with
  | some code => stopCopy s c x code x.src
  | none =>
    match copyRefusal s c x.dst off n .write with
    | some code => stopCopy s c x code x.dst
    | none =>
      let src := copyHome s c x.src
      let bs := loadBytes s src x.ctx (copyLa x.src + off) n
      let s := s.modCore src fun k => k.touchRange (copyLa x.src + off) n false
      let s := remoteBytes s (copyHome s c x.dst) (copyLa x.dst + off) bs
      let todo := x.todo.filter (· ≠ off)
      let s := s.modCore c fun k => { k with comm := { k.comm with
        copies := if todo.isEmpty then k.comm.copies.filter (·.id ≠ x.id)
          else k.comm.copies.map fun y => if y.id = x.id then { y with todo := todo } else y } }
      if todo.isEmpty then addCounter s c x.k 1 else s

/-- R126, R327: a request of a copy waits at one of its sides: the core is frozen, or a waiting `put.h` holds it back. -/
def copyWaits (s : State) (c : Node) (x : Word) : Bool :=
  isFrozen s (copyHome s c x) || (isGa x && portHeld s c (copyHome s c x) none)

/-- R177: the piece that a copy moves next: pieces move in any order. DESIGN CHOICE (log 8). -/
def Copy.nextPiece (s : State) (x : Copy) : Nat := x.todo.getD (chosen s x.todo.length) 0

/-- R177: a copy moves one of its pieces, in any order. A piece of another domain's copy that reaches a frozen core waits
at its port (R327). -/
def execCopyPiece (c : Node) (id : Nat) (s : State) : Out :=
  match (s.core c).comm.copies.find? (·.id == id) with
  | some x =>
    if isFrozen s c || copyWaits s c x.src || copyWaits s c x.dst then .next s
    else .next (movePiece s c x (x.nextPiece s))
  | none => .next s

/-! ### Responses (R162, R172, R173) -/

/-- R158, R162: the register that an answer fills, if it still awaits it. DEDUCED (log 22). -/
def fillRegister (k : Ctx) (id : Nat) (kind : TrackKind) (bs : List Byte) : Ctx :=
  if k.pending.any (fun p => p.2 = .request id) then
    match kind with
    | .getS r _ => k.fillS id r (extendBytes bs false)
    | .getV r => k.fillV id r { data := vdataOf bs }
    | .atomic r _ uns => k.fillS id r (extendBytes bs (!uns))
    | .put => k
  else k

/-- R162: the answer to a tracker entry comes back. -/
def execRemoteResponseArrive (m : Nat) (s : State) : Out :=
  match arriving s m with
  | some { kind := .response c id a, .. } =>
    let s := unpost s m
    match (s.core c).comm.tracker.find? (·.id == id) with
    | none => .next s
    | some t =>
      let s := s.modCore c fun k => { k with comm := { k.comm with tracker := k.comm.tracker.filter (·.id ≠ id) } }
      match a with
      | .ack => .next s
      | .data bs =>
        .next (if (s.ctx c t.ctx).fires = t.fires then s.modCtx c t.ctx fun k => fillRegister k id t.kind bs else s)
      | .refused code =>
        let s := if (s.ctx c t.ctx).fires = t.fires then
            s.modCtx c t.ctx fun k =>
              { k with pending := k.pending.filter (fun p => p.2 ≠ .request id), poked := k.poked.filter (·.1 ≠ id) }
          else s
        .next (report s c t.ctx t.fires id code t.pc t.ga)
  | _ => .next s

/-- R91: the deadline of a transient granule passes. -/
def execRetentionDeadline (c : Node) (granule : Nat) (s : State) : Out :=
  match AMap.find (s.core c).mem.written granule with
  | some t =>
    .next (if t.1 + Config.retention ≤ s.now then
      s.modCore c fun k => { k with mem := { k.mem with written := AMap.drop k.mem.written granule } } else s)
  | none => .next s

end Sys2Proof.Machine
end

