-- ==== Sys2Proof/Machine/Check.lean ====
section
/-! DEFINITION. Stopping a region, machine checks and the start of a rollback or reset (R73, R75, R326, R342, R343,
R351, R356, R372), and the flip of a seal (R324). -/

namespace Sys2Proof.Machine

/-! ### Commands and endpoints at a bridge -/

/-- R66: a command finishes: BUSY clears, CODE is written, MSI-X vector 0 goes to the port. -/
def finishCommand (s : State) (w port : Nat) (code : BitVec 8) : State :=
  let s := s.modModule w fun m =>
    let p := vget m.ports {} (port - 1)
    { m with ports := vset m.ports (port - 1) { p with busy := false, code := code, running := none } }
  sendMsix s w port 0

/-- R70: the bytes of a host's memory. -/
def hostRead (s : State) (w port a n : Nat) : List Byte :=
  memRead (vget (s.module w).ports {} (port - 1)).hostMem a n

/-- An endpoint of a slot. -/
def endpoint (s : State) (w slot e : Nat) : Option Endpoint := ((s.module w).slot slot).eps[e]?

/-- Change an endpoint of a slot. -/
def modEndpoint (s : State) (w slot e : Nat) (f : Endpoint → Endpoint) : State :=
  s.modSlot w slot fun t => { t with eps := t.eps.mapIdx fun i x => if i = e then f x else x }

/-- R73: the number of words of an egress endpoint that are sealed and below LIMIT. -/
def deliverable (x : Endpoint) : Nat :=
  if x.egress && x.bound then min x.held.length ((min x.sealedUpTo x.limit - x.pos) / 128) else 0

/-- R73: sealed egress goes to the host in position order; then POS advances and MSI-X vector 2 + s is sent.
DEDUCED (log 62). -/
def deliverEgress (s : State) (w slot e : Nat) : State :=
  match endpoint s w slot e with
  | none => s
  | some x =>
    let n := deliverable x
    if n = 0 then s
    else
      let port := ((s.module w).slot slot).owner
      let s := ((List.range n).zip x.held).foldl (fun s p =>
        hostPoke s w port (x.ptr + (x.pos + 128 * p.1) % x.extent) (vbytes p.2)) s
      let s := modEndpoint s w slot e fun x => { x with pos := x.pos + 128 * n, held := x.held.drop n }
      sendMsix s w port (2 + slot)

/-- R73: sealed egress of every endpoint of a slot; an orphaned slot delivers nothing (R65). -/
def deliverSlot (s : State) (w slot : Nat) : State :=
  if ((s.module w).slot slot).orphaned then s
  else (List.range ((s.module w).slot slot).eps.length).foldl (fun s e => deliverEgress s w slot e) s

/-! ### Stopping a region (R75, R356) -/

/-- R356: a core after its region has stopped. -/
def Core.stopped (c : Core) : Core :=
  let free (k : Ctx) : Ctx := { sts := freshSts k.sts, fires := k.fires + 1 }
  { c with
    ctxs := c.ctxs.map free
    mem := { bankLive := c.mem.bankLive, bankNext := c.mem.bankNext }
    trg := { c.trg with
      entries := c.trg.entries.map fun e => { e with tctl := e.tctl &&& 0xFE }
      pseudo := [] }
    comm := {}
    sync := { bar := c.sync.bar }
    mx := { cfg := c.mx.cfg, ctab := c.mx.ctab }
    rcv := { c.rcv with arrival := none, traps := [], slot0 := none, slot1 := none }
    later := [] }

/-- R356: a hub after its region has stopped. -/
def Hub.stopped (h : Hub) : Hub :=
  { h with dealer := {}, l2 := [], bar := Vector.replicate 15 {}, barCkpt := Vector.replicate 15 {}, barUsed := 0, mask := 0 }

/-- R22, R311: the bridges whose Decks a slot installed lose them. DEDUCED (log 58). -/
def dropBridgeDecks (s : State) (w slot : Nat) : State :=
  (List.range 32).foldl (fun s b =>
    let n := mkNode w (0xFF00 + b)
    if (s.bridge n).dealer.deck.isSome && (s.bridge n).dealer.slot == slot then
      s.modBridge n fun x => { x with dealer := {} }
    else s) s

/-- The messages that concern none of the nodes. -/
def dropTraffic (s : State) (gone : Node → Bool) : State :=
  { s with net := s.net.filter fun m => !(gone (msgTarget s m.kind) || gone m.src) }

/-- R284: the region leaves every wide barrier of its domain; from the next phase on they count it no more.
DEDUCED (log 50). -/
def leaveWide (s : State) (w slot : Nat) : State :=
  match slotDomain s w slot with
  | none => s
  | some d =>
    let leave (b : WideBar) : WideBar :=
      if b.members.contains (w, slot) then { b with leaving := b.leaving ++ [(w, slot)], rep1 := b.rep1.filter (· ≠ (w, slot)) }
      else b
    s.modDomain d fun x => { x with wide := x.wide.map leave, wideCkpt := x.wideCkpt.map leave }

/-- R351: the core that an injection register names. DEDUCED (log 73). -/
def injected (b : Node × Bridge) : Node := mkNode (nodeWafer b.1) (bits b.2.vbInj.toNat 0 16)

/-- R351: an armed injection whose core leaves its region clears without firing. DEDUCED (log 73). -/
def disarmInjections (s : State) (cores : List Node) : State :=
  { s with bridges := s.bridges.map fun b =>
      if cores.contains (injected b) then (b.1, { b.2 with vbInj := b.2.vbInj &&& ~~~(1#64 <<< 63) }) else b }

/-- R75: the ports whose UNLOAD of a slot awaits its stop. -/
def unloadWaiters (m : Module) (slot : Nat) : List Nat :=
  [1, 2].filter fun p =>
    match (vget m.ports {} (p - 1)).running with
    | some r => r.op == 4 && r.slot == slot
    | none => false

/-- R75, R356: a region stops: sealed egress below LIMIT is delivered, the rest is discarded, and every core, hub and
router of the region reaches the state of R356. -/
def stopRegion (s : State) (w slot : Nat) : State :=
  let cores := slotCores s w slot
  let hubs := slotHubs s w slot
  let s := deliverSlot s w slot
  let s := dropTraffic s fun n => cores.contains n || hubs.contains n
  let s := leaveWide s w slot
  let s := cores.foldl (fun s n => s.modCore n Core.stopped) s
  let s := hubs.foldl (fun s n => s.modHub n Hub.stopped) s
  let s := disarmInjections (dropBridgeDecks s w slot) cores
  let s := s.modSlot w slot fun t =>
    { t with
      st := .unloaded, image := none, unloading := false, zeroing := (t.zeroing ++ t.clusters).foldl insertNat [], joined := 0, joinedCkpt := 0
      wakes := false, wakeHeld := false
      eps := t.eps.map fun x => { x with bound := false, held := [] } }
  (unloadWaiters (s.module w) slot).foldl (fun s p => finishCommand s w p 0x00) s

/-! ### FLIP (R324) -/

/-- R324: FLIP of one core: the interval advances, the new slot becomes active, the log empties. -/
def Core.flip (c : Core) : Core :=
  { c with
    mem := { c.mem with logged := [] }
    rcv := { c.rcv with
      rinSealed := c.rcv.rin, rin := c.rcv.rin + 1, active := !c.rcv.active, logFill := 0
      logCtl := c.rcv.logCtl &&& ~~~0xC000#64 } }

/-- R324: FLIP of every core of a domain. -/
def flipDomain (s : State) (d : Nat) : State :=
  let s := (domCores s d).foldl (fun s n => s.modCore n Core.flip) s
  s.modDomain d fun x => { x with req := false, phase := .change }

/-! ### Machine checks (R326, R342, R343, R372) -/

/-- R342: the cause of a source. -/
def mcCause (src : Nat) : BitVec 8 := if src ≤ 2 then 0x10 else 0x11

/-- R343: a ring keeps its 64 most recent records. -/
def Ring.append (r : Ring) (x : McRecord) : Ring :=
  { recs := (r.recs ++ [x]).drop ((r.recs ++ [x]).length - 64), count := r.count + 1 }

/-- R343: the location, `CYCLE` and interval of a record. DESIGN CHOICE (log 105). -/
def mcRecord (s : State) (loc : Node) (cause src action detail : Nat) (rin rb : BitVec 32) : McRecord :=
  { cause := BitVec.ofNat 8 cause, src := BitVec.ofNat 8 src, action := BitVec.ofNat 8 action,
    loc := BitVec.ofNat 32 (location s loc), rin := rin, rb := rb, detail := BitVec.ofNat 64 detail,
    cycle := BitVec.ofNat 64 (cycleOf s loc) }

/-- R320: an interval in which some core of the domain has UNREC set. -/
def unrecoverable (s : State) (d : Nat) : Bool := (domCores s d).any fun n => logUnrec (s.core n)

/-- R326: the commit point of the seal in progress has been recorded. -/
def SealPhase.recorded : SealPhase → Bool
  | .flip | .change | .release => true
  | .open_ | .hold | .check | .clean | .ckpt | .point => false

/-- R326, R331: a rollback of a domain begins, from the seal that R326 names. -/
def beginRollback (s : State) (d : Nat) : State :=
  let s := if (s.domain d).phase = .flip then flipDomain s d else s
  s.modDomain d fun x => { x with phase := .open_, rolling := true, restored := false }

/-- R326: a domain is reset: each of its regions is stopped. -/
def resetDomain (s : State) (d : Nat) : State :=
  let s := (memberSlots s d).foldl (fun s p => stopRegion s p.1 p.2) s
  { s with domains := AMap.drop s.domains d }

/-- R330, R331, R360: the operation of CHANGE that follows `k` finished ones concerns a core of the domain: the first where
its `BANKMAP.PEND` is set, the third where a hot column moves its site. DEDUCED (log 91). -/
def changeAt (s : State) (d : Nat) (n : Node) (k : Nat) : Bool :=
  isCore n && domainOf s n == some d
    && (match k with
      | 0 => (s.core n).mem.bankNext != (s.core n).mem.bankLive
      | 2 => (s.module (nodeWafer n)).colmoves.any fun q =>
          coreX n / 32 == q.1 && coreY n / 40 == q.2.1 && q.2.2.1 ≤ (siteOf s n).1 % 33 && !q.2.2.2.contains d
      | _ => false)

/-- R331: a machine check in CHANGE finds some of its six operations finished and the next in progress; of the first and
the third the core where it is detected fails, if they concern it. Finished operations and failed cores are noted for the
rollback that follows. DEDUCED (log 91). -/
def failChange (s : State) (d : Nat) (n : Node) : State :=
  if (s.domain d).phase ≠ .change then s
  else
    let s' := drawn s
    let k := chosen s 7
    let fails := changeAt s d n k
    let s' := if fails && k == 0 then s'.modCore n fun c => { c with mem := { c.mem with bankNext := c.mem.bankLive } } else s'
    s'.modDomain d fun x => { x with finished := k, failed := x.failed ++ if fails then [n] else [] }

/-- R343: the ports that own the slots of a list, by module, each once. -/
def slotOwners (s : State) (slots : List (Nat × Nat)) : List (Nat × Nat) :=
  (slots.map fun p => (p.1, ((s.module p.1).slot p.2).owner)).foldl (fun l x => if l.contains x then l else l ++ [x]) []

/-- R317: a log record of a core holds a byte. -/
def inRecords (c : Core) (a : Nat) : Bool :=
  !c.inService && overlaps a 1 (c.rcv.logBase.toNat + 0x40000) (144 * logCap c)

/-- R23, R343: one domain is machine-checked: its slots' rings take the record, which names the seal points of a rollback,
their owners MSI-X vector 32, and the domain begins a rollback or is reset. DESIGN CHOICE (log 105). -/
def checkDomain (s : State) (d : Nat) (loc : Node) (src detail : Nat) : State :=
  let recorded := (s.domain d).phase.recorded
  let inRecord := (s.domain d).rolling && !(s.domain d).restored && src = 1 && inRecords (s.core loc) detail
  let reset := src = 6 || (src = 5 && bits detail 24 8 == 6) || (unrecoverable s d && !recorded) || inRecord
  let members := memberSlots s d
  let c := s.core ((domCores s d).headD 0)
  let action := if reset then 1 else if (s.domain d).frozen then 2 else 0
  let r := mcRecord s loc (mcCause src).toNat src action detail c.rcv.rin
    (c.rcv.rbCount + if reset then 0 else 1)
  let after := if reset then resetDomain s d else beginRollback (failChange s d loc) d
  let r := if reset then r else { r with seals := sealSeqs after (domCores s d) }
  let s := members.foldl (fun s p => s.modSlot p.1 p.2 fun t => { t with ring := t.ring.append r }) s
  let s := (slotOwners s members).foldl (fun s p => sendMsix s p.1 p.2 32) s
  if reset then resetDomain s d else beginRollback (failChange s d loc) d

/-- R372: a machine check that affects the domains of a list; with none, the module's own ring takes the record.
DEDUCED (log 72). DESIGN CHOICE (log 116). -/
def machineCheckOf (s : State) (ds : List Nat) (loc : Node) (src detail : Nat) : State :=
  if ds.isEmpty then
    let r := mcRecord s loc (mcCause src).toNat src 4 detail 0 0
    let s := s.modModule (nodeWafer loc) fun m => { m with ring := m.ring.append r }
    sendMsix (sendMsix s (nodeWafer loc) 1 32) (nodeWafer loc) 2 32
  else ds.foldl (fun s d => checkDomain s d loc src detail) s

/-- The domains of the regions that a bridge serves. -/
def bridgeDomains (s : State) (b : Node) : List Nat :=
  ((servedSlots s b).filterMap (slotDomain s (nodeWafer b))).foldl insertNat []

/-- R372: the domains that a machine check at a node affects. -/
def affected (s : State) (n : Node) : List Nat :=
  if isBridge n then bridgeDomains s n else (domainOf s n).toList

/-- R342: a machine check detected at a node. -/
def machineCheckAt (s : State) (n : Node) (src detail : Nat) : State :=
  machineCheckOf s (affected s n) n src detail

/-! ### The injected beat fault (R351) -/

/-- R351: an injection that names the core in the interval that it is in. -/
def vbMatches (s : State) (b : Node) (c : Node) : Bool :=
  let v := (s.bridge b).vbInj.toNat
  bitOf v 63 && nodeWafer b == nodeWafer c && bits v 0 16 == nodeNum c
    && bits v 16 32 == (s.core c).rcv.rin.toNat

/-- R351: the bridge whose armed injection a read beat of a core meets. -/
def injection (s : State) : Option (Node × Bridge) :=
  s.bridges.find? fun b =>
    bitOf b.2.vbInj.toNat 63 && (s.core (injected b)).mem.beat.isSome && vbMatches s b.1 (injected b)

/-- R351: the read beats of a step have crossed. -/
def clearBeats (s : State) : State :=
  if s.cores.any fun p => p.2.mem.beat.isSome then
    { s with cores := s.cores.map fun p =>
        if p.2.mem.beat.isSome then (p.1, { p.2 with mem := { p.2.mem with beat := none } }) else p }
  else s

/-- R342, R372: an issuer outside every domain, which no rollback discards, stays blocked; its reads that are under way do
not complete. DEDUCED (log 72). -/
def stopIssuer (s : State) (n : Node) (x : Fin 8) : State :=
  if (domainOf s n).isSome then s
  else
    (s.modCtx n x fun k => { k with stuck := true }).modCore n fun c =>
      { c with later := c.later.filter fun l => l.ctx != x || !l.isLoad }

/-- R342, R351: a step in which a read beat met an armed injection does not complete: what was before it, with the
injection spent, is machine-checked. A context outside every domain that issued in it stays blocked. DEDUCED (log 72). -/
def failBeat (before after : State) (issuer : Option (Node × Fin 8)) (b : Node × Bridge) : State :=
  let n := injected b
  let beat := ((after.core n).mem.beat).getD 0
  let s := before.modBridge b.1 fun x => { x with vbInj := x.vbInj &&& ~~~(1#64 <<< 63) }
  let s := match issuer with
    | some (m, x) => stopIssuer s m x
    | none => s
  machineCheckAt s n 0 beat

/-- R342, R351: what a step comes to once its read beats have crossed the vertical buses. DEDUCED (log 72). -/
def settleBeats (before after : State) (issuer : Option (Node × Fin 8)) : State :=
  match injection after with
  | some b => failBeat before after issuer b
  | none => clearBeats after

/-- R372: the domain of the region that sent a word; of a bridge's Dealer, that of its Deck as it sent the word, if it is
still there. -/
def senderDomains (s : State) (w : ChWord) : List Nat :=
  if isBridge w.src then w.dom.toList.filter fun d => !(memberSlots s d).isEmpty else affected s w.src

/-- R372: the domains of an end of a message: of a bridge, that of the Deck that its Dealer holds. -/
def endDomains (s : State) (n : Node) : List Nat :=
  if !isBridge n then affected s n
  else if (s.bridge n).dealer.deck.isSome then (dealerDomain s n).toList
  else []

/-- R372: the domains that a message in flight belongs to. -/
def msgDomains (s : State) (m : Msg) : List Nat :=
  match m.kind with
  | .ingress w i .. | .egress w i .. | .epCredit w i _ => (slotDomain s w i).toList
  | .wide d .. => [d]
  | .relHub h .. => affected s h
  | .word n _ w | .chunk n w => endDomains s n ++ senderDomains s w
  | k => endDomains s (msgTarget s k) ++ endDomains s m.src

/-- R372: the domains of the words on the link into a core's router by a port. -/
def linkDomains (s : State) (n : Node) (port : Nat) : List Nat :=
  ((s.net.filter fun m => match m.kind with
    | .word a p _ => a == n && p == port
    | _ => false).flatMap (msgDomains s)).foldl insertNat []

/-- R372: the domains that have something in flight: a mesh link that fails may carry any of it. -/
def meshDomains (s : State) : List Nat := (s.net.flatMap (msgDomains s)).foldl insertNat []

/-- R372: the domains whose held egress bytes or replay bytes a bridge holds in its DRAM die. -/
def heldDomains (s : State) (b : Node) : List Nat :=
  (((servedSlots s b).filter fun i => ((s.module (nodeWafer b)).slot i).eps.any fun x => !x.held.isEmpty).filterMap
    (slotDomain s (nodeWafer b))).foldl insertNat []

/-- R315: the modules of a domain's regions. -/
def domainWafers (s : State) (d : Nat) : List Nat := ((memberSlots s d).map (·.1)).foldl insertNat []

/-- R284: the root bridge of a domain is the lowest of those of its regions, on the lowest wafer. -/
def domainRoot (s : State) (d : Nat) : Nat := (domainWafers s d).headD 0

/-- R365: traffic of a list of modules with a root takes a link. -/
def rootUses (s : State) (root : Nat) (ws : List Nat) (l : Node × Nat) : Bool := ws.any fun w => usesLink s w root l

/-- R365: the far end of an optical port. -/
def farEnd (s : State) (n : Node) (q : Nat) : Option Node :=
  let e := (vget (s.bridge n).ports {} q).entry.toNat
  (waferKey s (nodeWafer n) (bits e 16 4)).map fun w => mkNode w (0xFF00 + bits e 8 5)

/-- R300, R365: the Dealer of a bridge has a Deck whose image sends chunks through the bridge's port. -/
def chunksOver (s : State) (n : Node) (q : Nat) : List Nat :=
  let d := (s.bridge n).dealer
  let img := ((s.module (nodeWafer n)).slot d.slot).image
  if d.deck.isSome && (img.map fun (m : ImageInfo) => m.chunk.getLsbD (60 + q)).getD false then
    (dealerDomain s n).toList
  else []

/-- R284, R365: the domains with a wide barrier whose messages take a link. -/
def wideOver (s : State) (l : Node × Nat) : List Nat :=
  (s.domains.filter fun d => (List.range 15).any fun b =>
    let ms := (vget d.2.wide {} b).members
    match wideRootBridge s d.1 b with
    | some r => rootUses s (nodeWafer r) (ms.map (·.1)) l
    | none => false).map (·.1)

/-- R365, R372: the domains whose traffic a link carries: chunk streams, wide barriers, `b15`, and accesses under way. -/
def opticalDomains (s : State) (n : Node) (q : Nat) : List Nat :=
  let l := (n, q)
  (chunksOver s n q ++ ((farEnd s n q).map fun m => chunksOver s m q).getD []
    ++ wideOver s l
    ++ (s.domains.map (·.1)).filter (fun d => rootUses s (domainRoot s d) (domainWafers s d) l)
    ++ (s.net.filter fun m => usesLink s (nodeWafer m.src) (nodeWafer (msgTarget s m.kind)) l).flatMap
      (msgDomains s)).foldl insertNat []

/-- R372: where the place of a fault in a link or in a bridge's DRAM die decides which domains it affects, those that it
does affect, and those that it may affect besides. DESIGN CHOICE (log 92). -/
def openDomains (s : State) (n : Node) (src detail : Nat) : Option (List Nat × List Nat) :=
  if isBridge n then
    if src ≤ 2 then some ([], heldDomains s n)
    else if src = 3 then some (opticalDomains s n (detail % 4), [])
    else if src = 4 then some (wideOver s (n, detail % 4), [])
    else none
  else if src = 3 then some (linkDomains s n (detail % 4), meshDomains s)
  else none

/-- The members of a list that a free value chooses. DESIGN CHOICE (log 92). -/
def someOf (v : Nat) (l : List Nat) : List Nat := (l.zipIdx.filter fun p => v.testBit p.2).map (·.1)

/-- R364: a failed link at a bridge: its optical port `detail` mod 4 goes down at both ends, until the next POD.
DESIGN CHOICE (log 92). -/
def failLink (s : State) (n : Node) (src detail : Nat) : State :=
  if isBridge n && (src == 3 || src == 4) then
    let q := detail % 4
    let o := vget (s.bridge n).ports {} q
    let far := farEnd s n q
    let down (x : Bridge) : Bridge := { x with ports := vset x.ports q { (vget x.ports {} q) with up := false } }
    if o.up then
      let s := s.modBridge n down
      match far with
      | some b => s.modBridge b down
      | none => s
    else s
  else s

/-- R342, R372: the issuer of the access that meets a fault in a memory of a core outside every domain: the one context
that runs there. DEDUCED (log 72). -/
def stopService (s : State) (n : Node) (src : Nat) : State :=
  if src ≤ 2 && (isCore n || isSite n) && (s.ctx n 0).st != .free then stopIssuer s n 0 else s

/-- R342, R372: a machine check from a source that the table names. DESIGN CHOICE (log 92). -/
def execMachineCheck (n : Node) (src : Fin 7) (detail : Nat) (s : State) : Out :=
  .next (match openDomains s n src detail with
    | none => machineCheckAt (stopService s n src) n src detail
    | some (ds, may) =>
      machineCheckOf (failLink (drawn s) n src detail) ((ds ++ someOf (Config.freeChoice s.draws) may).foldl insertNat [])
        n src detail)

/-- R344, R345: a debug freeze of a domain. -/
def execDebugFreeze (d : Nat) (reason : BitVec 32) (s : State) : Out := .next (debugFreeze s d reason)

/-- R165: a context of a core that awaits a sector. -/
def awaiting (c : Core) (sector : Nat) : Option (Fin 8) :=
  ((List.range 8).map (Fin.ofNat 8)).find? fun x => (c.ctx x).pending.any fun p => p.2 == .sector sector

/-- R342, R351: the read beats of a sector that a load awaits fail: it never arrives. DEDUCED (log 72). -/
def failFill (s t : State) (c : Node) (sector : Nat) : State :=
  match injection t with
  | some b =>
    failBeat (s.modCore c fun k => { k with mem := { k.mem with fills := k.mem.fills.filter (· ≠ sector) } }) t
      ((awaiting (s.core c) sector).map fun x => (c, x)) b
  | none => s

/-- R165: the sector that a load awaits arrives, and the load's register holds its value, unless its beats fail (R351).
DEDUCED (log 21). -/
def execSectorFillArrive (c : Node) (sector : Nat) (s : State) : Out :=
  if (s.core c).mem.fills.contains sector then
    let t := s.modCore c fun k => k.touch sector false
    if (injection t).isSome then .next (failFill s t c sector)
    else
      .next (t.modCore c fun k =>
        { k with
          mem := { k.mem with fills := k.mem.fills.filter (· ≠ sector) }
          ctxs := k.ctxs.map fun x => { x with pending := x.pending.filter (fun p => p.2 ≠ .sector sector) } })
  else .next s

end Sys2Proof.Machine
end

