-- ==== Sys2Proof/Machine/Channels.lean ====
section
/-! DEFINITION. Channels, streams, credits, neighbour ports, ingress and egress words (R30, R69, R73, R182–R189, R300,
R312). -/

namespace Sys2Proof.Machine

/-- R29, R30: the tag and SP of a word are a valid pair. -/
def validPair (v : VVal) : Bool := v.tag.toNat ≤ 8 && (!v.sp || (3 ≤ v.tag.toNat && v.tag.toNat ≤ 6))

/-- R183: the info word of a channel word. -/
def infoWord (w : Option ChWord) (depth : Nat) : Word :=
  match w with
  | none => BitVec.ofNat 64 (depth * 2 ^ 16)
  | some w =>
    BitVec.ofNat 64 (2 ^ 31 + depth * 2 ^ 16 + (if w.mark then 2 ^ 9 else 0) + (if w.usr then 2 ^ 8 else 0)
      + w.htag.toNat)

/-- A declared channel of a core. -/
def Core.chan (c : Core) (ch : Nat) : Option Chan := AMap.find c.comm.chans ch
/-- Replace a channel. -/
def Core.setChan (c : Core) (ch : Nat) (x : Chan) : Core :=
  { c with comm := { c.comm with chans := AMap.put c.comm.chans ch x } }

/-- R186: `chpeek` and `chtag` see a spilled channel as empty. -/
def Chan.visible (x : Chan) : List ChWord := if x.spill.isEmpty then x.queue else []

/-- R186, R369: a channel number that names no declaration. -/
def chanFault (s : State) (ch : Nat) : Option TrapOf :=
  if (s.cn.chan ch).isSome then none else some (ePerm (BitVec.ofNat 64 ch))

/-! ### Credits (R185) -/

/-- R185: one word that a credit pays for has left the queue that it reached, or has reached none. DEDUCED (log 28). -/
def releaseLot (s : State) (lot : Nat) : State :=
  match s.lots.find? (·.1 == lot) with
  | none => s
  | some (l, core, stream, n) =>
    let rest := s.lots.filter (·.1 ≠ lot)
    if n ≤ 1 then post { s with lots := rest } core [] (.credit core stream)
    else { s with lots := rest ++ [(l, core, stream, n - 1)] }

/-- R185: a word forwarded to `k` outputs is paid for by one credit. DEDUCED (log 28). -/
def splitLot (s : State) (lot k : Nat) : State :=
  { s with lots := s.lots.map fun x => if x.1 = lot then (x.1, x.2.1, x.2.2.1, x.2.2.2 + (k - 1)) else x }

/-- R185: the head word leaves its channel's queue and its credit returns, that of an ingress word to the endpoint that
sent it (R69). -/
def popChannel (s : State) (n : Node) (ch : Nat) : State :=
  match (s.core n).chan ch with
  | none => s
  | some x =>
    match x.queue with
    | [] => s
    | w :: rest =>
      let s := s.modCore n fun c => c.setChan ch { x with queue := rest }
      if x.host then
        match slotOf s n with
        | some i => post s n [] (.epCredit (nodeWafer n) i w.lot)
        | none => s
      else releaseLot s w.lot

/-! ### Taking and sending words (R186) -/

/-- R133, R252: a word of a channel is not the executing instruction's to take: a blocked context, or the matrix unit, comes
first. -/
def takenFirst (s : State) (ch : Nat) : Bool :=
  behind s (.chan ch) .waitRecv || behindUnit s (.chan ch)

/-- R186: `chrecv` waits for a word in the queue and takes it. -/
def tryChrecv (s : State) (vd : VReg) (sd : SReg) (ch : Nat) : Try :=
  match s.cn.chan ch with
  | none => .trap (ePerm (BitVec.ofNat 64 ch))
  | some x =>
    match x.visible with
    | [] => .wait .waitRecv ch
    | w :: _ =>
      if takenFirst s ch then .wait .waitRecv ch
      else if !validPair w.val then .trap ⟨0x06, 0⟩
      else .done (((popChannel s s.cur.core ch).setV vd w.val).setS sd (infoWord (some w) 0))

/-- R186: `chrecv`. -/
def execChrecv (vd : VReg) (sd : SReg) (ch : Fin 32) (s : State) : Out :=
  .next (checked s (.chrecv vd sd ch) (fun s => chanFault s ch) fun s =>
    orBlock s (.chrecv vd sd ch) (tryChrecv s vd sd ch))

/-- The words of a channel that an instruction sees. -/
def seen (s : State) (ch : Nat) : List ChWord := ((s.cn.chan ch).map Chan.visible).getD []

/-- R186: `chpeek` copies the head word, which stays. -/
def execChpeek (vd : VReg) (sd : SReg) (ch : Fin 32) (s : State) : Out :=
  .next (checked s (.chpeek vd sd ch)
    (fun s => match chanFault s ch with
      | some t => some t
      | none => match (seen s ch).head? with
        | some w => if validPair w.val then none else some ⟨0x06, 0⟩
        | none => none)
    fun s =>
      let info := infoWord (seen s ch).head? (seen s ch).length
      match (seen s ch).head? with
      | some w => advance ((s.setV vd w.val).setS sd info)
      | none => advance (s.setS sd info))

/-- R186: `chtag`. -/
def execChtag (sd : SReg) (ch : Fin 32) (s : State) : Out :=
  .next (checked s (.chtag sd ch) (fun s => chanFault s ch) fun s =>
    advance (s.setS sd (infoWord (seen s ch).head? (seen s ch).length)))

/-- R252, R260: the matrix unit has taken a word of a channel for an `mx.ldwc` or an `mx.run`, and is served ahead of
every other taker until that ends. -/
def takenByUnit (s : State) (ch : Nat) : Bool :=
  s.cn.mx.queue.any fun o => match o with
    | .ldwc _ c _ _ _ _ taken => c == ch && !taken.isEmpty
    | .run _ cfg _ _ _ q _ _ _ _ _ _ => bits cfg.toNat 0 5 == ch && 0 < q
    | _ => false

/-- R133, R186: `chskip` removes the head word if there is one. A channel whose word a blocked context or the matrix unit
takes first is empty to it. DEDUCED (log 23). -/
def execChskip (sd : SReg) (ch : Fin 32) (s : State) : Out :=
  .next (checked s (.chskip sd ch) (fun s => chanFault s ch) fun s =>
    let w := if takenByUnit s ch || takenFirst s ch then none else (seen s ch).head?
    let s' := if w.isSome then popChannel s s.cur.core ch else s
    advance (s'.setS sd (infoWord w 0)))

/-- R184: the route entry of a router steps by one set. -/
def stepRoute (s : State) (n : Node) (stream : Nat) : State :=
  s.modCore n fun c =>
    match AMap.find c.comm.routes stream with
    | some r => { c with comm := { c.comm with routes := AMap.put c.comm.routes stream { r with cur := nextSet r } } }
    | none => c

/-- A route entry after a number of markers. DEDUCED (log 26). -/
def Route.after (r : Route) : Nat → Route
  | 0 => r
  | k + 1 => Route.after { r with cur := nextSet r } k

/-- R186: the set under which the next word that a core sends on a stream leaves: markers that it has sent and that
its router has still to pass count. DEDUCED (log 26). -/
def sendSet (s : State) (n : Node) (stream : Nat) : Option (BitVec 16) :=
  (AMap.find (s.core n).comm.routes stream).map fun r =>
    let k := (s.net.filter fun m => match m.kind with
      | .word a 4 w => a == n && w.stream == stream && w.mark
      | _ => false).length
    let r := r.after k
    vget r.sets 0 r.cur

/-- R186, R369: a stream whose current set lacks the local port in IN. -/
def sendFault (s : State) (stream : Nat) : Option TrapOf :=
  match sendSet s s.cur.core stream with
  | some set => if set.getLsbD 15 && set.getLsbD 4 then none else some (ePerm (BitVec.ofNat 64 stream))
  | none => some (ePerm (BitVec.ofNat 64 stream))

/-- R69: the egress endpoint whose stream a core sends: wafer, slot and number; of two, the lowest-numbered.
DESIGN CHOICE (log 99). -/
def egressOf (s : State) (n : Node) (stream : Nat) : Option (Nat × Nat × Nat) :=
  (slotOf s n).bind fun i =>
    ((indexed ((s.module (nodeWafer n)).slot i).eps 0).find? fun p =>
      p.2.egress && p.2.core == n && p.2.stream == stream).map fun p => (nodeWafer n, i, p.1)

/-- R185: the credits of a stream of a core. -/
def creditsOf (s : State) (n : Node) (stream : Nat) : Nat := (AMap.find (s.core n).comm.credits stream).getD 0
/-- R185: set the credits of a stream. -/
def setCredits (s : State) (n : Node) (stream k : Nat) : State :=
  s.modCore n fun c => { c with comm := { c.comm with credits := AMap.put c.comm.credits stream k } }

/-- R332: a word that the core has sent on a stream with `chsend`. DEDUCED (log 44). -/
def countSent (s : State) (n : Node) (stream : Nat) : State :=
  s.modCore n fun c => { c with comm := { c.comm with
    sent := AMap.put c.comm.sent stream ((AMap.find c.comm.sent stream).getD 0 + 1) } }

/-- R185: a word on a stream spends a credit, which the lot of its name holds until the word is gone. -/
def spendCredit (s : State) (n : Node) (stream : Nat) : State :=
  setCredits { s with lots := s.lots ++ [(s.nextId, n, stream, 1)] } n stream (creditsOf s n stream - 1)

/-- R69, R186: a word leaves a core on a stream under the next name: egress words go to the bridge, a marker there only
steps the entry, and every other word goes to the core's router. DEDUCED (log 30). -/
def sendWord (s : State) (n : Node) (stream : Nat) (w : ChWord) : State :=
  let w := { w with lot := s.nextId }
  match egressOf s n stream with
  | some (wf, i, e) =>
    if w.mark then stepRoute s n stream
    else post (named (setCredits s n stream (creditsOf s n stream - 1))) n [] (.egress wf i e w)
  | none =>
    let s := if isChunkStream s n stream then s else spendCredit s n stream
    post (named s) n [] (.word n 4 w)

/-- R185, R300: a core may send a word on a stream now. DEDUCED (log 29). DEDUCED (log 30). -/
def maySend (s : State) (n : Node) (stream : Nat) : Bool := isChunkStream s n stream || 0 < creditsOf s n stream

/-- R186: a send waits for a credit. -/
def trySend (s : State) (stream : Nat) (w : ChWord) : Try :=
  if maySend s s.cur.core stream then
    .done (noteWord (sendWord (if w.mark then s else countSent s s.cur.core stream) s.cur.core stream w) s.cur.core
      s.cur.ctx s.nextId)
  else .wait .waitSend stream

/-- R186: the word of a `chsend`. -/
def sendOf (s : State) (v : VVal) (a : Word) (stream : Nat) : ChWord :=
  { val := v, htag := a.setWidth 8, usr := a.getLsbD 8, mark := false, src := s.cur.core, stream := stream }
/-- R186: the word of a `chmark`. -/
def markOf (s : State) (a : Word) (stream : Nat) : ChWord :=
  { val := {}, htag := a.setWidth 8, usr := a.getLsbD 8, mark := true, src := s.cur.core, stream := stream }

/-- R186: `chsend` when it is tried. -/
def tryChsend (g : Regs) (s : State) (va : VReg) (sa : SReg) (st : Fin 64) : Try :=
  trySend s st (sendOf s (g.vreg va) (g.sreg sa) st)
/-- R186: `chmark` when it is tried. -/
def tryChmark (g : Regs) (s : State) (sa : SReg) (st : Fin 64) : Try := trySend s st (markOf s (g.sreg sa) st)

/-- R186: `chsend`. -/
def execChsend (va : VReg) (sa : SReg) (st : Fin 64) (s : State) : Out :=
  .next (checked s (.chsend va sa st) (fun s => sendFault s st) fun s =>
    orBlock s (.chsend va sa st) (tryChsend s.cc.regs s va sa st))
/-- R186: `chmark`. -/
def execChmark (sa : SReg) (st : Fin 64) (s : State) : Out :=
  .next (checked s (.chmark sa st) (fun s => sendFault s st) fun s =>
    orBlock s (.chmark sa st) (tryChmark s.cc.regs s sa st))

/-! ### Routers (R184, R300, R312) -/

/-- R184: a word that finds no route or no channel is discarded and machine-checks its region. -/
def discardWord (s : State) (n : Node) (w : ChWord) (src : Nat) : State :=
  machineCheckOf (releaseLot s w.lot) (senderDomains s w) n src w.stream

/-- R312: the conditions under which a chunk word crosses into the adjacent core's region. -/
def mayCross (s : State) (n m : Node) (d : Nat) (stream : Nat) : Bool :=
  match slotOf s n, slotOf s m with
  | some i, some j =>
    i == j ||
    (domainOf s n == domainOf s m
      && ((s.module (nodeWafer n)).slot i).owner == ((s.module (nodeWafer m)).slot j).owner
      && (match AMap.find (s.core m).comm.routes stream with
          | some r => (vget r.sets 0 r.cur).getLsbD 15 && (vget r.sets 0 r.cur).getLsbD (oppositeDir d)
          | none => false))
  | _, _ => false

/-- R184: a word leaves a router by one output port (0–3 a direction, 4 the local core), on the virtual channel of its
set (R20). DEDUCED (log 27). -/
def forward (s : State) (n : Node) (w : ChWord) (vc out : Nat) : State :=
  if out = 4 then
    match (if forDealer s n w then attachedDealer n w.stream else none) with
    | some d => post s n [] (.chunk d w)
    | none =>
      match channelFor s n w with
      | some (ch, x) => s.modCore n fun c => c.setChan ch { x with queue := x.queue ++ [{ w with vc := 0 }] }
      | none => discardWord s n w 3
  else
    match meshNext n out with
    | none => discardWord s n w (if onChunkStream s n w then 5 else 3)
    | some m =>
      if onChunkStream s n w && !mayCross s n m out w.stream then discardWord s n w 5
      else post s n [] (.word m (oppositeDir out) { w with vc := vc })

/-- R184: the channel that a word needs has no room, or an earlier word has still to enter it, so the word waits in the
link. DEDUCED (log 27). DEDUCED (log 52). -/
def mustWait (s : State) (n : Node) (w : ChWord) (set : BitVec 16) : Bool :=
  set.getLsbD 9 && !(forDealer s n w && (attachedDealer n w.stream).isSome)
    && (match channelFor s n w with
        | some (_, x) => 16 ≤ x.queue.length || !x.spill.isEmpty || overtakes s n w
        | none => false)

/-- R312: a word at a router's mesh port has crossed into the router's region. -/
def crossedIn (s : State) (n : Node) (port : Nat) (w : ChWord) : Bool :=
  onChunkStream s n w && port < 4 && (match meshNext n port with
    | some m => slotOf s m != slotOf s n
    | none => false)

/-- R184, R312: a word that a router takes under no set is discarded; one that has crossed into its region fails its
crossing. -/
def refuseWord (s : State) (n : Node) (port : Nat) (w : ChWord) : State :=
  discardWord s n w (if crossedIn s n port w then 5 else 3)

/-- R184: a word at a router is forwarded under the current set; a marker then steps the entry. -/
def execRouterWordArrive (m : Nat) (s : State) : Out :=
  match arriving s m with
  | some { kind := .word n port w, .. } =>
    match AMap.find (s.core n).comm.routes w.stream with
    | none => .next (refuseWord (unpost s m) n port w)
    | some r =>
      let set := vget r.sets 0 r.cur
      if !set.getLsbD 15 || !set.getLsbD port then .next (refuseWord (unpost s m) n port w)
      else if mustWait s n w set then .next s
      else
        let outs := outPorts set
        let s := unpost s m
        let s := if outs.isEmpty then releaseLot s w.lot else splitLot s w.lot outs.length
        let s := outs.foldl (fun s o => forward s n w (bits set.toNat 10 2) o) s
        .next (if w.mark then stepRoute s n w.stream else s)
  | _ => .next s

/-- R185: a credit comes back to a stream of a core, or to an ingress endpoint. -/
def execCreditReturn (m : Nat) (s : State) : Out :=
  match arriving s m with
  | some { kind := .credit n stream, .. } => .next (setCredits (unpost s m) n stream (creditsOf s n stream + 1))
  | some { kind := .epCredit w i e, .. } =>
    .next (modEndpoint (unpost s m) w i e fun x => { x with credits := x.credits + 1 })
  | _ => .next s

/-! ### Host endpoints (R69, R73) -/

/-- R73: bytes that a port's bridge holds, in the hold or in the replay buffer. -/
def heldBytes (s : State) (w port : Nat) (egress : Bool) : Nat :=
  ((s.module w).slots.toList.filter (fun t => t.owner == port)).foldl
    (fun a t => t.eps.foldl (fun a x => if x.egress = egress then a + 128 * x.held.length else a) a) 0

/-- R73: the size of the egress hold and of the ingress replay buffer. -/
def holdSize : Nat := 512 * 2 ^ 20

/-- R73: the bridge reads the next 128 bytes from the host while it may. -/
def readIngress (s : State) (w slot e : Nat) (x : Endpoint) : State :=
  let port := ((s.module w).slot slot).owner
  if x.pos + 128 ≤ x.limit ∧ heldBytes s w port false + 128 ≤ holdSize then
    let v := vdataOf (hostRead s w port (x.ptr + x.pos % x.extent) 128)
    modEndpoint s w slot e fun x => { x with pos := x.pos + 128, held := x.held ++ [v] }
  else s

/-- R69: the bridge sends the next word of the replay buffer into the mesh while it has a credit and no seal
pauses it. DEDUCED (log 31). -/
def sendIngress (s : State) (w slot e : Nat) : State :=
  match endpoint s w slot e with
  | none => s
  | some x =>
    let paused := match slotDomain s w slot with
      | some d => (s.domain d).ingressPause || (s.domain d).frozen || (s.domain d).rolling
      | none => false
    if x.sendPos < x.pos ∧ 0 < x.credits ∧ !paused then
      let v := x.held.getD ((x.sendPos - x.sealedUpTo) / 128) 0
      let b := owningBridge s w slot
      let s := modEndpoint s w slot e fun x => { x with sendPos := x.sendPos + 128, credits := x.credits - 1 }
      post s b [] (.ingress w slot e x.sendPos { val := { data := v }, src := b, stream := x.stream, lot := e })
    else s

/-- R73: the bridge serves an ingress endpoint: it reads from the host, and sends what it may. -/
def execIngressRead (w : Fin 16) (slot : Fin 32) (ep : Fin 64) (s : State) : Out :=
  match endpoint s w slot ep with
  | none => .next s
  | some x =>
    if x.egress || !x.bound || ((s.module w).slot slot).orphaned && x.sendPos = x.pos then .next s
    else
      let s := if ((s.module w).slot slot).orphaned then s else readIngress s w slot ep x
      .next (sendIngress s w slot ep)

/-- R69, R184: an ingress word enters its channel. -/
def execIngressWordArrive (m : Nat) (s : State) : Out :=
  match arriving s m with
  | some { kind := .ingress w slot e pos wd, .. } =>
    match endpoint s w slot e with
    | none => .next (unpost s m)
    | some x =>
      match (s.core x.core).chan x.chan with
      | none => .next (unpost s m)
      | some ch =>
        if 16 ≤ ch.queue.length ∨ !ch.spill.isEmpty then .next s
        else
          let s := (unpost s m).modCore x.core fun c => c.setChan x.chan { ch with queue := ch.queue ++ [wd] }
          .next (modEndpoint s w slot e fun x => { x with delivered := pos + 128 })
  | _ => .next s

/-- R73: the hold of a slot's port has no room for another word. -/
def holdFull (s : State) (w slot : Nat) : Bool :=
  holdSize < heldBytes s w ((s.module w).slot slot).owner true + 128

/-- R73, R322: a full hold asks for a seal of the domain of a slot's region. -/
def askIfFull (s : State) (w slot : Nat) : State :=
  match slotDomain s w slot with
  | some d => if holdFull s w slot && !(s.domain d).req then requestSeal s d else s
  | none => s

/-- R73: an egress word enters the hold and its credit returns; the word that fills the hold asks for a seal. A word that
finds the hold full waits. -/
def execEgressWordAccept (m : Nat) (s : State) : Out :=
  match arriving s m with
  | some { kind := .egress w slot e wd, .. } =>
    match endpoint s w slot e with
    | none => .next (unpost s m)
    | some ep =>
      if holdFull s w slot then .next (askIfFull s w slot)
      else
        let s := modEndpoint (unpost s m) w slot e fun x => { x with held := x.held ++ [wd.val.data] }
        .next (askIfFull (post s (owningBridge s w slot) [] (.credit ep.core ep.stream)) w slot)
  | _ => .next s

/-! ### Neighbour ports (R188, R189) -/

/-- R189, R258: the neighbour's register in a direction is full, or a word is on its way to it. -/
def nbBusy (s : State) (n : Node) (d : Nat) : Bool :=
  match neighbour s n d with
  | some m => (vget (s.core m).comm.nb none (oppositeDir d)).isSome
      || s.net.any fun x => match x.kind with
        | .nbWord c p _ => c == m && p == oppositeDir d
        | _ => false
  | none => false

/-- R189, R369: a direction without a link. -/
def linkFault (s : State) (d : Nat) : Option TrapOf :=
  if (neighbour s s.cur.core d).isSome then none else some (ePerm (BitVec.ofNat 64 d))

/-- R189: a word goes to the neighbour's register. -/
def sendNb (s : State) (n : Node) (d : Nat) (v : VVal) : State :=
  match neighbour s n d with
  | some m => post s n [] (.nbWord m (oppositeDir d) v)
  | none => s

/-- R179: a neighbour word that a context sends. -/
def putNb (s : State) (d : Nat) (v : VVal) : State := noteWord (sendNb s s.cur.core d v) s.cur.core s.cur.ctx s.nextId

/-- R189: an incoming register is emptied. -/
def clearNb (s : State) (n : Node) (d : Nat) : State :=
  s.modCore n fun c => { c with comm := { c.comm with nb := vset c.comm.nb d none } }

/-- R189: `nb.put` waits for the neighbour's register to be empty. -/
def tryNbPut (g : Regs) (s : State) (va : VReg) (d : Dir) : Try :=
  if nbBusy s s.cur.core d.code then .wait .waitNb 0 else .done (putNb s d.code (g.vreg va))

/-- R189: `nb.get` waits for a word in the incoming register and takes it. -/
def tryNbGet (s : State) (vd : VReg) (d : Dir) : Try :=
  match vget s.cn.comm.nb none d.code with
  | none => .wait .waitNb 0
  | some v =>
    if behind s (.nb d.code) .waitNb || behindUnit s (.nb d.code) then .wait .waitNb 0
    else if !validPair v then .trap ⟨0x06, 0⟩
    else .done ((clearNb s s.cur.core d.code).setV vd v)

/-- R189: `nb.put`. -/
def execNbPut (va : VReg) (d : Dir) (s : State) : Out :=
  .next (checked s (.nbPut va d) (fun s => linkFault s d.code) fun s =>
    orBlock s (.nbPut va d) (tryNbPut s.cc.regs s va d))
/-- R189: `nb.get`. -/
def execNbGet (vd : VReg) (d : Dir) (s : State) : Out :=
  .next (checked s (.nbGet vd d) (fun s => linkFault s d.code) fun s =>
    orBlock s (.nbGet vd d) (tryNbGet s vd d))
/-- R189: `nb.tst`. -/
def execNbTst (sd : SReg) (d : Dir) (s : State) : Out :=
  .next (guarded s (.nbTst sd d) fun s =>
    let bit0 := if (vget s.cn.comm.nb none d.code).isSome then 1 else 0
    let bit1 := if nbBusy s s.cur.core d.code then 2 else 0
    let bit2 := if (neighbour s s.cur.core d.code).isNone then 4 else 0
    advance (s.setS sd (BitVec.ofNat 64 (bit0 + bit1 + bit2))))

/-- R189: a neighbour word lands in the incoming register. -/
def execNbWordLand (m : Nat) (s : State) : Out :=
  match arriving s m with
  | some { kind := .nbWord n d v, .. } =>
    .next (if (vget (s.core n).comm.nb none d).isSome then s
      else (unpost s m).modCore n fun c => { c with comm := { c.comm with nb := vset c.comm.nb d (some v) } })
  | _ => .next s

end Sys2Proof.Machine
end

