-- ==== Sys2Proof/Machine/Sync.lean ====
section
/-! DEFINITION. Trigger arming, flags, counters and barriers (R268–R285), and the firing of triggers and
pseudo-triggers (R120–R130). -/

namespace Sys2Proof.Machine

/-! ### Arming, flags, counters (R271–R277) -/

/-- R277: arming an entry whose HPC is 0, the lowest such entry. -/
def armFault (s : State) (mask : BitVec 32) : Option TrapOf :=
  ((List.range 32).find? fun e => mask.getLsbD e && (vget s.cn.trg.entries {} e).hpc == 0).map fun e =>
    ePerm (BitVec.ofNat 64 e)

/-- R277: set or clear the armed bit of the entries of a mask. -/
def Core.armEntries (c : Core) (mask : BitVec 32) (on : Bool) : Core :=
  let f (e : Nat) (x : TrigEntry) : TrigEntry :=
    if mask.getLsbD e then { x with tctl := if on then x.tctl ||| 1 else x.tctl &&& 0xFE } else x
  { c with trg := { c.trg with entries := c.trg.entries.mapIdx f } }

/-- R277: `trg.arm`. -/
def execTrgArm (x : RegOrImm) (s : State) : Out :=
  .next (checked s (.trgArm x) (fun s => armFault s (s.operandEntries x)) fun s =>
    advance (s.modCn fun c => c.armEntries (s.operandEntries x) true))
/-- R277: `trg.off` is never refused. -/
def execTrgOff (x : RegOrImm) (s : State) : Out :=
  .next (guarded s (.trgOff x) fun s => advance (s.modCn fun c => c.armEntries (s.operandEntries x) false))

/-- R276: set or clear flags of a core. -/
def Core.setFlags (c : Core) (m : BitVec 16) (on : Bool) : Core :=
  { c with sync := { c.sync with flags := if on then c.sync.flags ||| m else c.sync.flags &&& ~~~m } }

/-- R276: `flg.set`. -/
def execFlgSet (x : RegOrImm) (s : State) : Out :=
  .next (guarded s (.flgSet x) fun s => advance (s.modCn fun c => c.setFlags (s.operand16 x) true))
/-- R276: `flg.clr`. -/
def execFlgClr (x : RegOrImm) (s : State) : Out :=
  .next (guarded s (.flgClr x) fun s => advance (s.modCn fun c => c.setFlags (s.operand16 x) false))

/-- R271: the value of a counter of the executing core. -/
def counter (s : State) (k : Fin 64) : BitVec 32 := s.cn.sync.k[k]

/-- R272: `cnt.add`. -/
def execCntAdd (k : Fin 64) (x : RegOrImm) (s : State) : Out :=
  .next (guarded s (.cntAdd k x) fun s => advance (addCounter s s.cur.core k (s.operand32 x)))
/-- R272: `cnt.set`. -/
def execCntSet (k : Fin 64) (x : RegOrImm) (s : State) : Out :=
  .next (guarded s (.cntSet k x) fun s =>
    advance (s.modCn fun c => { c with sync := { c.sync with k := c.sync.k.set k (s.operand32 x) } }))
/-- R274: `cnt.rd`. -/
def execCntRd (sd : SReg) (k : Fin 64) (s : State) : Out :=
  .next (guarded s (.cntRd sd k) fun s => advance (s.setS sd ((counter s k).setWidth 64)))

/-- R273: the condition of `cnt.wait`. -/
def cntReached (eq : Bool) (k v : BitVec 32) : Bool := if eq then k == v else !(k - v).getLsbD 31

/-- R273: the operand of `cnt.wait` as it was read at issue. -/
def Regs.operand32 (g : Regs) : RegOrImm → BitVec 32
  | .imm v => v.signExtend 32
  | .reg sa => (g.sreg sa).setWidth 32

/-- R273: `cnt.wait` when it is tried. -/
def tryCntWait (g : Regs) (s : State) (sd : SReg) (k : Fin 64) (x : RegOrImm) (eq : Bool) : Try :=
  if cntReached eq (counter s k) (g.operand32 x) then .done (s.setS sd ((counter s k).setWidth 64))
  else .wait .waitCnt 0

/-- R273: `cnt.wait`. -/
def execCntWait (sd : SReg) (k : Fin 64) (x : RegOrImm) (eq : Bool) (s : State) : Out :=
  .next (guarded s (.cntWait sd k x eq) fun s =>
    orBlock s (.cntWait sd k x eq) (tryCntWait s.cc.regs s sd k x eq))

/-! ### Barriers at the core (R278–R280) -/

/-- R22, R284: the barrier's tree in a region is rooted at the owning bridge. -/
def isWide (s : State) (w slot b : Nat) : Bool :=
  (slotHubs s w slot).any fun h => (vget (s.hub h).bar {} b).parent == 5

/-- R279, R280, R284: an unused barrier, or a wide one that the region has not joined. -/
def barFault (s : State) (b : Fin 16) (arrive : Bool) : Option TrapOf :=
  let bad := some (ePerm (BitVec.ofNat 64 b.val))
  match slotOf s s.cur.core with
  | none => bad
  | some i =>
    let t := (s.module (nodeWafer s.cur.core)).slot i
    if !((t.image.map fun (m : ImageInfo) => m.barUsed).getD 0).getLsbD b then bad
    else if arrive && isWide s (nodeWafer s.cur.core) i b && !t.joined.getLsbD b then bad
    else if arrive && (vget s.cn.sync.bar {} b).pend = 2 then some ⟨0x09, BitVec.ofNat 64 b.val⟩
    else none

/-- R282: a home lies within the scope of a barrier's tree. -/
def inTreeScope (s : State) (b : Nat) (home : Node) : Bool :=
  match slotOf s s.cur.core with
  | none => false
  | some i =>
    let w := nodeWafer s.cur.core
    let regions := if isWide s w i b then
        match slotDomain s w i with
        | some d => (vget (s.domain d).wide {} b).members
        | none => []
      else [(w, i)]
    (regionsOf s home).any regions.contains

/-- R279: the phase that the core's next arrival is for. -/
def nextPhase (x : BarCore) : BitVec 2 := x.rel + BitVec.ofNat 2 x.pend

/-- R278: change REL and PEND of a barrier of a core. -/
def Core.setBar (c : Core) (b : Nat) (x : BarCore) : Core :=
  { c with sync := { c.sync with bar := vset c.sync.bar b x } }

/-- R279: `bar.arr` arrives and sends its token; the token waits for the context's earlier accesses in scope. -/
def arrive (s : State) (sd : SReg) (b : Fin 16) (cp : Bool) : State :=
  let x := vget s.cn.sync.bar {} b
  let p := nextPhase x
  let after := ((myTracks s).filter fun t => inTreeScope s b (homeOf s (nodeWafer s.cur.core) t.ga)).map (·.id)
    ++ wordsOut s s.cur.core s.cur.ctx ++ (myLater s).map (·.id)
  let s := (s.setS sd (p.setWidth 64)).modCn fun c => c.setBar b { x with pend := x.pend + 1, who := x.who ++ [(s.cur.ctx, s.nextId)] }
  post s s.cur.core after (.token (hubOf s.cur.core) b p cp)

/-- R279: `bar.arr`. -/
def execBarArr (sd : SReg) (b : Fin 16) (cp : Bool) (s : State) : Out :=
  .next (checked s (.barArr sd b cp) (fun s => barFault s b true) fun s => advance (arrive s sd b cp))

/-- R280: the phase has been released. -/
def phaseReleased (x : BarCore) (p : BitVec 2) : Bool := p == x.rel - 1 || p == x.rel - 2

/-- R280: `bar.wait` when it is tried. -/
def tryBarWait (g : Regs) (s : State) (sa : SReg) (b : Fin 16) : Try :=
  if phaseReleased (vget s.cn.sync.bar {} b) ((g.sreg sa).setWidth 2) then .done s else .wait .waitBar 0

/-- R280: `bar.wait`. -/
def execBarWait (sa : SReg) (b : Fin 16) (s : State) : Out :=
  .next (checked s (.barWait sa b) (fun s => barFault s b false) fun s =>
    orBlock s (.barWait sa b) (tryBarWait s.cc.regs s sa b))

/-! ### Barrier trees (R281–R284) -/

/-- The hub one hop away from a hub. -/
def hubNext (h : Node) (d : Nat) : Node :=
  let c := clusterOf h
  mkNode (nodeWafer h) (0xF000 + match d with
    | 0 => c - 32
    | 1 => c + 1
    | 2 => c + 32
    | _ => c - 1)

/-- A barrier node of a hub. -/
def State.barNode (s : State) (h : Node) (b : Nat) : BarNode := vget (s.hub h).bar {} b
/-- Change a barrier node. -/
def setBarNode (s : State) (h : Node) (b : Nat) (x : BarNode) : State :=
  s.modHub h fun k => { k with bar := vset k.bar b x }

/-- R281: some core below a node arrives at the barrier; `fuel` bounds the depth of the tree. -/
def arrives (s : State) (b : Nat) : Nat → Node → Bool
  | 0, _ => false
  | fuel + 1, h =>
    (s.barNode h b).localCount != 0
      || (List.range 4).any fun d => (s.barNode h b).child.getLsbD d && arrives s b fuel (hubNext h d)

/-- R281: the node's current phase is complete: its own arrivals are there, and every child below which a core arrives
has reported. A child below which none does completes every phase by itself. DEDUCED (log 50). -/
def nodeComplete (s : State) (h : Node) (b : Nat) : Bool :=
  let x := s.barNode h b
  x.c0 == x.localCount.toNat && (List.range 4).all fun d =>
    !x.child.getLsbD d || x.rep0.getLsbD d || !arrives s b Config.clusters (hubNext h d)

/-- R283: a matrix operation that writes accumulator rows, or sends a word. -/
def MxOp.writes : MxOp → Bool
  | .clr .. | .mac .. | .run .. => true
  | .rd _ c _ _ _ => c
  | .ldw .. | .ldwc .. | .scw .. | .cfg => false

/-- R262, R283: the count that a matrix unit reaches once the writing operations in its queue have completed. -/
def Core.mxTarget (c : Core) : Nat :=
  c.mx.done + ((c.mx.queue.reverse.dropWhile fun o => !o.writes).length)

/-- R283: the matrix units of regions whose writes a release awaits, each with its count. -/
def mxTargets (s : State) (regions : List (Nat × Nat)) : List (Nat × Nat) :=
  (regions.flatMap fun r => slotCores s r.1 r.2).filterMap fun n =>
    if (s.core n).mx.done < (s.core n).mxTarget then some (n, (s.core n).mxTarget) else none

/-- R283: the release that was posted last awaits the matrix operations of a list. -/
def withOps (s : State) (ops : List (Nat × Nat)) : State :=
  { s with net := s.net.dropLast ++ s.net.getLast?.toList.map fun m => { m with ops := ops } }

/-- R281: a complete node reports upward; a root sends itself the release. DEDUCED (log 50). -/
def reportUp (s : State) (h : Node) (b : Nat) : State :=
  let x := s.barNode h b
  if !nodeComplete s h b then s
  else
    match x.parent.toNat with
    | 0 => withOps (post s h [] (.relHub h b x.cur x.cp0)) (if x.cp0 then mxTargets s (regionsOf s h) else [])
    | 5 =>
      match slotOf s h with
      | some i =>
        match slotDomain s (nodeWafer h) i with
        | some d => post s h [] (.wide d b (nodeWafer h) i x.cur x.cp0)
        | none => s
      | none => s
    | p => post s h [] (.report (hubNext h (p - 1)) (oppositeDir (p - 1)) b x.cur x.cp0)

/-- R281: a tree protocol fault. -/
def treeFault (s : State) (h : Node) (b : Nat) : State := machineCheckAt s h 4 b

/-- R281: an arrival for a phase reaches a node. -/
def countArrival (s : State) (h : Node) (b : Nat) (p : BitVec 2) (cp : Bool) : State :=
  let x := s.barNode h b
  if p = x.cur then
    if x.c0 + 1 > x.localCount.toNat then treeFault s h b
    else reportUp (setBarNode s h b { x with c0 := x.c0 + 1, cp0 := x.cp0 || cp }) h b
  else if p = x.cur + 1 then
    if x.c1 + 1 > x.localCount.toNat then treeFault s h b
    else setBarNode s h b { x with c1 := x.c1 + 1, cp1 := x.cp1 || cp }
  else treeFault s h b

/-- R281: a child's report of a phase reaches a node. -/
def countReport (s : State) (h : Node) (child b : Nat) (p : BitVec 2) (cp : Bool) : State :=
  let x := s.barNode h b
  let bit := BitVec.ofNat 4 (2 ^ child)
  if p = x.cur then reportUp (setBarNode s h b { x with rep0 := x.rep0 ||| bit, cp0 := x.cp0 || cp }) h b
  else if p = x.cur + 1 then setBarNode s h b { x with rep1 := x.rep1 ||| bit, cp1 := x.cp1 || cp }
  else treeFault s h b

/-- R279, R281: an arrival token reaches its hub. -/
def execBarrierArrivalToken (m : Nat) (s : State) : Out :=
  match arriving s m with
  | some { kind := .token h b p cp, .. } => .next (countArrival (unpost s m) h b p cp)
  | _ => .next s

/-- R281: a child's report reaches its parent. -/
def execBarrierChildReport (m : Nat) (s : State) : Out :=
  match arriving s m with
  | some { kind := .report h c b p cp, .. } => .next (countReport (unpost s m) h c b p cp)
  | _ => .next s

/-- A message that carries a write. -/
def carriesWrite : MsgKind → Bool
  | .write .. | .atomic .. | .piece .. | .dkPiece .. | .ingress .. | .egress .. | .word .. | .nbWord .. | .mailbox .. | .arm ..
  | .chunk .. | .signal .. => true
  | _ => false

/-- R162: the context that issued what a message carries, where one did. -/
def Msg.issuer (s : State) (m : Msg) : Option Nat :=
  match m.kind with
  | .write o .. | .atomic o .. | .piece o .. => some o.ctx
  | _ => m.wordName.bind fun id => ((s.core m.src).comm.out.find? (·.1 == id)).map (·.2.val)

/-- R197: the name under which the write that a message carries was issued. -/
def Msg.writeName (m : Msg) : Nat :=
  match m.kind with
  | .word _ _ w | .chunk _ w | .egress _ _ _ w => w.lot
  | _ => m.id

/-- R197, R283: a context of a core has arrived for the phase of a barrier, and issued what bears a name after that. -/
def afterArrival (s : State) (b : Nat) (n : Node) (x name : Nat) : Bool :=
  (vget (s.core n).sync.bar {} b).who.head?.any fun a => a.1.val == x && a.2 ≤ name

/-- R197, R283: every write that an agent of the regions issued before the phase of a barrier completed has performed:
what bears a name below `bound`, and the matrix operations of `ops`; of a context that arrived, what it issued before its
arrival. DEDUCED (log 50). -/
def quiet (s : State) (regions : List (Nat × Nat)) (b bound : Nat) (ops : List (Nat × Nat)) : Bool :=
  (ops.all fun p => p.2 ≤ (s.core p.1).mx.done)
  && (regions.all fun r =>
    ((slotCores s r.1 r.2).all fun n =>
      (s.core n).comm.copies.all (fun c => bound ≤ c.id)
        && (s.core n).later.all fun l => !l.isStore || bound ≤ l.id || afterArrival s b n l.ctx.val l.id)
    && (slotHubs s r.1 r.2).all fun h => (s.hub h).dealer.engine.all fun o => bound ≤ o.id)
  && (s.bridges.all fun p => !(regionsOf s p.1).any regions.contains || p.2.dealer.engine.all fun o => bound ≤ o.id)
  && !(s.net.any fun m => m.writeName < bound && carriesWrite m.kind && (regionsOf s m.src).any regions.contains
      && !((m.issuer s).any fun x => afterArrival s b m.src x m.writeName))

/-- R103: a core's instruction cache is empty, and no earlier contents of a code line remain. -/
def Core.emptied (c : Core) : Core := { c with mem := { c.mem with lineHist := [], icache := [] } }

/-- R103, R197: a configuration-phase boundary empties the instruction caches of regions. -/
def emptyCaches (s : State) (regions : List (Nat × Nat)) : State :=
  regions.foldl (fun s r => (slotCores s r.1 r.2).foldl (fun s n => s.modCore n Core.emptied) s) s

/-- R281: the node is the root of its tree in the region. -/
def isTreeRoot (s : State) (h : Node) (b : Nat) : Bool :=
  (s.barNode h b).parent == 0 || (s.barNode h b).parent == 5

/-- R281: no core arrives at a barrier in the region of its root, so that each phase completes as it begins.
DEDUCED (log 50). -/
def silentRoot (s : State) (h : Node) (b : Nat) : Bool := isTreeRoot s h b && !arrives s b Config.clusters h

/-- R281: a release reaches a node, which passes it to its children and its cores. -/
def releaseNode (s : State) (h : Node) (b : Nat) (p : BitVec 2) (cp : Bool) : State :=
  let x := s.barNode h b
  let s := ((List.range 4).filter fun d => x.child.getLsbD d).foldl
    (fun s d => post s h [] (.relHub (hubNext h d) b p cp)) s
  let s := (clusterCores (nodeWafer h) (clusterOf h)).foldl (fun s c => post s h [] (.relCore c b)) s
  let s := setBarNode s h b
    { x with cur := x.cur + 1, c0 := x.c1, c1 := 0, rep0 := x.rep1, rep1 := 0, cp0 := x.cp1, cp1 := false }
  if x.c1 = 0 ∧ x.rep1 = 0 ∧ !silentRoot s h b then s else reportUp s h b

/-- R281, R283: a release reaches a hub, or a core. A phase marked CP leaves the root only when the writes of R283
have performed, and it empties the instruction caches of the region. -/
def execBarrierReleaseArrive (m : Nat) (s : State) : Out :=
  match arriving s m with
  | some { kind := .relHub h b p cp, ops := ops, .. } =>
    if cp && (s.barNode h b).parent == 0 && !quiet s (regionsOf s h) b m ops then .next s
    else
      let s := unpost s m
      .next (releaseNode (if cp && isTreeRoot s h b then emptyCaches s (regionsOf s h) else s) h b p cp)
  | some { kind := .relCore n b, .. } =>
    .next ((unpost s m).modCore n fun c =>
      let x := vget c.sync.bar {} b
      c.setBar b { rel := x.rel + 1, pend := x.pend - 1, who := x.who.drop 1 })
  | _ => .next s

/-- R284: the hub of a region whose node is rooted at the bridge. -/
def wideRoot (s : State) (w slot b : Nat) : Option Node :=
  (slotHubs s w slot).find? fun h => (s.barNode h b).parent == 5

/-- R284: the region has reported the phase that its root collects, or has not joined the barrier. -/
def wideReported (s : State) (w slot b : Nat) (p : BitVec 2) : Bool :=
  !((s.module w).slot slot).joined.getLsbD b || match slotDomain s w slot with
    | some d =>
      let x := vget (s.domain d).wide {} b
      (if p = x.cur then x.rep else x.rep1).contains (w, slot)
    | none => true

/-- R281: a barrier at which no core of a region arrives completes the phase that its root collects.
DEDUCED (log 50). -/
def startBar (w slot : Nat) (s : State) (b : Nat) : State :=
  (slotHubs s w slot).foldl (fun s h =>
    let x := s.barNode h b
    if (s.hub h).barUsed.getLsbD b && silentRoot s h b && (x.parent == 0 || !wideReported s w slot b x.cur) then
      reportUp s h b
    else s) s

/-- R281: every such barrier of a region begins. -/
def startSilent (s : State) (w slot : Nat) : State := (List.range 15).foldl (startBar w slot) s

/-- R284: every member has reported. -/
def WideBar.complete (x : WideBar) : Bool := !x.members.isEmpty && x.members.all x.rep.contains

/-- R284: change a wide barrier of a domain. -/
def State.modWide (s : State) (d b : Nat) (f : WideBar → WideBar) : State :=
  s.modDomain d fun y => { y with wide := vset y.wide b (f (vget y.wide {} b)) }

/-- R284: a wide barrier in its next phase, which the members that have left take no part in. -/
def WideBar.advance (x : WideBar) : WideBar :=
  { cur := x.cur + 1, members := x.members.filter fun r => !x.leaving.contains r, rep := x.rep1, cp := x.cp1 }

/-- R284: the root bridge releases the phase to every member that remains. -/
def releaseWide (s : State) (d b : Nat) : State :=
  let x := vget (s.domain d).wide {} b
  let root := (wideRootBridge s d b).getD 0
  let s := (x.members.filter fun r => !x.leaving.contains r).foldl (fun s r =>
    match wideRoot s r.1 r.2 b with
    | some h => post s root [] (.relHub h b x.cur x.cp)
    | none => s) s
  s.modWide d b WideBar.advance

/-- R283, R284: a phase that every member has reported completes, and is released once the writes that a boundary awaits
have performed. -/
def settleWideBar (s : State) (d b : Nat) : State :=
  let x := vget (s.domain d).wide {} b
  if !x.complete then s
  else
    let c := x.closing.getD (s.nextId, if x.cp then mxTargets s x.members else [])
    if x.cp && !quiet s x.members b c.1 c.2 then s.modWide d b fun y => { y with closing := some c }
    else releaseWide s d b

/-- R284: every wide barrier of every domain goes on as far as it can. -/
def settleWide (s : State) : State :=
  s.domains.foldl (fun s d => (List.range 15).foldl (fun s b => settleWideBar s d.1 b) s) s

/-- R284: a member's report of a phase reaches the root bridge, which completes it when every member has reported. -/
def execWideBarrierReport (m : Nat) (s : State) : Out :=
  match arriving s m with
  | some { kind := .wide d b w slot p cp, .. } =>
    let x := vget (s.domain d).wide {} b
    let s' := unpost s m
    if p = x.cur then
      .next (settleWideBar (s'.modWide d b fun x => { x with rep := (w, slot) :: x.rep, cp := x.cp || cp }) d b)
    else if p = x.cur + 1 then
      .next (s'.modWide d b fun x => { x with rep1 := (w, slot) :: x.rep1, cp1 := x.cp1 || cp })
    else .next (machineCheckOf s' [d] (owningBridge s w slot) 4 b)
  | _ => .next s

/-! ### Guards and firings (R123–R130) -/

/-- R124: a channel that a live context has claimed. -/
def claimed (c : Core) (ch : Nat) : Bool :=
  c.ctxs.toList.any fun k => k.st != .free
    && ((k.bind0.getLsbD 5 && (k.bind0.setWidth 5).toNat == ch) || (k.bind1.getLsbD 5 && (k.bind1.setWidth 5).toNat == ch))

/-- R124: a channel some of whose words lie in its spill area. -/
def spilled (c : Core) (ch : Nat) : Bool := ((c.chan ch).map fun x => !x.spill.isEmpty).getD false

/-- R125: the queue of a channel. -/
def queueOf (c : Core) (ch : Nat) : List ChWord := ((c.chan ch).map (·.queue)).getD []

/-- R125: `cond_true`. -/
def condTrue (c : Core) (x : BitVec 16) : Bool :=
  let kind := bits x.toNat 14 2
  let ch := bits x.toNat 8 5
  let param := bits x.toNat 0 8
  let q := queueOf c ch
  if kind = 0 then true
  else if claimed c ch || spilled c ch then false
  else if kind = 1 then !q.isEmpty
  else if kind = 2 then (q.head?.map fun w => w.htag.toNat == param).getD false
  else param ≤ 16 - q.length

/-- R125: `bind_ok`. -/
def bindOk (c : Core) (b : BitVec 8) : Bool :=
  !b.getLsbD 7 || !(claimed c (b.setWidth 5).toNat || spilled c (b.setWidth 5).toNat)

/-- R125: `entry_ready`. -/
def entryReady (c : Core) (e : Nat) : Bool :=
  let t := vget c.trg.entries {} e
  t.tctl.getLsbD 0 && (c.sync.flags &&& t.fmask) == (t.fval &&& t.fmask) && condTrue c t.conda && condTrue c t.condb
    && bindOk c t.binda && bindOk c t.bindb

/-- R126: the oldest pending pseudo-trigger is ready. -/
def pseudoReady (c : Core) : Bool :=
  match c.trg.pseudo with
  | [] => false
  | p :: _ => let t := c.trg.entries[p.h]; bindOk c t.binda && bindOk c t.bindb

/-- R128: a candidate: an entry, or the pseudo-trigger. -/
def fireOrder (c : Core) : List (Option Nat) :=
  let seq := (List.range 16).map some ++ [none] ++ (List.range 16).map fun i => some (16 + i)
  if c.trg.ctl.getLsbD 0 then
    let ptr := bits c.trg.ctl.toNat 8 5
    let pos := if ptr < 16 then ptr else ptr + 1
    seq.drop pos ++ seq.take pos
  else seq

/-- R128: a candidate is ready. -/
def candidateReady (c : Core) : Option Nat → Bool
  | some e => entryReady c e
  | none => pseudoReady c

/-- R128: the lowest FREE context of 0–6. -/
def freeContext (c : Core) : Option (Fin 8) :=
  ((List.range 7).find? fun i => (vget c.ctxs {} i).st == .free).map (Fin.ofNat 8)

/-- R67, R71: the region of a core runs. -/
def regionRuns (s : State) (n : Node) : Bool :=
  match slotOf s n with
  | some i => let st := ((s.module (nodeWafer n)).slot i).st; st == .launched || st == .launching
  | none => false

/-- R128: what the core fires, if anything. -/
def fires (s : State) (n : Node) : Option (Option Nat) :=
  let c := s.core n
  if isFrozen s n || isHeld s n || c.trg.ctl.getLsbD 1 || (freeContext c).isNone || !regionRuns s n || !powered s n then none
  else (fireOrder c).find? (candidateReady c)

/-- R130: the bound channels that two bindings give. -/
def bindings (a b : BitVec 8) : BitVec 6 × BitVec 6 :=
  let f (x : BitVec 8) : BitVec 6 := if x.getLsbD 7 then (x.setWidth 5).setWidth 6 ||| 0x20 else 0
  if a.getLsbD 7 && b.getLsbD 7 && (a.setWidth 5 : BitVec 5) == b.setWidth 5 then (f a, 0) else (f a, f b)

/-- R128, R130: PTR after a firing. -/
def newPtr (ctl : BitVec 64) (fired : Option Nat) : BitVec 64 :=
  if ctl.getLsbD 0 then
    let p := match fired with | some e => (e + 1) % 32 | none => 16
    (ctl &&& ~~~0x1F00#64) ||| BitVec.ofNat 64 (p * 2 ^ 8)
  else ctl

/-- R130: an entry, or a pseudo-trigger, starts a handler in the lowest FREE context. -/
def startHandler (s : State) (n : Node) (fired : Option Nat) : State :=
  let c := s.core n
  match freeContext c with
  | none => s
  | some x =>
    let p := c.trg.pseudo.head?
    let e := match fired with | some e => e | none => (p.map (·.h.val)).getD 0
    let t := vget c.trg.entries {} e
    let b := bindings t.binda t.bindb
    let regs : List (Nat × Word) := [(1, BitVec.ofNat 64 (nodeNum n)), (2, relWord s n)] ++
      (match fired, p with
       | none, some q => [(3, BitVec.ofNat 64 (0x100 + q.h.val)), (4, BitVec.ofNat 64 q.la),
           (5, BitVec.ofNat 64 q.len), (6, BitVec.ofNat 64 (location s q.src))]
       | _, _ => [(3, BitVec.ofNat 64 e)])
    s.setCore n { (c.setCtx x (freshCtx (c.ctx x) t.hpc regs b.1 b.2 (cycleOf s n))) with
      trg := { c.trg with
        entries := if fired.isSome && !t.tctl.getLsbD 1 then vset c.trg.entries e { t with tctl := t.tctl &&& 0xFE }
          else c.trg.entries
        pseudo := if fired.isSome then c.trg.pseudo else c.trg.pseudo.drop 1
        ctl := newPtr c.trg.ctl fired
        lastPseudo := fired.isNone
        lastEntry := BitVec.ofNat 5 e } }

/-- R123, R128, R130: a trigger entry fires. -/
def execTriggerFire (n : Node) (s : State) : Out :=
  match fires s n with
  | some (some e) => .next (startHandler s n (some e))
  | _ => .next s

/-- R126–R130: a pseudo-trigger fires. -/
def execPseudoTriggerFire (n : Node) (s : State) : Out :=
  match fires s n with
  | some none => .next (startHandler s n none)
  | _ => .next s

/-- R71 step 5: the wake message starts a context at entry 0's handler. DEDUCED (log 24). -/
def wakeCore (s : State) (n : Node) (args : Nat) : State :=
  let c := s.core n
  match freeContext c with
  | none => s
  | some x =>
    let t := vget c.trg.entries {} 0
    let regs : List (Nat × Word) := [(1, BitVec.ofNat 64 (nodeNum n)), (2, relWord s n),
      (3, BitVec.ofNat 64 (0x40000 - args)), (4, BitVec.ofNat 64 args)]
    s.setCore n { (c.setCtx x (freshCtx (c.ctx x) t.hpc regs 0 0 (cycleOf s n))) with
      trg := { c.trg with
        entries := if t.tctl.getLsbD 1 then c.trg.entries else vset c.trg.entries 0 { t with tctl := t.tctl &&& 0xFE }
        ctl := newPtr c.trg.ctl (some 0)
        lastPseudo := false
        lastEntry := 0 } }

end Sys2Proof.Machine
end

