-- ==== Sys2Proof/Machine/Vector.lean ====
section
/-! DEFINITION. The vector instructions (R213–R241), with the conversions of R44–R47 and the orders of R55–R57. -/

namespace Sys2Proof

/-- R28: the first `n` elements of width `w`. -/
def elemsOf (w n : Nat) (v : VData) : List Nat := (List.range n).map fun e => bits v.toNat (w * e) w

/-- R233: the element width of a type. -/
def VTy.width (t : VTy) : Nat := 1024 / t.count

/-- The elements of a register of a type. -/
def VTy.elems (t : VTy) (v : VData) : List Nat := elemsOf t.width t.count v

/-- The floating format of a type. -/
def VTy.ffmt : VTy → Machine.FFmt
  | .bf16 | .cb4 => .bf16
  | .e4m3 => .e4m3
  | .e5m2 => .e5m2
  | .e2m1 => .e2m1
  | _ => .fp32

/-- R27: the bits of an integer type. -/
def VTy.intBits (t : VTy) : Nat := if t == .s8 || t == .n8 then 8 else 32
/-- R35: a signed integer type. -/
def VTy.isSigned (t : VTy) : Bool := t == .s32 || t == .s8

/-- R226: an order meets a condition. -/
def Cond.holds (c : Cond) (o : Ordering) : Bool :=
  match c with
  | .eq => o == .eq
  | .ne => o != .eq
  | .lt => o == .lt
  | .le => o != .gt
  | .gt => o == .gt
  | .ge => o != .lt

end Sys2Proof

namespace Sys2Proof.Machine

/-! ### Elements, lanes and tags (R28, R215, R216) -/

/-- R28: the number that a list of elements of width `w` makes, the first lowest. -/
def packNat (w : Nat) : List Nat → Nat
  | [] => 0
  | x :: t => x % 2 ^ w + 2 ^ w * packNat w t

/-- The data that a list of results makes. -/
def packRounded (w : Nat) (rs : List Rounded) : VData := BitVec.ofNat 1024 (packNat w (rs.map (·.enc)))

/-- R215: a predicate as a mask over the register. -/
def laneMask (p : Pred) : VData := ofLanes fun i => if p.getLsbD i then BitVec.allOnes 32 else 0

/-- R215: lanes of a predicate take the new data, and the others keep the old. -/
def mergeData (p : Pred) (old new : VData) : VData := (new &&& laneMask p) ||| (old &&& ~~~laneMask p)

/-- R215: the results whose lane the predicate selects, for elements of width `w`. -/
def selected (p : Pred) (w : Nat) (rs : List Rounded) : List Rounded :=
  ((indexed rs 0).filter fun x => p.getLsbD (x.1 * w / 32)).map (·.2)

/-- R334: `E_FMT`. -/
def eFmt : TrapOf := ⟨0x06, 0⟩

/-- R49, R216: a register carries the tag of a type and no scale. -/
def hasTag (v : VVal) (ty : VTy) : Bool := v.tag == ty.tag && !v.sp

/-- R216: `E_FMT` unless every source carries the tag of the type. -/
def tagFault (ty : VTy) (rs : List VReg) (s : State) : Option TrapOf :=
  if rs.all fun r => hasTag (s.vr r) ty then none else some eFmt

/-- R215: write the selected lanes of a register, with its new tag, SP and side field. -/
def setLanes (s : State) (vd : VReg) (p : Pred) (v : VVal) : State :=
  s.setV vd { v with data := mergeData p (s.vr vd).data v.data }

/-- R215, R216: the results of elements of width `w` go to the selected lanes, and set the flags of R42. -/
def setResults (s : State) (vd : VReg) (p : Pred) (w : Nat) (tag : BitVec 4) (rs : List Rounded) : State :=
  (setLanes s vd p { data := packRounded w rs, tag := tag }).modCc fun k => k.raiseRounded (selected p w rs)

/-! ### Arithmetic (R218, R219) -/

/-- R218: the two-operand operations. -/
inductive VOp where
  | add | sub | mul | min | max
  deriving DecidableEq, Repr

/-- R218: an operation on exact values; `vmin` and `vmax` select and do not round. -/
def VOp.float (op : VOp) (f : FFmt) (rnd : RMode) (sat : Bool) (x y : Ext) : Rounded :=
  match op with
  | .add => roundFloat f rnd sat (x.add rnd y)
  | .sub => roundFloat f rnd sat (x.add rnd y.neg)
  | .mul => roundFloat f rnd sat (x.mul y)
  | .min => roundFloat f rnd false (x.min y)
  | .max => roundFloat f rnd false (x.max y)

/-- R218: an operation on integers. -/
def VOp.int (op : VOp) (x y : Int) : Int :=
  match op with
  | .add => x + y
  | .sub => x - y
  | .mul => x * y
  | .min => if x ≤ y then x else y
  | .max => if x ≤ y then y else x

/-- R43, R218: an operation on one element of a type. DEDUCED (log 34). -/
def VOp.elem (op : VOp) (ty : VTy) (rnd : RMode) (sat : Bool) (a b : Nat) : Rounded :=
  match ty with
  | .f32 => op.float .fp32 rnd sat (decodeFloat .fp32 a) (decodeFloat .fp32 b)
  | .bf16 => op.float .bf16 rnd sat (decodeFloat .bf16 a) (decodeFloat .bf16 b)
  | _ => plain (lowBits 32 (op.int (intValue 32 (ty == .s32) a) (intValue 32 (ty == .s32) b)))

/-- R218: the effect of a two-operand form. -/
def vecBin (s : State) (op : VOp) (vd va vb : VReg) (pm : Option PReg) (ty : VTy) (rnd : RMode) (sat : Bool) : State :=
  setResults s vd (predOf s pm) ty.width ty.tag
    (List.zipWith (op.elem ty rnd sat) (ty.elems (s.vr va).data) (ty.elems (s.vr vb).data))

/-- R47, R219: an immediate as an element of a type. -/
def immElem (ty : VTy) (imm : BitVec 16) : Nat :=
  match ty with
  | .f32 => imm.toNat * 65536
  | .s32 => (imm.signExtend 32).toNat
  | _ => imm.toNat

/-- R219: the effect of an immediate form. -/
def vecImm (s : State) (op : VOp) (vd va : VReg) (pm : Option PReg) (ty : VTy) (rnd : RMode) (sat : Bool)
    (imm : BitVec 16) : State :=
  setResults s vd (predOf s pm) ty.width ty.tag
    ((ty.elems (s.vr va).data).map fun a => op.elem ty rnd sat a (immElem ty imm))

/-- R218: `vadd`. -/
def execVadd (vd va vb : VReg) (pm : Option PReg) (ty : VTy) (rnd : RMode) (sat : Bool) (s : State) : Out :=
  .next (checked s (.vadd vd va vb pm ty rnd sat) (tagFault ty [va, vb]) fun s =>
    advance (vecBin s .add vd va vb pm ty rnd sat))
/-- R218: `vsub`. -/
def execVsub (vd va vb : VReg) (pm : Option PReg) (ty : VTy) (rnd : RMode) (sat : Bool) (s : State) : Out :=
  .next (checked s (.vsub vd va vb pm ty rnd sat) (tagFault ty [va, vb]) fun s =>
    advance (vecBin s .sub vd va vb pm ty rnd sat))
/-- R218: `vmul`. -/
def execVmul (vd va vb : VReg) (pm : Option PReg) (ty : VTy) (rnd : RMode) (sat : Bool) (s : State) : Out :=
  .next (checked s (.vmul vd va vb pm ty rnd sat) (tagFault ty [va, vb]) fun s =>
    advance (vecBin s .mul vd va vb pm ty rnd sat))
/-- R218: `vmin`. -/
def execVmin (vd va vb : VReg) (pm : Option PReg) (ty : VTy) (rnd : RMode) (sat : Bool) (s : State) : Out :=
  .next (checked s (.vmin vd va vb pm ty rnd sat) (tagFault ty [va, vb]) fun s =>
    advance (vecBin s .min vd va vb pm ty rnd sat))
/-- R218: `vmax`. -/
def execVmax (vd va vb : VReg) (pm : Option PReg) (ty : VTy) (rnd : RMode) (sat : Bool) (s : State) : Out :=
  .next (checked s (.vmax vd va vb pm ty rnd sat) (tagFault ty [va, vb]) fun s =>
    advance (vecBin s .max vd va vb pm ty rnd sat))

/-- R219: `vadd` with an immediate. -/
def execVaddImm (vd va : VReg) (pm : Option PReg) (ty : VTy) (rnd : RMode) (sat : Bool) (imm : BitVec 16)
    (s : State) : Out :=
  .next (checked s (.vaddImm vd va pm ty rnd sat imm) (tagFault ty [va]) fun s =>
    advance (vecImm s .add vd va pm ty rnd sat imm))
/-- R219: `vsub` with an immediate. -/
def execVsubImm (vd va : VReg) (pm : Option PReg) (ty : VTy) (rnd : RMode) (sat : Bool) (imm : BitVec 16)
    (s : State) : Out :=
  .next (checked s (.vsubImm vd va pm ty rnd sat imm) (tagFault ty [va]) fun s =>
    advance (vecImm s .sub vd va pm ty rnd sat imm))
/-- R219: `vmul` with an immediate. -/
def execVmulImm (vd va : VReg) (pm : Option PReg) (ty : VTy) (rnd : RMode) (sat : Bool) (imm : BitVec 16)
    (s : State) : Out :=
  .next (checked s (.vmulImm vd va pm ty rnd sat imm) (tagFault ty [va]) fun s =>
    advance (vecImm s .mul vd va pm ty rnd sat imm))
/-- R219: `vmin` with an immediate. -/
def execVminImm (vd va : VReg) (pm : Option PReg) (ty : VTy) (rnd : RMode) (sat : Bool) (imm : BitVec 16)
    (s : State) : Out :=
  .next (checked s (.vminImm vd va pm ty rnd sat imm) (tagFault ty [va]) fun s =>
    advance (vecImm s .min vd va pm ty rnd sat imm))
/-- R219: `vmax` with an immediate. -/
def execVmaxImm (vd va : VReg) (pm : Option PReg) (ty : VTy) (rnd : RMode) (sat : Bool) (imm : BitVec 16)
    (s : State) : Out :=
  .next (checked s (.vmaxImm vd va pm ty rnd sat imm) (tagFault ty [va]) fun s =>
    advance (vecImm s .max vd va pm ty rnd sat imm))

/-- R218: `a·b + c` with the signs of the fused forms, rounded once. -/
def fmaElem (f : FFmt) (rnd : RMode) (sat negProd negAdd : Bool) (a b c : Nat) : Rounded :=
  let p := (decodeFloat f a).mul (decodeFloat f b)
  let z := decodeFloat f c
  roundFloat f rnd sat ((if negProd then p.neg else p).add rnd (if negAdd then z.neg else z))

/-- Apply a function to the elements of three lists. -/
def zip3 (f : Nat → Nat → Nat → Rounded) : List Nat → List Nat → List Nat → List Rounded
  | a :: as, b :: bs, c :: cs => f a b c :: zip3 f as bs cs
  | _, _, _ => []

/-- R218: the effect of a fused form. -/
def vecFma (s : State) (vd va vb vc : VReg) (pm : Option PReg) (ty : VTy) (rnd : RMode)
    (sat negProd negAdd : Bool) : State :=
  setResults s vd (predOf s pm) ty.width ty.tag
    (zip3 (fmaElem ty.ffmt rnd sat negProd negAdd) (ty.elems (s.vr va).data) (ty.elems (s.vr vb).data)
      (ty.elems (s.vr vc).data))

/-- R218: `vfma`. -/
def execVfma (vd va vb vc : VReg) (pm : Option PReg) (ty : VTy) (rnd : RMode) (sat : Bool) (s : State) : Out :=
  .next (checked s (.vfma vd va vb vc pm ty rnd sat) (tagFault ty [va, vb, vc]) fun s =>
    advance (vecFma s vd va vb vc pm ty rnd sat false false))
/-- R218: `vfms`. -/
def execVfms (vd va vb vc : VReg) (pm : Option PReg) (ty : VTy) (rnd : RMode) (sat : Bool) (s : State) : Out :=
  .next (checked s (.vfms vd va vb vc pm ty rnd sat) (tagFault ty [va, vb, vc]) fun s =>
    advance (vecFma s vd va vb vc pm ty rnd sat false true))
/-- R218: `vfnma`. -/
def execVfnma (vd va vb vc : VReg) (pm : Option PReg) (ty : VTy) (rnd : RMode) (sat : Bool) (s : State) : Out :=
  .next (checked s (.vfnma vd va vb vc pm ty rnd sat) (tagFault ty [va, vb, vc]) fun s =>
    advance (vecFma s vd va vb vc pm ty rnd sat true false))

/-- R43: the magnitude of a value; a NaN stays a NaN. -/
def Ext.abs : Ext → Ext
  | .nan => .nan
  | .inf _ => .inf false
  | .fin _ m e => .fin false m e

/-- R218: `vabs` and `vneg` of one element: no rounding, no flag. DEDUCED (log 34). -/
def signElem (ty : VTy) (neg : Bool) (a : Nat) : Rounded :=
  match ty with
  | .f32 | .bf16 =>
    let x := decodeFloat ty.ffmt a
    roundFloat ty.ffmt .rne false (if neg then x.neg else Ext.abs x)
  | _ => plain (lowBits 32 (if neg then -(intValue 32 true a) else ((intValue 32 true a).natAbs : Int)))

/-- R218: the effect of `vabs` and `vneg`. -/
def vecSign (s : State) (vd va : VReg) (pm : Option PReg) (ty : VTy) (neg : Bool) : State :=
  setResults s vd (predOf s pm) ty.width ty.tag ((ty.elems (s.vr va).data).map (signElem ty neg))

/-- R218: `vabs`. -/
def execVabs (vd va : VReg) (pm : Option PReg) (ty : VTy) (rnd : RMode) (sat : Bool) (s : State) : Out :=
  .next (checked s (.vabs vd va pm ty rnd sat) (tagFault ty [va]) fun s => advance (vecSign s vd va pm ty false))
/-- R218: `vneg`. -/
def execVneg (vd va : VReg) (pm : Option PReg) (ty : VTy) (rnd : RMode) (sat : Bool) (s : State) : Out :=
  .next (checked s (.vneg vd va pm ty rnd sat) (tagFault ty [va]) fun s => advance (vecSign s vd va pm ty true))

/-! ### Special functions (R220, R221) -/

/-- R220: the effect of a special function. -/
def vecFn (s : State) (fn : VFn) (vd va : VReg) (pm : Option PReg) (ty : VTy) (rnd : RMode) (sat : Bool) : State :=
  setResults s vd (predOf s pm) ty.width ty.tag ((ty.elems (s.vr va).data).map (specialElem fn ty rnd sat))

/-- R220: `vrcp`. -/
def execVrcp (vd va : VReg) (pm : Option PReg) (ty : VTy) (sat : Bool) (s : State) : Out :=
  .next (checked s (.vrcp vd va pm ty sat) (tagFault ty [va]) fun s => advance (vecFn s .rcp vd va pm ty .rne sat))
/-- R220: `vrsqrt`. -/
def execVrsqrt (vd va : VReg) (pm : Option PReg) (ty : VTy) (sat : Bool) (s : State) : Out :=
  .next (checked s (.vrsqrt vd va pm ty sat) (tagFault ty [va]) fun s => advance (vecFn s .rsqrt vd va pm ty .rne sat))
/-- R220: `vsqrt`. -/
def execVsqrt (vd va : VReg) (pm : Option PReg) (ty : VTy) (rnd : RMode) (s : State) : Out :=
  .next (checked s (.vsqrt vd va pm ty rnd) (tagFault ty [va]) fun s => advance (vecFn s .sqrt vd va pm ty rnd false))
/-- R220: `vexp2`. -/
def execVexp2 (vd va : VReg) (pm : Option PReg) (ty : VTy) (sat : Bool) (s : State) : Out :=
  .next (checked s (.vexp2 vd va pm ty sat) (tagFault ty [va]) fun s => advance (vecFn s .exp2 vd va pm ty .rne sat))
/-- R220: `vlog2`. -/
def execVlog2 (vd va : VReg) (pm : Option PReg) (ty : VTy) (sat : Bool) (s : State) : Out :=
  .next (checked s (.vlog2 vd va pm ty sat) (tagFault ty [va]) fun s => advance (vecFn s .log2 vd va pm ty .rne sat))
/-- R220: `vtanh`. -/
def execVtanh (vd va : VReg) (pm : Option PReg) (ty : VTy) (sat : Bool) (s : State) : Out :=
  .next (checked s (.vtanh vd va pm ty sat) (tagFault ty [va]) fun s => advance (vecFn s .tanh vd va pm ty .rne sat))
/-- R220: `vsgm`. -/
def execVsgm (vd va : VReg) (pm : Option PReg) (ty : VTy) (sat : Bool) (s : State) : Out :=
  .next (checked s (.vsgm vd va pm ty sat) (tagFault ty [va]) fun s => advance (vecFn s .sgm vd va pm ty .rne sat))

/-! ### Bits, shifts and the carry chain (R222–R225) -/

/-- R222, R229: data goes to the selected lanes, with the tag, SP and side field of a source. -/
def moveLanes (s : State) (vd va : VReg) (p : Pred) (data : VData) : State :=
  setLanes s vd p { s.vr va with data := data }

/-- R222: the effect of a bitwise form. -/
def vecBits (s : State) (f : VData → VData → VData) (vd va vb : VReg) (pm : Option PReg) : State :=
  moveLanes s vd va (predOf s pm) (f (s.vr va).data (s.vr vb).data)

/-- R222: `vand`. -/
def execVand (vd va vb : VReg) (pm : Option PReg) (s : State) : Out :=
  .next (guarded s (.vand vd va vb pm) fun s => advance (vecBits s (· &&& ·) vd va vb pm))
/-- R222: `vor`. -/
def execVor (vd va vb : VReg) (pm : Option PReg) (s : State) : Out :=
  .next (guarded s (.vor vd va vb pm) fun s => advance (vecBits s (· ||| ·) vd va vb pm))
/-- R222: `vxor`. -/
def execVxor (vd va vb : VReg) (pm : Option PReg) (s : State) : Out :=
  .next (guarded s (.vxor vd va vb pm) fun s => advance (vecBits s (· ^^^ ·) vd va vb pm))

/-- R223: the shift amount of a lane. -/
def shiftAmount (s : State) (x : ShiftBy) (i : Nat) : Nat :=
  match x with
  | .reg vb => (lane (s.vr vb).data i).toNat % 32
  | .amt n => n

/-- R223: the sources of a shift. -/
def shiftSources (va : VReg) : ShiftBy → List VReg
  | .reg vb => [va, vb]
  | .amt _ => [va]

/-- R223: lanes computed one by one, with tag INT32. -/
def vecLanes (s : State) (vd : VReg) (pm : Option PReg) (f : Nat → BitVec 32) : State :=
  setLanes s vd (predOf s pm) { data := ofLanes f, tag := 0 }

/-- R223: `vshl`. -/
def execVshl (vd va : VReg) (x : ShiftBy) (pm : Option PReg) (ty : VTy) (s : State) : Out :=
  .next (checked s (.vshl vd va x pm ty) (tagFault ty (shiftSources va x)) fun s =>
    advance (vecLanes s vd pm fun i => lane (s.vr va).data i <<< shiftAmount s x i))
/-- R223: `vshr`. -/
def execVshr (vd va : VReg) (x : ShiftBy) (pm : Option PReg) (ty : VTy) (s : State) : Out :=
  .next (checked s (.vshr vd va x pm ty) (tagFault ty (shiftSources va x)) fun s =>
    advance (vecLanes s vd pm fun i => lane (s.vr va).data i >>> shiftAmount s x i))
/-- R223: `vsra`. -/
def execVsra (vd va : VReg) (x : ShiftBy) (pm : Option PReg) (ty : VTy) (s : State) : Out :=
  .next (checked s (.vsra vd va x pm ty) (tagFault ty (shiftSources va x)) fun s =>
    advance (vecLanes s vd pm fun i => (lane (s.vr va).data i).sshiftRight (shiftAmount s x i)))

/-- R223: bits [63:32] of a product. -/
def mulHigh (signed : Bool) (a b : Nat) : BitVec 32 :=
  BitVec.ofInt 32 (intValue 32 signed a * intValue 32 signed b / 2 ^ 32)

/-- R223: `vmulh`. -/
def execVmulh (vd va vb : VReg) (pm : Option PReg) (ty : VTy) (s : State) : Out :=
  .next (checked s (.vmulh vd va vb pm ty) (tagFault ty [va, vb]) fun s =>
    advance (vecLanes s vd pm fun i =>
      mulHigh (ty == .s32) (lane (s.vr va).data i).toNat (lane (s.vr vb).data i).toNat))

/-- R225, R369: the first port that a form needs and that has no link, W before E. DEDUCED (log 38). -/
def portFault (s : State) (west east : Bool) : Option TrapOf :=
  match (if west then linkFault s 3 else none) with
  | some t => some t
  | none => if east then linkFault s 1 else none

/-- R225: a form that takes the incoming W word, sends a word east, or both, as one action. DEDUCED (log 38). -/
def tryPorts (s : State) (west east : Bool) (accepts : VVal → Bool) (run : State → VVal → State × VVal) : Try :=
  let word := vget s.cn.comm.nb none 3
  if (west && word.isNone) || (east && nbBusy s s.cur.core 1) then .wait .waitNb 0
  else if west && (behind s (.nb 3) .waitNb || behindUnit s (.nb 3)) then .wait .waitNb 0
  else if west && !accepts (word.getD {}) then .trap eFmt
  else
    let r := run (if west then clearNb s s.cur.core 3 else s) (word.getD {})
    .done (if east then putNb r.1 1 r.2 else r.1)

/-- R224: the carry-in. -/
def carryIn (g : Regs) (cin : CarryIn) (pq : PReg) (w : VVal) : Nat :=
  match cin with
  | .c0 => 0
  | .c1 => 1
  | .w => w.data.toNat % 2
  | .p => (g.preg pq).toNat % 2

/-- R224: `vaddc` and `vsubc` when they are tried. -/
def tryCarry (g : Regs) (s : State) (sub : Bool) (vd va vb : VReg) (pq : PReg) (cin : CarryIn) (cout : CarryOut) :
    Try :=
  tryPorts s (cin == .w) (cout == .e) validPair fun s w =>
    let y := (g.vreg vb).data
    let t := (g.vreg va).data.toNat + (if sub then ~~~y else y).toNat + carryIn g cin pq w
    let c := t / 2 ^ 1024
    let s := s.setV vd { data := BitVec.ofNat 1024 t, tag := 0 }
    (if cout == .p then s.setP pq (BitVec.ofNat 32 c) else s, { data := BitVec.ofNat 1024 c, tag := 0 })

/-- R224, R225: the faults of the carry forms. -/
def carryFault (va vb : VReg) (cin : CarryIn) (cout : CarryOut) (s : State) : Option TrapOf :=
  match tagFault .n32 [va, vb] s with
  | some t => some t
  | none => portFault s (cin == .w) (cout == .e)

/-- R224: `vaddc`. -/
def execVaddc (vd va vb : VReg) (pq : PReg) (cin : CarryIn) (cout : CarryOut) (s : State) : Out :=
  .next (checked s (.vaddc vd va vb pq cin cout) (carryFault va vb cin cout) fun s =>
    orBlock s (.vaddc vd va vb pq cin cout) (tryCarry s.cc.regs s false vd va vb pq cin cout))
/-- R224: `vsubc`. -/
def execVsubc (vd va vb : VReg) (pq : PReg) (cin : CarryIn) (cout : CarryOut) (s : State) : Out :=
  .next (checked s (.vsubc vd va vb pq cin cout) (carryFault va vb cin cout) fun s =>
    orBlock s (.vsubc vd va vb pq cin cout) (tryCarry s.cc.regs s true vd va vb pq cin cout))

/-! ### Compares, select and predicates (R226–R228) -/

/-- R43, R226: the comparison of two elements. -/
def cmpElem (c : Cond) (ty : VTy) (a b : Nat) : Bool :=
  match ty with
  | .f32 | .bf16 =>
    let x := decodeFloat ty.ffmt a
    let y := decodeFloat ty.ffmt b
    if x = .nan ∨ y = .nan then c == .ne else c.holds (x.cmp y)
  | _ => c.holds (compare (intValue 32 (ty == .s32) a) (intValue 32 (ty == .s32) b))

/-- R226: the element of a lane that a compare reads. -/
def cmpIndex (ty : VTy) (half : Bool) (i : Nat) : Nat :=
  if ty == .bf16 then 2 * i + (if half then 1 else 0) else i

/-- R226: the predicate of a compare. -/
def cmpBits (s : State) (va vb : VReg) (ty : VTy) (c : Cond) (half : Bool) : Pred :=
  BitVec.ofNat 32 (packNat 1 ((List.range 32).map fun i =>
    let e := cmpIndex ty half i
    if cmpElem c ty (bits (s.vr va).data.toNat (ty.width * e) ty.width)
      (bits (s.vr vb).data.toNat (ty.width * e) ty.width) then 1 else 0))

/-- R226: `vcmp`. -/
def execVcmp (pd : PReg) (va vb : VReg) (pm : Option PReg) (ty : VTy) (c : Cond) (half : Bool) (s : State) : Out :=
  .next (checked s (.vcmp pd va vb pm ty c half) (tagFault ty [va, vb]) fun s =>
    let p := predOf s pm
    advance (s.setP pd ((cmpBits s va vb ty c half &&& p) ||| (s.pr pd &&& ~~~p))))

/-- R227: `vsel`. -/
def execVsel (vd va vb : VReg) (pm : PReg) (s : State) : Out :=
  .next (guarded s (.vsel vd va vb pm) fun s =>
    advance (s.setV vd { s.vr va with data := mergeData (s.pr pm) (s.vr vb).data (s.vr va).data }))

/-- R228: `pand`. -/
def execPand (pd pa pb : PReg) (s : State) : Out :=
  .next (guarded s (.pand pd pa pb) fun s => advance (s.setP pd (s.pr pa &&& s.pr pb)))
/-- R228: `por`. -/
def execPor (pd pa pb : PReg) (s : State) : Out :=
  .next (guarded s (.por pd pa pb) fun s => advance (s.setP pd (s.pr pa ||| s.pr pb)))
/-- R228: `pxor`. -/
def execPxor (pd pa pb : PReg) (s : State) : Out :=
  .next (guarded s (.pxor pd pa pb) fun s => advance (s.setP pd (s.pr pa ^^^ s.pr pb)))
/-- R228: `pnot`. -/
def execPnot (pd pa : PReg) (s : State) : Out :=
  .next (guarded s (.pnot pd pa) fun s => advance (s.setP pd (~~~s.pr pa)))
/-- R228: `pcnt`. -/
def execPcnt (sd : SReg) (pa : PReg) (s : State) : Out :=
  .next (guarded s (.pcnt sd pa) fun s => advance (s.setS sd (BitVec.ofNat 64 (popcount (s.pr pa)))))
/-- R228: `pfirst`. -/
def execPfirst (sd : SReg) (pa : PReg) (s : State) : Out :=
  .next (guarded s (.pfirst sd pa) fun s =>
    advance (s.setS sd (BitVec.ofNat 64 (((List.range 32).find? fun i => (s.pr pa).getLsbD i).getD 32))))

/-! ### Moving lanes (R229) -/

/-- R229: `vmov`. -/
def execVmov (vd va : VReg) (pm : Option PReg) (s : State) : Out :=
  .next (guarded s (.vmov vd va pm) fun s => advance (moveLanes s vd va (predOf s pm) (s.vr va).data))

/-- R229: the value that `vbcast` spreads. -/
def bcastValue (s : State) : BcastSrc → VVal
  | .lane va i => { s.vr va with data := ofLanes fun _ => lane (s.vr va).data i }
  | .scalar sa ty => { data := ofLanes fun _ => (s.sr sa).setWidth 32, tag := ty.tag }

/-- R229: `vbcast`. -/
def execVbcast (vd : VReg) (src : BcastSrc) (pm : Option PReg) (s : State) : Out :=
  .next (guarded s (.vbcast vd src pm) fun s => advance (setLanes s vd (predOf s pm) (bcastValue s src)))

/-- R47, R229: the lane that an immediate fills. DEDUCED (log 36). -/
def bcastImmLane (ty : VTy) (sat : Bool) (imm : BitVec 16) : Rounded :=
  match ty with
  | .f32 => plain (rneF32 (decodeFloat .bf16 imm.toNat)).toNat
  | .bf16 =>
    let b := if decodeFloat .bf16 imm.toNat = .nan then 0x7FC0 else imm.toNat
    plain (b * 65537)
  | .e4m3 | .e5m2 =>
    let r := roundFloat ty.ffmt .rne sat (decodeFloat .bf16 imm.toNat)
    { r with enc := r.enc * 0x01010101 }
  | _ => plain (immElem ty imm)

/-- R229: `vbcast` of an immediate. -/
def execVbcastImm (vd : VReg) (pm : Option PReg) (ty : VTy) (rnd : RMode) (sat : Bool) (imm : BitVec 16)
    (s : State) : Out :=
  .next (guarded s (.vbcastImm vd pm ty rnd sat imm) fun s =>
    advance (setResults s vd (predOf s pm) 32 ty.tag (List.replicate 32 (bcastImmLane ty sat imm))))

/-- R229: `vins` changes one lane and nothing else of the register. -/
def execVins (vd : VReg) (sa : SReg) (i : Fin 32) (s : State) : Out :=
  .next (guarded s (.vins vd sa i) fun s =>
    let v := s.vr vd
    advance (s.setV vd { v with data := mergeData (1#32 <<< i.val) v.data (ofLanes fun _ => (s.sr sa).setWidth 32) }))

/-- R229: `vext`. -/
def execVext (sd : SReg) (va : VReg) (i : Fin 32) (s : State) : Out :=
  .next (guarded s (.vext sd va i) fun s => advance (s.setS sd ((lane (s.vr va).data i).setWidth 64)))

/-- R229: `vperm`. -/
def execVperm (vd va vb : VReg) (pm : Option PReg) (s : State) : Out :=
  .next (guarded s (.vperm vd va vb pm) fun s =>
    advance (moveLanes s vd va (predOf s pm) (ofLanes fun i =>
      lane (s.vr va).data ((lane (s.vr vb).data i).toNat % 32))))

/-- R229: `vrot`. -/
def execVrot (vd va : VReg) (n : Fin 32) (pm : Option PReg) (s : State) : Out :=
  .next (guarded s (.vrot vd va n pm) fun s =>
    advance (moveLanes s vd va (predOf s pm) (ofLanes fun i => lane (s.vr va).data ((i + n) % 32))))

/-- R229: `vshf`. -/
def execVshf (vd va vb : VReg) (n : Fin 32) (pm : Option PReg) (s : State) : Out :=
  .next (guarded s (.vshf vd va vb n pm) fun s =>
    advance (moveLanes s vd va (predOf s pm) (ofLanes fun i =>
      if i + n < 32 then lane (s.vr va).data (i + n) else lane (s.vr vb).data (i + n - 32))))

/-! ### Reductions, scans and the linear recurrence (R230–R232) -/

/-- R55, R56: the operations of reductions and scans. -/
inductive ScanOp where
  | add | mul | max | min
  deriving DecidableEq, Repr

/-- R55, R56, R230: an operation on two partial results of a type, rounded with RNE in FP32 or wrapped. -/
def ScanOp.apply (op : ScanOp) (ty : VTy) (x y : Rounded) : Rounded :=
  let r := match op with
    | .add => VOp.elem .add ty .rne false x.enc y.enc
    | .mul => VOp.elem .mul ty .rne false x.enc y.enc
    | .max => VOp.elem .max ty .rne false x.enc y.enc
    | .min => VOp.elem .min ty .rne false x.enc y.enc
  { r with ovf := r.ovf || x.ovf || y.ovf }

/-- R55, R230, R231: the identity that an excluded element contributes. -/
def ScanOp.identity (op : ScanOp) (ty : VTy) : Nat :=
  match op, ty with
  | .add, .f32 => 0x80000000
  | .mul, .f32 => 0x3F800000
  | .max, .f32 => 0xFF800000
  | .min, .f32 => 0x7F800000
  | .add, _ => 0
  | .mul, _ => 1
  | .max, .s32 => 0x80000000
  | .max, _ => 0
  | .min, .s32 => 0x7FFFFFFF
  | .min, _ => 0xFFFFFFFF

/-- R55: one level of the tree. -/
def treeLevel (op : Rounded → Rounded → Rounded) : List Rounded → List Rounded
  | a :: b :: t => op a b :: treeLevel op t
  | l => l

/-- R55: the tree, level by level. -/
def reduceTree (op : Rounded → Rounded → Rounded) : Nat → List Rounded → List Rounded
  | 0, l => l
  | n + 1, l => reduceTree op n (treeLevel op l)

/-- R230: the type in which a reduction computes: BF16 widens to FP32. -/
def redType (ty : VTy) : VTy := if ty == .bf16 then .f32 else ty

/-- R230: the elements that a reduction combines. -/
def redElems (op : ScanOp) (ty : VTy) (p : Pred) (v : VData) : List Rounded :=
  (indexed (ty.elems v) 0).map fun x =>
    if p.getLsbD (x.1 * ty.width / 32) then plain (if ty == .bf16 then x.2 * 65536 else x.2)
    else plain (op.identity (redType ty))

/-- R230: the effect of a reduction: the value goes to every lane. -/
def vecRed (s : State) (op : ScanOp) (vd va : VReg) (pm : Option PReg) (ty : VTy) : State :=
  let l := reduceTree (op.apply (redType ty)) 6 (redElems op ty (predOf s pm) (s.vr va).data)
  setResults s vd (BitVec.allOnes 32) 32 (redType ty).tag (List.replicate 32 (l.headD (plain 0)))

/-- R230: `vred.add`. -/
def execVredAdd (vd va : VReg) (pm : Option PReg) (ty : VTy) (s : State) : Out :=
  .next (checked s (.vredAdd vd va pm ty) (tagFault ty [va]) fun s => advance (vecRed s .add vd va pm ty))
/-- R230: `vred.max`. -/
def execVredMax (vd va : VReg) (pm : Option PReg) (ty : VTy) (s : State) : Out :=
  .next (checked s (.vredMax vd va pm ty) (tagFault ty [va]) fun s => advance (vecRed s .max vd va pm ty))
/-- R230: `vred.min`. -/
def execVredMin (vd va : VReg) (pm : Option PReg) (ty : VTy) (s : State) : Out :=
  .next (checked s (.vredMin vd va pm ty) (tagFault ty [va]) fun s => advance (vecRed s .min vd va pm ty))

/-- R56: one step of a scan. -/
def scanStep {α : Type} (op : α → α → α) (d : Nat) (xs : List α) : List α :=
  List.zipWith op xs (xs.drop d) |> (xs.take d ++ ·)

/-- R56: an inclusive scan over 32 lanes in Hillis–Steele order. -/
def scanLanes {α : Type} (op : α → α → α) (xs : List α) : List α :=
  [1, 2, 4, 8, 16].foldl (fun xs d => scanStep op d xs) xs

/-- R231: the carry of a scan. -/
def scanCarry (g : Regs) (cin : ScanIn) (w : VVal) : Nat :=
  match cin with
  | .none => 0
  | .w => (lane w.data 0).toNat
  | .vc v hi => (lane (g.vreg v).data (if hi then 31 else 0)).toNat

/-- R41: a value of a scan's type that no operation has rounded: a NaN becomes the canonical one. -/
def scanCanon (ty : VTy) (r : Rounded) : Rounded :=
  match ty with
  | .f32 => if f32 (BitVec.ofNat 32 r.enc) = .nan then { r with enc := FFmt.fp32.canonNaN } else r
  | _ => r

/-- R41, R231: the results of a scan. -/
def scanResults (g : Regs) (p : Pred) (op : ScanOp) (va : VReg) (ty : VTy) (cin : ScanIn) (w : VVal) : List Rounded :=
  let y := (scanLanes (op.apply ty) (redElems op ty p (g.vreg va).data)).map (scanCanon ty)
  if cin = .none then y else y.map (op.apply ty (plain (scanCarry g cin w)))

/-- R231: a form sets every lane, sends lane 31 east and sets the flags. -/
def finishScan (s : State) (vd : VReg) (ty : VTy) (rs : List Rounded) : State × VVal :=
  (setResults s vd (BitVec.allOnes 32) 32 ty.tag rs,
    { data := BitVec.ofNat 1024 ((rs.getD 31 (plain 0)).enc), tag := ty.tag })

/-- R139: the predicate of a form as it was read at issue. -/
def Regs.predOf (g : Regs) : Option PReg → Pred
  | none => BitVec.allOnes 32
  | some p => g.preg p

/-- R231: a scan when it is tried. -/
def tryScan (g : Regs) (s : State) (op : ScanOp) (vd va : VReg) (pm : Option PReg) (ty : VTy) (cin : ScanIn)
    (cout : Bool) : Try :=
  tryPorts s (cin == .w) cout (fun w => hasTag w ty) fun s w =>
    finishScan s vd ty (scanResults g (g.predOf pm) op va ty cin w)

/-- R231: the faults of a scan. DEDUCED (log 38). -/
def scanFault (va : VReg) (ty : VTy) (cin : ScanIn) (cout : Bool) (s : State) : Option TrapOf :=
  match tagFault ty (va :: (match cin with | .vc v _ => [v] | .none | .w => [])) s with
  | some t => some t
  | none => portFault s (cin == .w) cout

/-- R231: `vscan.add`. -/
def execVscanAdd (vd va : VReg) (pm : Option PReg) (ty : VTy) (cin : ScanIn) (cout : Bool) (s : State) : Out :=
  .next (checked s (.vscanAdd vd va pm ty cin cout) (scanFault va ty cin cout) fun s =>
    orBlock s (.vscanAdd vd va pm ty cin cout) (tryScan s.cc.regs s .add vd va pm ty cin cout))
/-- R231: `vscan.max`. -/
def execVscanMax (vd va : VReg) (pm : Option PReg) (ty : VTy) (cin : ScanIn) (cout : Bool) (s : State) : Out :=
  .next (checked s (.vscanMax vd va pm ty cin cout) (scanFault va ty cin cout) fun s =>
    orBlock s (.vscanMax vd va pm ty cin cout) (tryScan s.cc.regs s .max vd va pm ty cin cout))
/-- R231: `vscan.mul`. -/
def execVscanMul (vd va : VReg) (pm : Option PReg) (ty : VTy) (cin : ScanIn) (cout : Bool) (s : State) : Out :=
  .next (checked s (.vscanMul vd va pm ty cin cout) (scanFault va ty cin cout) fun s =>
    orBlock s (.vscanMul vd va pm ty cin cout) (tryScan s.cc.regs s .mul vd va pm ty cin cout))

/-- R57: a pair of the linear recurrence. -/
structure RecPair where
  a : Rounded
  b : Rounded
  deriving DecidableEq, Repr

/-- R57: `a·b` rounded once in FP32, with the overflows that led to it. -/
def recMul (x y : Rounded) : Rounded :=
  let r := VOp.elem .mul .f32 .rne false x.enc y.enc
  { r with ovf := r.ovf || x.ovf || y.ovf }

/-- R57: `x·y + z` rounded once in FP32, with the overflows that led to it. -/
def recFma (x y z : Rounded) : Rounded :=
  let r := fmaElem .fp32 .rne false false false x.enc y.enc z.enc
  { r with ovf := r.ovf || x.ovf || y.ovf || z.ovf }

/-- R57: the composition of an earlier pair with a later one. -/
def RecPair.compose (e l : RecPair) : RecPair := { a := recMul e.a l.a, b := recFma l.a e.b l.b }

/-- R232: the earlier pair that CIN selects. -/
def earlierPair (g : Regs) (vc : VReg) (cin : PairIn) (w : VVal) : RecPair :=
  let l (v : VVal) (i : Nat) : Rounded := plain (lane v.data i).toNat
  match cin with
  | .none => { a := plain 0x3F800000, b := plain 0 }
  | .w => { a := l w 0, b := l w 1 }
  | .vcPair => { a := l (g.vreg vc) 1, b := l (g.vreg vc) 2 }

/-- R232: A2 and B2 of a lane: with CIN = 00, A and B themselves. -/
def applyPair (cin : PairIn) (e x : RecPair) : RecPair :=
  match cin with
  | .none => x
  | .w | .vcPair => { a := recMul e.a x.a, b := recFma x.a e.b x.b }

/-- R232: the pairs after the composition. -/
def recPairs (g : Regs) (va vb vc : VReg) (cin : PairIn) (w : VVal) : List RecPair :=
  let xs := (List.range 32).map fun i =>
    ({ a := plain (lane (g.vreg va).data i).toNat, b := plain (lane (g.vreg vb).data i).toNat } : RecPair)
  (scanLanes RecPair.compose xs).map (applyPair cin (earlierPair g vc cin w))

/-- R232: `vlrec` when it is tried. -/
def tryVlrec (g : Regs) (s : State) (vd va vb vc : VReg) (hi : Bool) (cin : PairIn) (cout : Bool) : Try :=
  tryPorts s (cin == .w) cout (fun w => hasTag w .f32) fun s w =>
    let ps := recPairs g va vb vc cin w
    let h := plain (lane (g.vreg vc).data (if hi then 31 else 0)).toNat
    let last := ps.getD 31 { a := plain 0, b := plain 0 }
    (setResults s vd (BitVec.allOnes 32) 32 1 (ps.map fun p => recFma p.a h p.b),
      { data := BitVec.ofNat 1024 (last.a.enc + last.b.enc * 2 ^ 32), tag := 1 })

/-- R232: the faults of `vlrec`. DEDUCED (log 38). -/
def vlrecFault (va vb vc : VReg) (cin : PairIn) (cout : Bool) (s : State) : Option TrapOf :=
  match tagFault .f32 [va, vb, vc] s with
  | some t => some t
  | none => portFault s (cin == .w) cout

/-- R232: `vlrec`. -/
def execVlrec (vd va vb vc : VReg) (hi : Bool) (cin : PairIn) (cout : Bool) (s : State) : Out :=
  .next (checked s (.vlrec vd va vb vc hi cin cout) (vlrecFault va vb vc cin cout) fun s =>
    orBlock s (.vlrec vd va vb vc hi cin cout) (tryVlrec s.cc.regs s vd va vb vc hi cin cout))

/-! ### Conversions (R44–R46, R233–R238) -/

/-- R36: the code table as exact values. -/
def ctabExt (c : Core) : List Ext := c.mx.ctab.toList.map fun x => decodeFloat .bf16 x.toNat

/-- R36: the BF16 entry of a code. -/
def ctabEntry (c : Core) (i : Nat) : Nat := (vget c.mx.ctab 0 (i % 16)).toNat

/-- R32–R36: the exact value of an element. -/
def elemValue (c : Core) (ty : VTy) (b : Nat) : Ext :=
  match ty with
  | .cb4 => decodeFloat .bf16 (ctabEntry c b)
  | .s32 | .n32 | .s8 | .n8 => Ext.ofInt (intValue ty.intBits ty.isSigned b)
  | _ => decodeFloat ty.ffmt b

/-- R44: one element converted. DEDUCED (log 35). -/
def cvtElem (c : Core) (dst src : VTy) (rnd : RMode) (sat : Bool) (b : Nat) : Rounded :=
  match dst with
  | .s32 | .n32 | .s8 | .n8 =>
    if src.isInt then narrowInt dst.intBits dst.isSigned sat (intValue src.intBits src.isSigned b)
    else floatToInt dst.intBits dst.isSigned rnd sat (elemValue c src b)
  | .cb4 => toCB4 (ctabExt c) (elemValue c src b)
  | _ => roundFloat dst.ffmt rnd sat (elemValue c src b)

/-- R233: the source elements that a conversion reads. -/
def partElems (dst src : VTy) (part : Nat) (v : VData) : List Nat :=
  if dst.count < src.count then (elemsOf src.width src.count v).drop (part * dst.count) |>.take dst.count
  else elemsOf src.width src.count v

/-- R233: the results of a conversion, placed: a narrowing one keeps the elements outside its part. -/
def placeResults (dst src : VTy) (part : Nat) (old : VData) (rs : List Rounded) : VData :=
  if src.count < dst.count then
    let w := dst.width * src.count
    let mask : VData := BitVec.ofNat 1024 ((2 ^ w - 1) * 2 ^ (w * part))
    (packRounded dst.width rs <<< (w * part)) ||| (old &&& ~~~mask)
  else packRounded dst.width rs

/-- R233: the results of a conversion go to `vd` with a tag, SP and side field. -/
def setPart (s : State) (vd : VReg) (dst src : VTy) (part : Nat) (sp : Bool) (side : BitVec 64) (rs : List Rounded) :
    State :=
  (s.setV vd { data := placeResults dst src part (s.vr vd).data rs, tag := dst.tag, sp := sp, side := side }).modCc
    fun k => k.raiseRounded rs

/-- R234: `vcvt`. -/
def execVcvt (vd va : VReg) (dst src : VTy) (part : Fin 8) (rnd : RMode) (sat : Bool) (s : State) : Out :=
  .next (checked s (.vcvt vd va dst src part rnd sat) (tagFault src [va]) fun s =>
    advance (setPart s vd dst src part false 0
      ((partElems dst src part (s.vr va).data).map (cvtElem s.cn dst src rnd sat))))

/-- R235: the largest finite magnitude of the code table. -/
def ctabMax (c : Core) : Ext :=
  (ctabExt c).foldl (fun a x => match x with
    | .fin _ _ _ => if (Ext.abs x).cmp a == .gt then Ext.abs x else a
    | _ => a) (.fin false 0 0)

/-- R235: qmax. -/
def qmax (c : Core) : VTy → Ext
  | .e4m3 => .fin false 448 0
  | .e5m2 => .fin false 57344 0
  | _ => ctabMax c

/-- R235: the FP32 scale of E4M3, E5M2 and CB4. -/
def quantScale (c : Core) (dst : VTy) (a : Ext) : BitVec 32 :=
  match Ext.abs a with
  | .fin _ m e =>
    let q := qmax c dst
    if m = 0 ∨ q.cmp (.fin false 0 0) = .eq then 0x3F800000
    else
      let s := rneF32 ((Ext.fin false m e).div q)
      if s = 0 then 1 else s
  | _ => 0x7FC00000

/-- R235: an element quantised under an FP32 scale. -/
def quantElem (c : Core) (dst : VTy) (rnd : RMode) (scale : Ext) (x : Ext) : Rounded :=
  let q := if scale = .nan then .nan else x.div scale
  if dst == .cb4 then toCB4 (ctabExt c) q else roundFloat dst.ffmt rnd true q

/-- R235: the E8M0 scale of a block of E2M1. DEDUCED (log 37). -/
def blockScale (xs : List Ext) : Nat :=
  if xs.any fun x => match x with | .fin _ _ _ => false | _ => true then 255
  else
    let logs := xs.filterMap fun x => match x with
      | .fin _ m e => if m = 0 then none else some ((Nat.log2 m : Int) + e)
      | _ => none
    match logs with
    | [] => 0
    | l :: t => (max 0 (min 254 (t.foldl max l - 2 + 127))).toNat

/-- R44, R235: an element of a block of E2M1; in a block with the scale 0xFF every element is +0, and a NaN or an infinity
sets NV. -/
def blockElem (rnd : RMode) (e : Nat) (x : Ext) : Rounded :=
  if e = 255 then { plain 0 with inv := match x with | .fin .. => false | .nan | .inf _ => true }
  else
    match x with
    | .fin n m k => roundFloat .e2m1 rnd false (.fin n m (k - ((e : Int) - 127)))
    | x => roundFloat .e2m1 rnd false x

/-- R235: the blocks of a part, with the side byte that each sets. -/
def quantBlocks (rnd : RMode) (xs : List Ext) : Nat → List (Nat × List Rounded)
  | 0 => []
  | n + 1 =>
    let b := xs.take 32
    let e := blockScale b
    (e, b.map (blockElem rnd e)) :: quantBlocks rnd (xs.drop 32) n

/-- R235: the side field after a part. -/
def setSideBytes (side : BitVec 64) (first : Nat) (es : List Nat) : BitVec 64 :=
  BitVec.ofNat 64 ((indexed es first).foldl (fun a p => setByte a p.1 (BitVec.ofNat 8 p.2)) side.toNat)

/-- R235: the effect of `vqnt`. -/
def vecQuant (s : State) (vd va vc : VReg) (dst src : VTy) (part : Nat) (rnd : RMode) : State :=
  let xs := (src.elems (s.vr va).data).map (elemValue s.cn src)
  if dst == .e2m1 then
    let bs := quantBlocks rnd xs (src.count / 32)
    let side := setSideBytes (s.vr vd).side (part * (src.count / 32)) (bs.map (·.1))
    setPart s vd dst src part true side (bs.flatMap (·.2))
  else
    let scale := quantScale s.cn dst (f32 (lane (s.vr vc).data 0))
    setPart s vd dst src part true (scale.setWidth 64) (xs.map (quantElem s.cn dst rnd (f32 scale)))

/-- R235: the tags that `vqnt` requires. -/
def quantFault (va vc : VReg) (dst src : VTy) (s : State) : Option TrapOf :=
  match tagFault src [va] s with
  | some t => some t
  | none => if dst == .e2m1 then none else tagFault .f32 [vc] s

/-- R235: `vqnt`. -/
def execVqnt (vd va vc : VReg) (dst src : VTy) (part : Fin 8) (rnd : RMode) (s : State) : Out :=
  .next (checked s (.vqnt vd va vc dst src part rnd) (quantFault va vc dst src) fun s =>
    advance (vecQuant s vd va vc dst src part rnd))

/-- R37: the scale of element `e` of a scaled register. -/
def elemScale (src : VTy) (side : BitVec 64) (e : Nat) : Ext :=
  if src == .e2m1 then decodeE8M0 (bits side.toNat (8 * (e / 32)) 8) else f32 (side.setWidth 32)

/-- R236: the effect of `vdq`. -/
def vecDequant (s : State) (vd va : VReg) (dst src : VTy) (part : Nat) (rnd : RMode) (sat : Bool) : State :=
  let v := s.vr va
  let rs := (indexed (partElems dst src part v.data) (part * dst.count)).map fun p =>
    roundFloat dst.ffmt rnd sat ((elemValue s.cn src p.2).mul (elemScale src v.side p.1))
  setPart s vd dst src part false 0 rs

/-- R236: `vdq`. -/
def execVdq (vd va : VReg) (dst src : VTy) (part : Fin 8) (rnd : RMode) (sat : Bool) (s : State) : Out :=
  .next (checked s (.vdq vd va dst src part rnd sat)
    (fun s => if (s.vr va).tag == src.tag && (s.vr va).sp then none else some eFmt)
    fun s => advance (vecDequant s vd va dst src part rnd sat))

/-- R237: a code-table entry as an element of the destination. -/
def lutElem (c : Core) (dst : VTy) (i : Nat) : Rounded :=
  let b := ctabEntry c i
  if decodeFloat .bf16 b = .nan then plain (if dst == .bf16 then 0x7FC0 else 0x7FC00000)
  else plain (if dst == .bf16 then b else b * 65536)

/-- R237: `vlut`. -/
def execVlut (vd va : VReg) (dst src : VTy) (part : Fin 8) (s : State) : Out :=
  .next (checked s (.vlut vd va dst src part)
    (fun s => if src == .cb4 && (s.vr va).tag != 6 then some eFmt else none)
    fun s => advance (setPart s vd dst src part false 0
      ((partElems dst src part (s.vr va).data).map (lutElem s.cn dst))))

/-- R238: `ctab.wr`. -/
def execCtabWr (va : VReg) (s : State) : Out :=
  .next (guarded s (.ctabWr va) fun s =>
    let t := Vector.ofFn fun (j : Fin 16) => elem 16 j.val (s.vr va).data
    advance (s.modCn fun c => { c with mx := { c.mx with ctab := t } }))

/-! ### Vector memory (R239, R240) -/

/-- R239: the fault of a 128-byte vector access. -/
def vecMemFault (s : State) (use : LocalUse) (sa : SReg) (off : BitVec 16) : Option TrapOf :=
  let ea := localEa (s.sr sa) off
  match laRangeOf ea.toNat 128 with
  | some .regs | some .csr => if ea.toNat % 128 ≠ 0 then some (eAlign ea) else some (ePerm ea)
  | _ => localFault s s.cur.core s.cur.ctx use ea 128

/-- R239: `vld`. -/
def execVld (vd : VReg) (sa : SReg) (off : BitVec 16) (pm : Option PReg) (ty : VTy) (s : State) : Out :=
  .next (checked s (.vld vd sa off pm ty) (fun s => vecMemFault s .load sa off) fun s =>
    let a := (localEa (s.sr sa) off).toNat
    let v := vdataOf (laBytes s.cn a 128)
    let p := predOf s pm
    let t := setLanes s vd p { data := v, tag := ty.tag }
    advance (if defers s a 128 then deferLoad t (.v vd) a 128 (.row vd p) else awaitSector t (.v vd) a 128))

/-- R239: `vst` when it is tried. -/
def tryVst (g : Regs) (s : State) (va : VReg) (sa : SReg) (off : BitVec 16) (pm : Option PReg) : Try :=
  let a := (localEa (g.sreg sa) off).toNat
  let p := g.predOf pm
  if p = 0 then .done s else tryWrite s a (vbytes (g.vreg va).data) p

/-- R239: `vst`. -/
def execVst (va : VReg) (sa : SReg) (off : BitVec 16) (pm : Option PReg) (s : State) : Out :=
  .next (if sourceBusy s (localEa (s.sr sa) off).toNat 128 then s
    else checked s (.vst va sa off pm) (fun s => vecMemFault s .store sa off) fun s =>
      orBlock s (.vst va sa off pm) (tryVst s.cc.regs s va sa off pm))

/-- R240: the trap of the first selected lane that fails; `TRAP_VAL` is the lane's address. -/
def laneFault (s : State) (use : LocalUse) (vb : VReg) (sa : SReg) (off : BitVec 16) (pm : Option PReg) :
    Option TrapOf :=
  (lanesOf (predOf s pm)).findSome? fun i =>
    let ea := laneEa (s.sr sa) off (s.vr vb).data i
    (localFault s s.cur.core s.cur.ctx use ea 4).map fun t => { t with val := ea }

/-- R240: `vgat`. -/
def execVgat (vd vb : VReg) (sa : SReg) (off : BitVec 16) (pm : Option PReg) (ty : VTy) (s : State) : Out :=
  .next (checked s (.vgat vd vb sa off pm ty) (fun s => laneFault s .load vb sa off pm) fun s =>
    let ea (i : Nat) : Nat := (laneEa (s.sr sa) off (s.vr vb).data i).toNat
    let p := predOf s pm
    let data := ofLanes fun i =>
      if p.getLsbD i then BitVec.ofNat 32 (leNat (loadBytes s s.cur.core s.cur.ctx (ea i) 4)) else 0
    let t := setLanes s vd p { data := data, tag := ty.tag }
    advance ((lanesOf p).foldl (fun t i =>
      if defers s (ea i) 4 then deferLoad t (.v vd) (ea i) 4 (.lane vd i) else awaitSector t (.v vd) (ea i) 4) t))

/-- R240, R320: the lanes of a list store, in ascending order; one that needs a log record at the stall point waits. -/
def storeLanes (ea : Nat → Nat) (v : VData) (s : State) : List Nat → Try
  | [] => .done s
  | i :: t =>
    if logStalls s.cn (ea i) 4 then .part s .waitLog i
    else storeLanes ea v (storeMasked s (ea i) (leBytes 4 (lane v i).toNat) (BitVec.allOnes 32)) t

/-- R240: `vsct` when it is tried, from a lane on. -/
def tryVsct (g : Regs) (s : State) (va vb : VReg) (sa : SReg) (off : BitVec 16) (pm : Option PReg) (from_ : Nat) : Try :=
  storeLanes (fun i => (laneEa (g.sreg sa) off (g.vreg vb).data i).toNat) (g.vreg va).data s
    ((lanesOf (g.predOf pm)).filter (from_ ≤ ·))

/-- R240: `vsct`. -/
def execVsct (va vb : VReg) (sa : SReg) (off : BitVec 16) (pm : Option PReg) (s : State) : Out :=
  let ea (i : Nat) : Nat := (laneEa (s.sr sa) off (s.vr vb).data i).toNat
  .next (if (lanesOf (predOf s pm)).any fun i => sourceBusy s (ea i) 4 then s
    else checked s (.vsct va vb sa off pm) (fun s => laneFault s .store vb sa off pm) fun s =>
      orBlock s (.vsct va vb sa off pm) (tryVsct s.cc.regs s va vb sa off pm 0))

/-! ### Tags (R241) -/

/-- R241: `vtag.rd`. -/
def execVtagRd (sd : SReg) (va : VReg) (side : Bool) (s : State) : Out :=
  .next (guarded s (.vtagRd sd va side) fun s =>
    let v := s.vr va
    advance (s.setS sd (if side then v.side else BitVec.ofNat 64 (v.tag.toNat + (if v.sp then 16 else 0)))))

/-- R241: `vtag.set`. -/
def execVtagSet (vd : VReg) (sa : SReg) (fmt : BitVec 4) (sp keep : Bool) (s : State) : Out :=
  .next (checked s (.vtagSet vd sa fmt sp keep)
    (fun _ => if validPair { tag := fmt, sp := sp } then none else some eFmt)
    fun s =>
      let v := s.vr vd
      advance (s.setV vd { v with tag := fmt, sp := sp, side := if keep then v.side else s.sr sa }))

end Sys2Proof.Machine
end

