-- ==== Sys2Proof/Machine/Matrix.lean ====
section
/-! DEFINITION. The matrix unit (R50–R54, R243–R264): issue checks, and the events in which the unit performs its
queued operations. -/

namespace Sys2Proof.Machine

/-! ### Arithmetic of a row (R50–R53) -/

/-- R36, R244: the value of an element of a weight format, under the code table captured at issue. -/
def weightValue (ctab : Vector (BitVec 16) 16) (ty : VTy) (b : Nat) : Ext :=
  if ty == .cb4 then decodeFloat .bf16 (vget ctab 0 (b % 16)).toNat else decodeFloat ty.ffmt b

/-- R244: the elements of an image row, or of an input row. -/
def weightElems (ctab : Vector (BitVec 16) 16) (ty : VTy) (v : VData) : List Ext :=
  (ty.elems v).map (weightValue ctab ty)

/-- R245: the scale of column `n`, block `g`. -/
def weightScale (w : Weight) (ty : VTy) (n g : Nat) : Ext :=
  if ty == .e2m1 then
    decodeE8M0 (bits (if n < 16 then w.scale0 else w.scale1).toNat (8 * ((8 * n + g) % 128)) 8)
  else f32 (lane w.scale0 n)

/-- R51: the K groups of a scaled operation: their number and their size. -/
def kGroups (ty : VTy) : Nat × Nat := if ty == .e2m1 then (8, 32) else (1, ty.count)

/-- R52: one K group of a scaled operation joins the sum of a column. -/
def groupSum (w : Weight) (ty : VTy) (side : BitVec 64) (n : Nat) (xs ws : List Ext) (acc : Ext) (g : Nat) : Ext :=
  let size := (kGroups ty).2
  let part (l : List Ext) : List Ext := (l.drop (g * size)).take size
  let d := f32 (rneF32 (exactDot ((part xs).zip (part ws))))
  let m := f32 (rneF32 ((elemScale ty side (g * size)).mul (weightScale w ty n g)))
  f32 (rneF32 (acc.add .rne (f32 (rneF32 (d.mul m)))))

/-- R52: the result of a column. -/
def columnSum (w : Weight) (ty : VTy) (sc : Bool) (side : BitVec 64) (xs ws : List Ext) (n : Nat) (acc : BitVec 32) :
    BitVec 32 :=
  if sc then
    rneF32 ((List.range (kGroups ty).1).foldl (groupSum w ty side n xs ws) (f32 acc))
  else rneF32 ((f32 acc).add .rne (exactDot (xs.zip ws)))

/-- R52, R53: the 32 columns of a row operation. -/
def rowResult (ctab : Vector (BitVec 16) 16) (w : Weight) (ty : VTy) (sc : Bool) (x : VVal) (a : VData) : VData :=
  let xs := weightElems ctab ty x.data
  ofLanes fun n => columnSum w ty sc x.side xs (weightElems ctab ty (vget w.tile 0 n)) n (lane a n)

/-! ### The unit's registers and rows -/

/-- A weight register. -/
def Core.weight (c : Core) (wn : Nat) : Weight := vget c.mx.w {} wn
/-- Replace a weight register. -/
def Core.setWeight (c : Core) (wn : Nat) (w : Weight) : Core := { c with mx := { c.mx with w := vset c.mx.w wn w } }

/-- R84: an accumulator row. -/
def Core.accRow (c : Core) (row : Nat) : VData := vdataOf (laBytes c (accLa row) 128)
/-- R249, R263: the unit writes an accumulator row; the write is not logged. -/
def Core.setAcc (c : Core) (row : Nat) (v : VData) : Core := c.pokeRaw (accLa row) (vbytes v)

/-- R248: what a queued operation makes of the state word of a weight register. -/
def MxOp.formatAfter (wn : Nat) (f : BitVec 4 × Bool) : MxOp → BitVec 4 × Bool
  | .ldw n _ ty sc _ _ => if n.val = wn then (ty.tag, sc) else f
  | .ldwc n _ ty sc _ _ _ => if n.val = wn then (ty.tag, sc) else f
  | .scw n _ _ => if n.val = wn then (f.1, true) else f
  | .cfg | .clr .. | .mac .. | .run .. | .rd .. => f

/-- R248: WFMT and WSP of a weight register as of issue. -/
def issuedFormat (c : Core) (wn : Nat) : BitVec 4 × Bool :=
  c.mx.queue.foldl (MxOp.formatAfter wn) ((c.weight wn).wfmt, (c.weight wn).wsp)

/-- R247: an operation enters the queue of the issuing core. -/
def enqueue (s : State) (o : MxOp) : State :=
  s.modCn fun c => { c with mx := { c.mx with queue := c.mx.queue ++ [o] } }

/-- R262: the operation at the head of a core's queue has completed. -/
def dequeue (s : State) (n : Node) : State :=
  s.modCore n fun c => { c with mx := { c.mx with queue := c.mx.queue.drop 1, done := c.mx.done + 1 } }

/-- Replace the operation at the head of a core's queue. -/
def setHead (s : State) (n : Node) (o : MxOp) : State :=
  s.modCore n fun c => { c with mx := { c.mx with queue := o :: c.mx.queue.drop 1 } }

/-! ### Issue (R247–R260) -/

/-- R108, R251, R264: the faults of `mx.ldw`: alignment first. DEDUCED (log 43). -/
def ldwFault (sa : SReg) (off : BitVec 16) (ty : VTy) (sc : Bool) (s : State) : Option TrapOf :=
  let ea := localEa (s.sr sa) off
  let len := tileBytes ty sc
  let range : Option TrapOf :=
    if ea.toNat % 128 ≠ 0 then some (eAlign ea)
    else
      match laRangeOf ea.toNat len with
      | some .scratch | some .shelf => localCheck s s.cur.core s.cur.ctx .load ea len
      | _ => some (ePerm ea)
  match range with
  | some t => some t
  | none => if ty == .bf16 && sc then some eFmt else none

/-- R251: `mx.ldw`. -/
def execMxLdw (wn : WReg) (sa : SReg) (off : BitVec 16) (ty : VTy) (sc : Bool) (s : State) : Out :=
  .next (checked s (.mxLdw wn sa off ty sc) (ldwFault sa off ty sc) fun s =>
    advance (enqueue s (.ldw wn (localEa (s.sr sa) off).toNat ty sc s.cur.ctx [])))

/-- R252: `mx.ldwc` blocks until the unit has taken its words. DEDUCED (log 43). -/
def execMxLdwc (wn : WReg) (ch : Fin 32) (ty : VTy) (sc : Bool) (s : State) : Out :=
  .next (checked s (.mxLdwc wn ch ty sc)
    (fun s => match chanFault s ch with
      | some t => some t
      | none => if ty == .bf16 && sc then some eFmt else none)
    fun s => block (enqueue s (.ldwc wn ch ty sc s.cur.ctx s.nextId [])) (.mxLdwc wn ch ty sc) .waitRecv ch)

/-- R253: the formats that `mx.scw` requires. -/
def scwFault (wn : WReg) (va : VReg) (part : Bool) (s : State) : Option TrapOf :=
  let f := (issuedFormat s.cn wn).1.toNat
  let tag : BitVec 4 := if f = 5 then 8 else 1
  if f < 3 ∨ 6 < f ∨ (part ∧ f ≠ 5) ∨ (s.vr va).tag ≠ tag then some eFmt else none

/-- R253: `mx.scw`. -/
def execMxScw (wn : WReg) (va : VReg) (part : Bool) (s : State) : Out :=
  .next (checked s (.mxScw wn va part) (scwFault wn va part) fun s =>
    advance (enqueue s (.scw wn (s.vr va).data part)))

/-- R254: a value that `MX_CFG` does not take. -/
def mxCfgBad (v : Word) : Bool :=
  let x := v.toNat
  bits x 48 16 ≠ 0 || bits x 38 2 ≠ 0 || bits x 29 3 ≠ 0 || bits x 7 9 ≠ 0 || 23 < bits x 0 5
    || bits x 25 2 == 3 || bits x 27 2 == 3

/-- R254: `mx.cfg`. -/
def execMxCfg (sd : SReg) (sa : Option SReg) (s : State) : Out :=
  .next (checked s (.mxCfg sd sa)
    (fun s => match sa with
      | some r => if mxCfgBad (s.sr r) then some (ePerm (s.sr r)) else none
      | none => none)
    fun s =>
      let old := s.cn.mx.cfg
      let s' := enqueue s .cfg
      let s' := match sa with
        | some r => s'.modCn fun c => { c with mx := { c.mx with cfg := s.sr r } }
        | none => s'
      advance (s'.setS sd old))

/-- R255: `mx.clr`. -/
def execMxClr (row : Fin 512) (n : Fin 1024) (s : State) : Out :=
  .next (guarded s (.mxClr row n) fun s => advance (enqueue s (.clr row n)))

/-- R257: the weight register fits the operation. -/
def weightFits (s : State) (wn : Nat) (ty : VTy) (sc : Bool) : Bool :=
  let f := issuedFormat s.cn wn
  f.1 == ty.tag && (!sc || (3 ≤ f.1.toNat && f.1.toNat ≤ 6 && f.2))

/-- R50, R257: the faults of a row operation. -/
def macFault (wn : WReg) (va : VReg) (ty : VTy) (sc : Bool) (cin : MacIn) (cout : MacOut) (s : State) :
    Option TrapOf :=
  let v := s.vr va
  if !weightFits s wn ty sc || v.tag != ty.tag || (sc && !v.sp) then some eFmt
  else portFault s (cin == .w) (cout != .acc)

/-- R247, R257: a row operation enters the queue with its operands. -/
def enqueueMac (s : State) (wn : WReg) (va : VReg) (row : Fin 512) (ty : VTy) (sc : Bool) (cin : MacIn)
    (cout : MacOut) : State :=
  enqueue s (.mac wn (s.vr va) row sc cin cout s.cn.mx.ctab s.cur.ctx ty none)

/-- R257: `mx.mac`. -/
def execMxMac (wn : WReg) (va : VReg) (row : Fin 512) (ty : VTy) (sc : Bool) (s : State) : Out :=
  .next (checked s (.mxMac wn va row ty sc) (macFault wn va ty sc .acc .acc) fun s =>
    advance (enqueueMac s wn va row ty sc .acc .acc))

/-- R257: `mx.macp`. -/
def execMxMacp (wn : WReg) (va : VReg) (row : Fin 512) (ty : VTy) (sc : Bool) (cin : MacIn) (cout : MacOut)
    (s : State) : Out :=
  .next (checked s (.mxMacp wn va row ty sc cin cout) (macFault wn va ty sc cin cout) fun s =>
    advance (enqueueMac s wn va row ty sc cin cout))

/-- R254: fields of `MX_CFG`. DEDUCED (log 43). -/
def cfgChan (cfg : Word) : Nat := bits cfg.toNat 0 5
/-- R254: RW. -/
def cfgWeight (cfg : Word) : Nat := bits cfg.toNat 5 2
/-- R254: RACC. -/
def cfgAcc (cfg : Word) : Nat := bits cfg.toNat 16 9
/-- R254: RSRC. -/
def cfgSrc (cfg : Word) : Nat := bits cfg.toNat 25 2
/-- R254: RDST. -/
def cfgDst (cfg : Word) : Nat := bits cfg.toNat 27 2
/-- R254: ROSTR. -/
def cfgStream (cfg : Word) : Nat := bits cfg.toNat 32 6
/-- R254: RTAG. -/
def cfgTag (cfg : Word) : Nat := bits cfg.toNat 40 8

/-- R260: the faults of `mx.run`. -/
def runFault (ty : VTy) (sc : Bool) (s : State) : Option TrapOf :=
  let cfg := s.cn.mx.cfg
  if !weightFits s (cfgWeight cfg) ty sc then some eFmt
  else
    match chanFault s (cfgChan cfg) with
    | some t => some t
    | none =>
      match (if cfgDst cfg = 1 then sendFault s (cfgStream cfg) else none) with
      | some t => some t
      | none => portFault s (cfgSrc cfg == 2) (cfgDst cfg == 2)

/-- R260: `mx.run`. -/
def execMxRun (ty : VTy) (sc : Bool) (n : BitVec 16) (k : Option (Fin 64)) (s : State) : Out :=
  .next (checked s (.mxRun ty sc n k) (runFault ty sc) fun s =>
    advance (named (enqueue s (.run s.nextId s.cn.mx.cfg ty sc n.toNat 0 k s.cn.mx.ctab s.cur.ctx s.cc.fires s.cur.pc
      none))))

/-- R256: `mx.rd`: the register awaits the unit. -/
def execMxRd (vd : VReg) (row : Fin 512) (clr : Bool) (s : State) : Out :=
  .next (guarded s (.mxRd vd row clr) fun s =>
    let t := s.modCc fun k =>
      { k with pending := k.pending.filter (fun p => p.1 ≠ .v vd) ++ [(.v vd, .request s.nextId)] }
    advance (named (enqueue t (.rd row clr s.cur.ctx vd s.nextId))))

/-- R262: `mx.sync` when it is tried: `arg` operations have left the queue. -/
def trySync (s : State) (arg : Nat) : Try := if arg ≤ s.cn.mx.done then .done s else .wait .waitMxu arg

/-- R262: `mx.sync`. -/
def execMxSync (s : State) : Out :=
  .next (guarded s .mxSync fun s =>
    orBlock s .mxSync (trySync s (s.cn.mx.done + s.cn.mx.queue.length)))

/-! ### Performing (R247, R249–R263) -/

/-- R132, R158: a blocked instruction completes in a cycle of the core: the context is READY, may issue from the next cycle
on, and what remote writes have put into its registers since it blocked stands. -/
def Ctx.wakes (k : Ctx) (b : Blocked) (cycle : Nat) : Ctx :=
  let k := { k with st := .ready, blocked := none, notBefore := cycle + 1 }
  b.pokes.foldl (fun k p => regPoke k p.1 p.2) (k.goOn b.pc b.succ cycle)

/-- R132: a blocked context becomes READY with its instruction completed, no later than the second cycle after its
condition holds. DESIGN CHOICE (log 10). -/
def resumeBlocked (s : State) (n : Node) (x : Fin 8) : State :=
  let k := s.ctx n x
  match k.blocked with
  | some b =>
    takeWaiting ((s.setCtx n x (k.wakes b (cycleOf s n + chosen s 3))).modCore n Core.refreshWatch) n x
  | none => s

/-- R193, R202: the matrix unit reads a row of the source of the `mx.ldw` at the head of its queue. -/
def readRow (s : State) (n : Node) (la : Nat) : State :=
  s.modCore n fun c =>
    match c.mx.queue with
    | .ldw wn ea ty sc x read :: rest =>
      { c with mx := { c.mx with queue := MxOp.readRows x (unitRow s n) [la] (.ldw wn ea ty sc x read) :: rest } }
    | _ => c

/-- R251: a tile with its format, and its scale image where there is one. -/
def loadedWeight (w : Weight) (ty : VTy) (sc : Bool) (tile : Vector VData 32) (s0 s1 : VData) : Weight :=
  { w with
    tile := tile, wfmt := ty.tag, wsp := sc
    scale0 := if sc then s0 else w.scale0
    scale1 := if sc && ty == .e2m1 then s1 else w.scale1 }

/-- R251, R202: `mx.ldw` performs: it reads the rows that it has not read before a store of its own context. -/
def performLdw (s : State) (n : Node) (wn : WReg) (ea : Nat) (ty : VTy) (sc : Bool) (read : AMap VData) : State :=
  let c := s.core n
  let row (a : Nat) : VData := (AMap.find read a).getD (unitRow s n a)
  let tile := Vector.ofFn fun (i : Fin 32) => row (ea + 128 * i.val)
  let w := loadedWeight (c.weight wn) ty sc tile (row (ea + 4096)) (row (ea + 4224))
  drawn (s.setCore n ((c.touchRange ea (tileBytes ty sc) false).setWeight wn w))

/-- R253: `mx.scw` performs. -/
def performScw (c : Core) (wn : WReg) (v : VData) (part : Bool) : Core :=
  let w := c.weight wn
  c.setWeight wn (if part then { w with scale1 := v, wsp := true } else { w with scale0 := v, wsp := true })

/-- R255: `mx.clr` performs. -/
def performClr (c : Core) (row n : Nat) : Core := (List.range n).foldl (fun c j => c.setAcc (row + j) 0) c

/-- R256: `mx.rd` performs; a register that no longer awaits it keeps what it holds. -/
def performRd (s : State) (n : Node) (row : Nat) (clr : Bool) (x : Fin 8) (vd : VReg) (id : Nat) : State :=
  let v := (s.core n).accRow row
  let s := if clr then s.modCore n fun c => c.setAcc row 0 else s
  if (s.ctx n x).pending.any fun p => p.2 == .request id then
    s.modCtx n x fun k => k.fillV id vd { data := v, tag := 1 }
  else s

/-- R133: a context of the core blocked, on what the unit would take, before the unit did. DEDUCED (log 42). -/
def contextFirst (c : Core) (key : WaitKey) (st : CtxState) (since : Nat) : Bool :=
  c.ctxs.toList.any fun k => k.st == st
    && (match k.blocked with
        | some b => b.key == some key && b.since < since
        | none => false)

/-- R257: the W word that the unit may take. -/
def westWord (c : Core) (since : Nat) : Option VVal :=
  match vget c.comm.nb none 3 with
  | some v => if contextFirst c (.nb 3) .waitNb since then none else some v
  | none => none

/-- R257: the operation at the head of the queue waits, dated from the cycle in which it first could not go on.
DEDUCED (log 42). -/
def unitWaits (s : State) (n : Node) (since : Option Nat) (dated : Nat → MxOp) : State :=
  match since with
  | some _ => s
  | none => named (setHead s n (dated s.nextId))

/-- R258: the word that the unit sends east. -/
def unitWord (a : VData) : VVal := { data := a, tag := 1 }

/-- R257: where the start value of a row operation comes from. -/
def macStart (c : Core) (row : Nat) (cin : MacIn) (w : VVal) : VData :=
  match cin with
  | .acc => c.accRow row
  | .zero => 0
  | .w => w.data

/-- R257: a row operation performs, or waits. -/
def performMac (s : State) (n : Node) (wn : WReg) (x : VVal) (row : Nat) (sc : Bool) (cin : MacIn) (cout : MacOut)
    (ctab : Vector (BitVec 16) 16) (ctx : Fin 8) (ty : VTy) (since : Option Nat) : State :=
  let c := s.core n
  let west := westWord c (since.getD s.nextId)
  if (cin == .w && west.isNone) || (cout != .acc && nbBusy s n 1) then
    unitWaits s n since fun t => .mac wn x row sc cin cout ctab ctx ty (some t)
  else
    let a := rowResult ctab (c.weight wn) ty sc x (macStart c row cin (west.getD {}))
    let s := if cin == .w then clearNb s n 3 else s
    let s := if cout != .e then s.modCore n fun c => c.setAcc row a else s
    let s := if cout != .acc then sendNb s n 1 (unitWord a) else s
    dequeue s n

/-- R247: the unit performs the operation at the head of its queue, unless the region is frozen (R263). -/
def execMxOpPerform (n : Node) (s : State) : Out :=
  if isFrozen s n then .next s
  else
    match (s.core n).mx.queue with
    | .ldw wn ea ty sc _ read :: _ => .next (dequeue (performLdw s n wn ea ty sc read) n)
    | .scw wn v part :: _ => .next (dequeue (s.modCore n fun c => performScw c wn v part) n)
    | .cfg :: _ => .next (dequeue s n)
    | .clr row k :: _ => .next (dequeue (s.modCore n fun c => performClr c row k) n)
    | .mac wn x row sc cin cout ctab ctx ty since :: _ =>
      .next (performMac s n wn x row sc cin cout ctab ctx ty since)
    | .rd row clr ctx vd id :: _ => .next (dequeue (performRd s n row clr ctx vd id) n)
    | .ldwc .. :: _ | .run .. :: _ | [] => .next s

/-- R252: the number of words that an `mx.ldwc` takes. -/
def ldwcWords (ty : VTy) (sc : Bool) : Nat := 32 + if sc then (if ty == .e2m1 then 2 else 1) else 0

/-- R252: word `j` of an `mx.ldwc` passes its check. -/
def ldwcAccepts (ty : VTy) (j : Nat) (v : VVal) : Bool :=
  validPair v && v.tag == (if j < 32 then ty.tag else if ty == .e2m1 then 8 else 1)

/-- R252: the last word has been taken: the register is replaced and the context wakes. -/
def finishLdwc (s : State) (n : Node) (wn : WReg) (ty : VTy) (sc : Bool) (x : Fin 8) (taken : List VData) : State :=
  let tile := Vector.ofFn fun (i : Fin 32) => taken.getD i.val 0
  let s := s.modCore n fun c =>
    c.setWeight wn (loadedWeight (c.weight wn) ty sc tile (taken.getD 32 0) (taken.getD 33 0))
  resumeBlocked (dequeue s n) n x

/-- R252: a word fails its check: the context takes a precise `E_FMT` at the `mx.ldwc`. -/
def failLdwc (s : State) (n : Node) (x : Fin 8) (j : Nat) : State :=
  let k := s.ctx n x
  match k.blocked with
  | some b =>
    takeTrap (dequeue s n) n x
      { code := 0x06, reported := false, orphan := false, pc := b.pc, val := BitVec.ofNat 64 j, rpc := b.pc,
        ctx := some x, stamp := cycleOf s n }
  | none => dequeue s n

/-- R252: the unit takes the next word of an `mx.ldwc`, or finds that it fails. -/
def execMxLdwcWordTake (n : Node) (s : State) : Out :=
  match (s.core n).mx.queue with
  | .ldwc wn ch ty sc x since taken :: _ =>
    match ((s.core n).chan ch).bind fun q => q.visible.head? with
    | none => .next s
    | some w =>
      if isFrozen s n || contextFirst (s.core n) (.chan ch) .waitRecv since then .next s
      else if !ldwcAccepts ty taken.length w.val then .next (failLdwc s n x taken.length)
      else
        let s := popChannel s n ch
        let taken := taken ++ [w.val.data]
        if taken.length = ldwcWords ty sc then .next (finishLdwc s n wn ty sc x taken)
        else .next (setHead s n (.ldwc wn ch ty sc x 0 taken))
  | _ => .next s

/-- R261: an input word fails its check. -/
def runWordBad (ty : VTy) (sc : Bool) (v : VVal) : Bool := v.tag != ty.tag || (sc && !v.sp) || !validPair v

/-- R260: the row's output can be placed. -/
def runCanPlace (s : State) (n : Node) (cfg : Word) : Bool :=
  match cfgDst cfg with
  | 1 => maySend s n (cfgStream cfg)
  | 2 => !nbBusy s n 1
  | _ => true

/-- R260: the result of a row goes where RDST says. DEDUCED (log 44). -/
def placeRow (s : State) (n : Node) (cfg : Word) (row : Nat) (a : VData) : State :=
  match cfgDst cfg with
  | 1 =>
    sendWord s n (cfgStream cfg)
      { val := unitWord a, htag := BitVec.ofNat 8 (cfgTag cfg), src := n, stream := cfgStream cfg }
  | 2 => sendNb s n 1 (unitWord a)
  | _ => s.modCore n fun c => c.setAcc row a

/-- R260: row `q` of a run performs. -/
def runRow (s : State) (n : Node) (cfg : Word) (ty : VTy) (sc : Bool) (q : Nat) (ctab : Vector (BitVec 16) 16)
    (x : VVal) (w : VVal) : State :=
  let c := s.core n
  let row := (cfgAcc cfg + q) % 512
  let start : VData := match cfgSrc cfg with | 0 => c.accRow row | 1 => 0 | _ => w.data
  let a := rowResult ctab (c.weight (cfgWeight cfg)) ty sc x start
  let s := popChannel s n (cfgChan cfg)
  let s := if cfgSrc cfg = 2 then clearNb s n 3 else s
  placeRow s n cfg row a

/-- R260: the end of a run. -/
def finishRun (s : State) (n : Node) (k : Option (Fin 64)) : State :=
  match k with
  | some k => addCounter (dequeue s n) n k 1
  | none => dequeue s n

/-- R260, R261: the unit takes the next row of a run, waits, or ends the run at a word that fails. -/
def execMxRunRow (n : Node) (s : State) : Out :=
  match (s.core n).mx.queue with
  | .run id cfg ty sc total q k ctab x fires pc since :: _ =>
    if isFrozen s n then .next s
    else
      let c := s.core n
      let at_ := since.getD s.nextId
      let word := (c.chan (cfgChan cfg)).bind fun ch => ch.visible.head?
      let west := westWord c at_
      match word with
      | some w =>
        if contextFirst c (.chan (cfgChan cfg)) .waitRecv at_ || (cfgSrc cfg == 2 && west.isNone)
            || !runCanPlace s n cfg then
          .next (unitWaits s n since fun t => .run id cfg ty sc total q k ctab x fires pc (some t))
        else if runWordBad ty sc w.val then
          .next (report (dequeue s n) n x fires id 0x06 pc (BitVec.ofNat 64 q))
        else
          let s := runRow s n cfg ty sc q ctab w.val (west.getD {})
          if q + 1 = total then .next (finishRun s n k)
          else .next (setHead s n (.run id cfg ty sc total (q + 1) k ctab x fires pc (some 0)))
      | none => .next (unitWaits s n since fun t => .run id cfg ty sc total q k ctab x fires pc (some t))
  | _ => .next s

end Sys2Proof.Machine
end

