-- ==== Sys2Proof/Machine/Dealer.lean ====
section
/-! DEFINITION. Dealers and Decks (R58, R290–R310): kicks, mailboxes, range queries, Deck words, the data engine and
the arrivals at and from Dealers. -/

namespace Sys2Proof.Machine

/-! ### Kicks, mailboxes and range queries at a core (R293–R296) -/

/-- R293: a GA that names no Dealer. -/
def kickFault (s : State) (sa : Word) : Option TrapOf :=
  let n := gaNode sa
  if gaBad s sa || !(isHub n || isBridge n) || gaLa sa ≠ 0 then some (ePerm sa)
  else if (physGa s (nodeWafer s.cur.core) sa).isNone then some ⟨0x05, sa⟩
  else none

/-- R199, R293: the context's earlier writes that a kick waits for: requests and stores homed in the Dealer's reach, and
words, for as long as they may come to be. -/
def kickAfter (s : State) (d : Node) : List Nat :=
  let reach := kickReach s s.cur.core d
  ((myTracks s).filter fun t => t.isWriteT && reach (homeOf s (nodeWafer s.cur.core) t.ga)).map (·.id)
    ++ (if reach s.cur.core then ((myLater s).filter (·.isStore)).map (·.id) else [])
    ++ wordsOut s s.cur.core s.cur.ctx

/-- R293: `coll.kick`: the context is not issuable until the Dealer answers. -/
def execCollKick (sa sb sc : SReg) (vec : Fin 8) (s : State) : Out :=
  .next (checked s (.collKick sa sb sc vec) (fun s => kickFault s (s.sr sa)) fun s =>
    let d := homeOf s (nodeWafer s.cur.core) (s.sr sa)
    post (s.modCc fun k => { k with kick := some s.cur.succ }) s.cur.core (kickAfter s d)
      (.kick s.cur.core s.cur.ctx d vec (s.sr sb) (s.sr sc) s.cur.pc))

/-- R295: the value of a mailbox of the executing core. -/
def mailbox (s : State) (m : Fin 4) : Word := s.cn.sync.mb[m]

/-- R295: `coll.wait` when it is tried. -/
def tryCollWait (g : Regs) (s : State) (sd sa : SReg) (m : Fin 4) : Try :=
  let w := mailbox s m
  if cntReached false (w.setWidth 32) ((g.sreg sa).setWidth 32) then .done (s.setS sd w) else .wait .waitColl 0

/-- R295: `coll.wait`. -/
def execCollWait (sd sa : SReg) (m : Fin 4) (s : State) : Out :=
  .next (guarded s (.collWait sd sa m) fun s =>
    orBlock s (.collWait sd sa m) (tryCollWait s.cc.regs s sd sa m))

/-- R305: an entry of a range table is armed. -/
def rangeArmed (c : Core) (e : Nat) : Bool := (vget c.comm.range 0 e).getLsbD 31

/-- R296: the result of `coll.rng`. -/
def rangeQuery (c : Core) (la : Nat) : Word :=
  BitVec.ofNat 64 ((List.range 8).foldl (fun a e =>
    a + (if rangeArmed c e then 2 ^ e else 0) + (if rangeHits c e la 1 then 2 ^ (8 + e) else 0)) 0)

/-- R296: a query of the range table joins those that see it at the end of the cycle; its register awaits it. -/
def askRange (s : State) (sd : SReg) (la : Nat) : State :=
  if sd = 0 then s
  else
    named ((s.modCc fun k => (k.forget (.s sd)).await (.s sd) (.request s.nextId)).modCn fun c =>
      { c with comm := { c.comm with rangeAsk := c.comm.rangeAsk ++
        [{ id := s.nextId, ctx := s.cur.ctx, fires := s.cc.fires, dest := sd, la := la }] } })

/-- R296: `coll.rng`. -/
def execCollRng (sd sa : SReg) (s : State) : Out :=
  .next (guarded s (.collRng sd sa) fun s => advance (askRange s sd (bits (s.sr sa).toNat 0 32)))

/-- R296: a query sees the table; its register takes the answer if it still awaits it. -/
def answerRange (n : Node) (s : State) (q : RangeAsk) : State :=
  let k := s.ctx n q.ctx
  if k.fires == q.fires && k.pending.any fun p => p.2 == .request q.id then
    s.setCtx n q.ctx ((k.fillS q.id q.dest (rangeQuery (s.core n) q.la)).arrived q.id)
  else s

/-- R296: the queries of a core's range table in the cycle that ends are answered. -/
def answerRanges (s : State) (n : Node) : State :=
  ((s.core n).comm.rangeAsk.foldl (answerRange n) s).modCore n fun c =>
    { c with comm := { c.comm with rangeAsk := [] } }

/-! ### Deck faults (R298) -/

/-- R305: the owner fields of an entry that a Dealer arms. -/
def rangeOwner (d : Node) : Nat :=
  if isBridge d then 2 ^ 30 + (nodeNum d - 0xFF00) * 2 ^ 20 else clusterOf d * 2 ^ 20

/-- R305: an armed entry is the Dealer's. -/
def ownsRange (d : Node) (w : Word) : Bool := w.getLsbD 31 && bits w.toNat 20 11 == bits (rangeOwner d) 20 11

/-- The cores of the regions that a Dealer serves. -/
def servedCores (s : State) (d : Node) : List Node := (regionsOf s d).flatMap fun r => slotCores s r.1 r.2

/-- R304, R306: an entry of a core's range table changes at the end of the cycle. -/
def setRange (s : State) (n : Node) (e : Nat) (w : Word) : State :=
  s.modCore n fun c => { c with comm := { c.comm with rangeNext := c.comm.rangeNext ++ [(e, w)] } }

/-- R304, R306: the entries that change at the end of the cycle have changed. -/
def Core.takeRange (c : Core) : Core :=
  { c with comm := { c.comm with
      range := c.comm.rangeNext.foldl (fun r p => vset r p.1 p.2) c.comm.range, rangeNext := [] } }

/-- R198, R306: an entry as the arms and disarms that have arrived leave it. -/
def rangeEntry (s : State) (n : Node) (e : Nat) : Word := vget (s.core n).takeRange.comm.range 0 e

/-- R298: every range-table entry that a Dealer armed is disarmed. -/
def disarmAll (s : State) (d : Node) : State :=
  (servedCores s d).foldl (fun s n =>
    s.modCore n fun c =>
      let f (w : Word) : Word := if ownsRange d w then 0 else w
      { c with comm := { c.comm with
          range := c.comm.range.map f, rangeNext := c.comm.rangeNext.map fun p => (p.1, f p.2) } }) s

/-- R298: a Deck fault halts the Dealer and machine-checks every region that it serves. -/
def deckFault (s : State) (d : Node) (cause : Nat) (pc : Nat) : State :=
  let s := s.setDealer d { s.dealer d with
    st := .halted, cause := BitVec.ofNat 8 cause, faultPc := dkIndex pc, engine := [] }
  let s := disarmAll s d
  machineCheckAt s d 5 (dkSts (s.dealer d))

/-! ### Registers and advancing (R290, R294, R308) -/

/-- R290: a register of a Dealer; `d0` reads as zero. -/
def Dealer.reg (d : Dealer) (r : DReg) : Word := if r = 0 then 0 else d.d[r]
/-- R290: write a register of a Dealer; a write to `d0` is discarded. -/
def Dealer.setReg (d : Dealer) (r : DReg) (x : Word) : Dealer := if r = 0 then d else { d with d := d.d.set r x }

/-- R308: the Dealer goes on after a word that did not transfer control. -/
def Dealer.goOn (d : Dealer) : Dealer :=
  if d.pc = d.lpEnd ∧ 2 ≤ d.lpCnt.toNat then { d with lpCnt := d.lpCnt - 1, pc := d.lpBeg, st := .running }
  else if d.pc = d.lpEnd ∧ d.lpCnt = 1 then { d with lpCnt := 0, pc := d.pc + 1, st := .running }
  else { d with pc := d.pc + 1, st := .running }

/-- R24: the number of words of the installed Deck. -/
def Dealer.length (d : Dealer) : Nat := (d.deck.map (·.words.length)).getD 0

/-- R1, R290: the cycle of a Dealer: a hub's runs on the clock of its cluster. -/
def dealerCycle (s : State) (n : Node) : Nat := if isHub n then cycleOf s n else s.now

/-- R299: the Dealer that runs issues a word, at most one in a cycle, unless its domain is frozen. -/
def dealing (s : State) (k : State → Dealer → State) : State :=
  let d := s.dealer s.cur.dealer
  let now := dealerCycle s s.cur.dealer
  if (d.st = .running ∨ d.st = .waiting) ∧ d.issueFrom ≤ now ∧ !dealerFrozen s s.cur.dealer ∧ powered s s.cur.dealer then
    k s { d with issueFrom := now + 1 }
  else s

/-- R299: the Dealer cannot issue its word yet. -/
def dealWait (s : State) : State := s.setDealer s.cur.dealer { s.dealer s.cur.dealer with st := .waiting }

/-- R299: a word has taken effect, and the Dealer goes on. -/
def dealNext (s : State) (d : Dealer) : State := s.setDealer s.cur.dealer d.goOn

/-- R298: the word at `DK_PC` fails its check. DEDUCED (log 53). -/
def dealFault (s : State) (cause : Nat) : State := deckFault s s.cur.dealer cause (s.dealer s.cur.dealer).pc

/-- R298: a transfer of control; a target at or above w is a fault. DEDUCED (log 53). -/
def dealJump (s : State) (d : Dealer) (t : Nat) : State :=
  if d.length ≤ t then dealFault s 7 else s.setDealer s.cur.dealer { d with pc := t, st := .running }

/-! ### Control words (R308) -/

/-- R308: `dk.set`. -/
def execDkSet (ra : DReg) (hi : Bool) (imm : BitVec 32) (s : State) : Out :=
  .next (dealing s fun s d =>
    dealNext s (d.setReg ra (if hi then imm ++ (d.reg ra).setWidth 32 else imm.signExtend 64)))

/-- R308: the functions of `dk.add`. -/
def dkFn (fn : DkFn) (b y : Word) : Word :=
  match fn with
  | .add => b + y
  | .sub => b - y
  | .and => b &&& y
  | .shl => b <<< (y.toNat % 64)

/-- R308: `dk.add`. -/
def execDkAdd (ra rb rc : DReg) (fn : DkFn) (imm : BitVec 32) (s : State) : Out :=
  .next (dealing s fun s d => dealNext s (d.setReg ra (dkFn fn (d.reg rb) (d.reg rc + imm.signExtend 64))))

/-- R308: `dk.jmp`. -/
def execDkJmp (target : Fin 8192) (s : State) : Out := .next (dealing s fun s d => dealJump s d target)

/-- R308: `dk.bnz`; a target at or above w is a fault whether or not it is taken. DEDUCED (log 53). -/
def execDkBnz (ra : DReg) (target : Fin 8192) (s : State) : Out :=
  .next (dealing s fun s d =>
    if d.length ≤ target then dealFault s 7
    else if d.reg ra ≠ 0 then dealJump s d target
    else dealNext s d)

/-- R308: `dk.loop`. -/
def execDkLoop (ra : DReg) (last : Fin 8192) (s : State) : Out :=
  .next (dealing s fun s d =>
    if d.length ≤ last then dealFault s 7
    else
      let n := (d.reg ra).setWidth 32
      let d := { d with lpBeg := d.pc + 1, lpEnd := last.val, lpCnt := n }
      s.setDealer s.cur.dealer { d with pc := if n = 0 then last + 1 else d.pc + 1, st := .running })

/-! ### Data words at issue (R297–R304) -/

/-- R297: 256 · 2^SZ bytes. -/
def dkSize (sz : Fin 9) : Nat := 256 * 2 ^ sz.val

/-- R297: the buffer offset of a word. -/
def dkOffset (d : Dealer) (ra : DReg) (off : Fin 8192) : Nat := (d.reg ra + BitVec.ofNat 64 (256 * off.val)).toNat

/-- R297: the effective stream. -/
def dkStream (d : Dealer) (rc : DReg) (stream : Fin 64) : Nat := (stream.val + (d.reg rc).toNat) % 64

/-- R290, R298: the Deck area. -/
def deckArea : Nat := 0x180000

/-- R298: a buffer span that fails its check. -/
def spanBad (o n : Nat) : Bool := o % 256 ≠ 0 || deckArea < o + n

/-- The target lies in a region that the Dealer serves. -/
def servedTarget (s : State) (d t : Node) : Bool := (regionsOf s t).any (regionsOf s d).contains

/-- R298: a remote access that a Dealer's word may not make. -/
def remoteBad (s : State) (d : Node) (ga : Word) (n : Nat) (use : RemoteUse) : Bool :=
  if gaBadAt s (nodeWafer d) ga then true
  else
    match physGa s (nodeWafer d) ga with
    | none => true
    | some p =>
      !servedTarget s d (gaNode p) || (refusal s (gaNode p) d use (gaLa p) n).isSome

/-- R177, R302, R303: the 128-byte-aligned pieces of the remote source of a data word: offsets and lengths. -/
def sourcePieces (i : Instr) (ga : Word) : List (Nat × Nat) :=
  match i with
  | .dkSend _ _ _ sz _ _ g _ => if g then pieces (gaLa ga) (dkSize sz) else []
  | .dkCopy _ _ sz .. => pieces (gaLa ga) (dkSize sz)
  | _ => []

/-- R299: a data word enters the engine, or waits while it is full. -/
def enterEngine (s : State) (d : Dealer) (i : Instr) (off : Nat) (ga : Word) (stream : Nat) : State :=
  if 8 ≤ d.engine.length then dealWait s
  else
    let q := (d.reg 4).toNat % 4
    let op : DkOp :=
      { id := s.nextId, instr := i, pc := d.pc, off := off, ga := ga, stream := stream, inst := q,
        todo := sourcePieces i ga }
    dealNext (named s) { d with engine := d.engine ++ [op] }

/-- R302: `dk.send`. DEDUCED (log 54). -/
def execDkSend (ra rb rc : DReg) (sz : Fin 9) (stream : Fin 64) (ctag : BitVec 8) (g : Bool) (off : Fin 8192)
    (s : State) : Out :=
  .next (dealing s fun s d =>
    let i := Instr.dkSend ra rb rc sz stream ctag g off
    let o := dkOffset d ra off
    if !g && spanBad o (dkSize sz) then dealFault s 2
    else if g && remoteBad s s.cur.dealer (d.reg rb) (dkSize sz) .read then dealFault s 4
    else enterEngine s d i o (if g then d.reg rb else 0) (dkStream d rc stream))

/-- R302: `dk.recv`. -/
def execDkRecv (ra rc : DReg) (sz : Fin 9) (stream : Fin 64) (ctag : BitVec 8) (off : Fin 8192) (s : State) : Out :=
  .next (dealing s fun s d =>
    let o := dkOffset d ra off
    if spanBad o (dkSize sz) then dealFault s 2
    else enterEngine s d (.dkRecv ra rc sz stream ctag off) o 0 (dkStream d rc stream))

/-- R302: `dk.rred`. -/
def execDkRred (ra rc : DReg) (sz : Fin 9) (stream : Fin 64) (ctag : BitVec 8) (rop : ROp) (bf16 : Bool)
    (off : Fin 8192) (s : State) : Out :=
  .next (dealing s fun s d =>
    let o := dkOffset d ra off
    if spanBad o (dkSize sz * if bf16 then 2 else 1) then dealFault s 2
    else enterEngine s d (.dkRred ra rc sz stream ctag rop bf16 off) o 0 (dkStream d rc stream))

/-- R303: `dk.copy`. DEDUCED (log 54). -/
def execDkCopy (ra rb : DReg) (sz : Fin 9) (rop : ROp) (widen acc : Bool) (off : Fin 8192) (s : State) : Out :=
  .next (dealing s fun s d =>
    let o := dkOffset d ra off
    if spanBad o (dkSize sz * if widen then 2 else 1) then dealFault s 2
    else if remoteBad s s.cur.dealer (d.reg rb) (dkSize sz) .read then dealFault s 4
    else enterEngine s d (.dkCopy ra rb sz rop widen acc off) o (d.reg rb) 0)

/-- R304: `dk.put`. -/
def execDkPut (ra rb : DReg) (sz : Fin 9) (k : Fin 64) (dis : Bool) (ent : Fin 8) (bf16 : Bool) (off : Fin 8192)
    (s : State) : Out :=
  .next (dealing s fun s d =>
    let o := dkOffset d ra off
    if spanBad o (dkSize sz) then dealFault s 2
    else if remoteBad s s.cur.dealer (d.reg rb) (dkSize sz / if bf16 then 2 else 1) .dealer then dealFault s 4
    else enterEngine s d (.dkPut ra rb sz k dis ent bf16 off) o (d.reg rb) 0)

/-! ### Range and synchronisation words (R305–R309) -/

/-- The core of the pod that a Dealer's register names. -/
def dkTarget (s : State) (ga : Word) : Node := homeOf s (nodeWafer s.cur.dealer) ga

/-- R299: an earlier `dk.put` to a core has still to leave. -/
def putsUnsent (s : State) (d : Dealer) (t : Node) : Bool :=
  d.engine.any fun o => !o.sent && (match o.instr with | .dkPut .. => dkTarget s o.ga == t | _ => false)

/-- R306: a range that `dk.arm` does not take. -/
def armBad (s : State) (d : Node) (ga : Word) (len : Word) : Bool :=
  let t := homeOf s (nodeWafer d) ga
  let a := gaLa ga
  let n := len.toNat
  gaBadAt s (nodeWafer d) ga || (physGa s (nodeWafer d) ga).isNone || !isCore t || !servedTarget s d t
    || a % 128 ≠ 0 || n % 128 ≠ 0 || n < 128 || 2 ^ 25 < n
    || (match laRangeOf a n with
        | some .scratch => false
        | some .shelf => shelfTop (s.core t) < a + n
        | _ => true)

/-- R306: `dk.arm`. -/
def execDkArm (rb rc : DReg) (ent : Fin 8) (s : State) : Out :=
  .next (dealing s fun s d =>
    let ga := d.reg rb
    if armBad s s.cur.dealer ga (d.reg rc) then dealFault s 4
    else if putsUnsent s d (dkTarget s ga) then dealWait s
    else dealNext (post s s.cur.dealer [] (.arm s.cur.dealer (dkTarget s ga) ent (gaLa ga) (d.reg rc).toNat d.pc)) d)

/-- R298: a core that a range word, `dk.done` or `dk.sig` may not name. -/
def coreBad (s : State) (ga : Word) : Bool :=
  gaBadAt s (nodeWafer s.cur.dealer) ga || (physGa s (nodeWafer s.cur.dealer) ga).isNone || !isCore (dkTarget s ga)
    || !servedTarget s s.cur.dealer (dkTarget s ga)

/-- R306: `dk.disarm`. -/
def execDkDisarm (rb : DReg) (ent : Fin 8) (s : State) : Out :=
  .next (dealing s fun s d =>
    let ga := d.reg rb
    if coreBad s ga then dealFault s 4
    else if putsUnsent s d (dkTarget s ga) then dealWait s
    else dealNext (post s s.cur.dealer [] (.arm s.cur.dealer (dkTarget s ga) ent 0 0 d.pc)) d)

/-- R307: `dk.wait`. -/
def execDkWait (ra : DReg) (g : Fin 8) (s : State) : Out :=
  .next (dealing s fun s d =>
    if cntReached false d.g[g] ((d.reg ra).setWidth 32) then dealNext s d else dealWait s)

/-- R199, R307, R309: every earlier word of the instance has completed, arms, disarms and signals included. -/
def dealQuiet (s : State) (d : Dealer) : Bool :=
  d.engine.isEmpty && !s.net.any fun m => match m.kind with
    | .arm n .. => n == s.cur.dealer
    | .signal .. => m.src == s.cur.dealer
    | _ => false

/-- R307: a Dealer outside the recovery domain. -/
def signalBad (s : State) (ga : Word) : Bool :=
  let t := dkTarget s ga
  gaBadAt s (nodeWafer s.cur.dealer) ga || (physGa s (nodeWafer s.cur.dealer) ga).isNone || !(isHub t || isBridge t)
    || dealerDomain s t != dealerDomain s s.cur.dealer || (dealerDomain s t).isNone

/-- R307: `dk.sig`. -/
def execDkSig (rb : DReg) (g : Fin 8) (s : State) : Out :=
  .next (dealing s fun s d =>
    if signalBad s (d.reg rb) then dealFault s 4
    else if !dealQuiet s d then dealWait s
    else dealNext (post s s.cur.dealer [] (.signal (dkTarget s (d.reg rb)) g)) d)

/-- R300: the core at whose router a Dealer attaches. -/
def dealerRouter (n : Node) : Node :=
  if isHub n then (clusterCores (nodeWafer n) (clusterOf n)).headD 0
  else mkNode (nodeWafer n) (attachCore (nodeNum n - 0xFF00))

/-- R365: the bridge Dealer at the far end of the optical port of a stream, where the link is up. DEDUCED (log 33). -/
def opticalPeer (s : State) (n : Node) (stream : Nat) : Option Node :=
  let o := vget (s.bridge n).ports {} (stream - 60)
  if o.up then
    (waferKey s (nodeWafer n) (bits o.entry.toNat 16 4)).map fun w => mkNode w (0xFF00 + bits o.entry.toNat 8 5)
  else none

/-- R300, R365: a word leaves by an optical port. -/
def isOptical (n : Node) (stream : Nat) : Bool := isBridge n && 60 ≤ stream

/-- R300, R365: a Dealer sends a word on a chunk stream; on an optical stream whose link is down nothing leaves. A word of
a bridge's Dealer names the domain of its Deck (R312). -/
def dealerSend (s : State) (n : Node) (w : ChWord) : State :=
  let w := { w with dom := if isBridge n then dealerDomain s n else none }
  if isOptical n w.stream then
    match opticalPeer s n w.stream with
    | some p => post s n [] (.chunk p w)
    | none => s
  else post s n [] (.word (dealerRouter n) 4 w)

/-- R365: the stream's first hop exists. DEDUCED (log 33). -/
def canDealerSend (s : State) (n : Node) (stream : Nat) : Bool :=
  !isOptical n stream || (opticalPeer s n stream).isSome

/-- R307: `dk.step` sends a marker behind every chunk that the Dealer has sent on the stream. -/
def execDkStep (rc : DReg) (stream : Fin 64) (s : State) : Out :=
  .next (dealing s fun s d =>
    let st := dkStream d rc stream
    if !d.engine.isEmpty || !canDealerSend s s.cur.dealer st then dealWait s
    else dealNext (dealerSend s s.cur.dealer { mark := true, src := s.cur.dealer, stream := st, lot := s.nextId }) d)

/-- R309: `dk.sealpt`. -/
def execDkSealpt (s : State) : Out :=
  .next (dealing s fun s d =>
    if !d.engine.isEmpty then dealWait s else s.setDealer s.cur.dealer { d.goOn with st := .sealpt })

/-- R294, R309: `dk.done` writes a mailbox and ends the instance. DESIGN CHOICE (log 114). -/
def execDkDone (ra rb : DReg) (m : Fin 4) (s : State) : Out :=
  .next (dealing s fun s d =>
    let ga := d.reg rb
    if coreBad s ga then dealFault s 4
    else if !dealQuiet s d then dealWait s
    else
      (post s s.cur.dealer [] (.mailbox (dkTarget s ga) m ((d.reg ra).setWidth 32))).setDealer s.cur.dealer
        { d.goOn with st := .idle, kicks := d.kicks.drop 1 })

/-! ### The data engine (R299, R301–R304) -/

/-- R299: the buffer span of a data word: first byte and length. -/
def DkOp.span (o : DkOp) : Nat × Nat :=
  match o.instr with
  | .dkSend _ _ _ sz _ _ g _ => if g then (0, 0) else (o.off, dkSize sz)
  | .dkRecv _ _ sz _ _ _ => (o.off, dkSize sz)
  | .dkRred _ _ sz _ _ _ bf16 _ => (o.off, dkSize sz * if bf16 then 2 else 1)
  | .dkCopy _ _ sz _ widen _ _ => (o.off, dkSize sz * if widen then 2 else 1)
  | .dkPut _ _ sz .. => (o.off, dkSize sz)
  | _ => (0, 0)

/-- R299: no earlier data word that is still in progress has an overlapping span. -/
def mayAccess (d : Dealer) (o : DkOp) : Bool :=
  !(d.engine.any fun e => e.id < o.id && overlaps e.span.1 e.span.2 o.span.1 o.span.2)

/-- R302–R304: the number of bytes that a data word reaches at its GA. -/
def DkOp.reach (o : DkOp) : Nat :=
  match o.instr with
  | .dkSend _ _ _ sz _ _ g _ => if g then dkSize sz else 0
  | .dkCopy _ _ sz .. => dkSize sz
  | .dkPut _ _ sz _ _ _ bf16 _ => dkSize sz / if bf16 then 2 else 1
  | _ => 0

/-- R194: no earlier data word in progress reaches a byte that this one reaches at the same core. -/
def reachFree (s : State) (n : Node) (d : Dealer) (o : DkOp) : Bool :=
  !d.engine.any fun e => e.id < o.id && homeOf s (nodeWafer n) e.ga == homeOf s (nodeWafer n) o.ga
    && overlaps (gaLa e.ga) e.reach (gaLa o.ga) o.reach

/-- R301: CUR. DEDUCED (log 57). -/
def Dealer.curInst (d : Dealer) : Nat := if d.st = .idle then d.inst.toNat else (d.reg 4).toNat

/-- R302: a chunk word's stream and CTAG that a data word takes. -/
def DkOp.takes (o : DkOp) : Option (Nat × BitVec 8) :=
  match o.instr with
  | .dkRecv _ _ _ _ ctag _ => some (o.stream, ctag)
  | .dkRred _ _ _ _ ctag _ _ _ => some (o.stream, ctag)
  | _ => none

/-- R301: the chunk that a data word matches: the oldest eligible one that no earlier word takes. -/
def matchChunk (d : Dealer) (o : DkOp) : Option Held :=
  match o.takes with
  | none => none
  | some key =>
    let before := (d.engine.filter fun e => e.id < o.id && e.takes == some key).length
    ((d.held.filter fun h => (h.stream, h.ctag) == key && h.inst % 4 == d.curInst % 4).drop before).head?

/-- R300: the number of words of a chunk. -/
def chunkWords (sz : Nat) : Nat := 2 ^ (sz + 1)

/-- The name of a chunk in the holding area. -/
def Held.same (a b : Held) : Bool := a == b

/-- A chunk leaves the holding area. -/
def Dealer.dropHeld (d : Dealer) (h : Held) : Dealer := { d with held := d.held.erase h }

/-- A data word leaves the engine. -/
def Dealer.finish (d : Dealer) (o : DkOp) : Dealer := { d with engine := d.engine.filter (·.id ≠ o.id) }

/-- Replace a data word in the engine. -/
def Dealer.update (d : Dealer) (o : DkOp) : Dealer :=
  { d with engine := d.engine.map fun e => if e.id = o.id then o else e }

/-- Bytes of the Deck area. -/
def Dealer.read (d : Dealer) (o n : Nat) : List Byte := spanBytes d.area d.undef o n
/-- Write bytes of the Deck area. -/
def Dealer.write (d : Dealer) (o : Nat) (bs : List Byte) : Dealer :=
  { d with area := memWrite d.area o bs, undef := cutSpans o bs.length d.undef }

/-- The 32-bit values of a list of bytes. -/
def words32 : List Byte → List (BitVec 32)
  | a :: b :: c :: d :: t => BitVec.ofNat 32 (leNat [a, b, c, d]) :: words32 t
  | _ => []

/-- R41, R302: BF16 elements widened exactly to FP32, a NaN to the canonical one. -/
def widen16 : List Byte → List (BitVec 32)
  | a :: b :: t => rneF32 (f32 (BitVec.ofNat 32 (leNat [a, b] * 65536))) :: widen16 t
  | _ => []

/-- R58, R302: one element of a reduction. -/
def reduceElem (op : ROp) (b x : BitVec 32) : BitVec 32 :=
  match op with
  | .sum => rneF32 ((f32 b).add .rne (f32 x))
  | .max => rneF32 ((f32 b).max (f32 x))
  | .min => rneF32 ((f32 b).min (f32 x))

/-- The bytes of 32-bit values. -/
def bytes32 (l : List (BitVec 32)) : List Byte := l.flatMap fun x => leBytes 4 x.toNat

/-- R302, R303: elements combined into the Deck area at an offset. -/
def Dealer.combine (d : Dealer) (op : ROp) (o : Nat) (xs : List (BitVec 32)) : Dealer :=
  d.write o (bytes32 (List.zipWith (reduceElem op) (words32 (d.read o (4 * xs.length))) xs))

/-- R302: a whole chunk takes effect. -/
def takeChunk (d : Dealer) (o : DkOp) (h : Held) : Dealer :=
  let bs := h.data.flatMap vbytes
  match o.instr with
  | .dkRecv .. => d.write o.off bs
  | .dkRred _ _ _ _ _ rop bf16 _ => d.combine rop o.off (if bf16 then widen16 bs else words32 bs)
  | _ => d

/-- R302: a `dk.recv` or a `dk.rred` in the engine: the size is checked at the match, and the word completes when the
whole chunk has arrived. -/
def stepTake (s : State) (n : Node) (o : DkOp) (sz : Fin 9) : State :=
  let d := s.dealer n
  match matchChunk d o with
  | none => s
  | some h =>
    if h.sz ≠ sz then deckFault s n 3 o.pc
    else if h.data.length < chunkWords h.sz ∨ !mayAccess d o then s
    else s.setDealer n (((takeChunk d o h).dropHeld h).finish o)

/-- R300: word `i` of a chunk that a data word sends. -/
def chunkWord (n : Node) (o : DkOp) (sz : Nat) (ctag : BitVec 8) (i : Nat) (bs : List Byte) : ChWord :=
  { val := { data := vdataOf bs }, src := n, stream := o.stream, lot := o.id
    chunk := some { sz := sz, ctag := ctag, inst := o.inst, sender := n, index := i } }

/-- R302: words of a chunk that have not left the attachment router. -/
def wordsAtRouter (s : State) (n : Node) (o : DkOp) : Bool :=
  s.net.any fun m => match m.kind with
    | .word a 4 w => a == dealerRouter n && w.chunk.isSome && w.lot == o.id
    | _ => false

/-- R302: an earlier data word has still to send on the stream. -/
def sendsBefore (d : Dealer) (o : DkOp) : Bool :=
  d.engine.any fun e => e.id < o.id && !e.sent && e.stream == o.stream
    && (match e.instr with | .dkSend .. => true | _ => false)

/-- R177, R302, R303: a data word reads one of the pieces of its remote source that it has still to read, unless a `put.h`
holds it back at the target's port (R126); which one the spec leaves open. DESIGN CHOICE (log 8). -/
def readSource (s : State) (n : Node) (o : DkOp) : State :=
  match o.todo[chosen s o.todo.length]? with
  | none => s
  | some p =>
    let ga := o.ga + BitVec.ofNat 64 p.1
    let t := homeOf s (nodeWafer n) ga
    if portHeld s n t none then s
    else if remoteBad s n ga p.2 .read then deckFault s n 4 o.pc
    else
      let o' := { o with todo := o.todo.erase p, got := AMap.put o.got p.1 (laBytes (s.core t) (gaLa ga) p.2) }
      let s := s.modCore t fun c => c.touchRange (gaLa ga) p.2 false
      drawn (s.setDealer n ((s.dealer n).update o'))

/-- The bytes of a remote source that has been read. -/
def DkOp.bytes (o : DkOp) : List Byte := o.got.flatMap (·.2)

/-- R302: a `dk.send` in the engine: it reads its data, sends its words, and completes when the last has left. -/
def stepSend (s : State) (n : Node) (o : DkOp) (sz : Fin 9) (ctag : BitVec 8) (g : Bool) : State :=
  let d := s.dealer n
  if o.sent then (if wordsAtRouter s n o then s else s.setDealer n (d.finish o))
  else if !mayAccess d o || !reachFree s n d o then s
  else if !o.todo.isEmpty then readSource s n o
  else if sendsBefore d o || !canDealerSend s n o.stream then s
  else
    let bs := if g then o.bytes else d.read o.off (dkSize sz)
    let s := s.setDealer n (d.update { o with sent := true })
    (List.range (chunkWords sz)).foldl (fun s i =>
      dealerSend s n (chunkWord n o sz ctag i ((bs.drop (128 * i)).take 128))) s

/-- R303: a `dk.copy` takes effect in the span once its source has been read. -/
def takeCopy (d : Dealer) (o : DkOp) (rop : ROp) (widen acc : Bool) : Dealer :=
  let xs := if widen then widen16 o.bytes else words32 o.bytes
  if acc then d.combine rop o.off xs else d.write o.off (bytes32 xs)

/-- R303: a `dk.copy` in the engine reads its pieces, and completes with its span. DEDUCED (log 54). -/
def stepCopy (s : State) (n : Node) (o : DkOp) (rop : ROp) (widen acc : Bool) : State :=
  let d := s.dealer n
  if !mayAccess d o || !reachFree s n d o then s
  else
    let s := readSource s n o
    let d := s.dealer n
    match d.engine.find? (·.id == o.id) with
    | some o => if o.todo.isEmpty then s.setDealer n ((takeCopy d o rop widen acc).finish o) else s
    | none => s

/-- R58, R304: the bytes that a `dk.put` delivers. -/
def putBytes (d : Dealer) (o : DkOp) (sz : Fin 9) (bf16 : Bool) : List Byte :=
  let bs := d.read o.off (dkSize sz)
  if bf16 then (words32 bs).flatMap fun x => leBytes 2 (roundFloat .bf16 .rne false (f32 x)).enc else bs

/-- R198: an earlier `dk.put` to the same core has still to leave. -/
def putsBefore (s : State) (n : Node) (d : Dealer) (o : DkOp) : Bool :=
  d.engine.any fun e => e.id < o.id && !e.sent
    && (match e.instr with | .dkPut .. => homeOf s (nodeWafer n) e.ga == homeOf s (nodeWafer n) o.ga | _ => false)

/-- R304: the pieces of a `dk.put` leave for their target. -/
def sendTile (s : State) (n : Node) (o : DkOp) (bs : List Byte) (k : Fin 64) (dis : Bool) (ent : Fin 8) : State :=
  match physGa s (nodeWafer n) o.ga with
  | none => deckFault s n 4 o.pc
  | some ga =>
    (pieces (gaLa ga) bs.length).foldl (fun s p =>
      post s n [] (.dkPiece n o.id (ga + BitVec.ofNat 64 p.1) ((bs.drop p.1).take p.2) k dis ent)) s

/-- R304: a `dk.put` in the engine: it reads its span, and completes when the target has counted the tile. -/
def stepPut (s : State) (n : Node) (o : DkOp) (sz : Fin 9) (k : Fin 64) (dis : Bool) (ent : Fin 8) (bf16 : Bool) :
    State :=
  let d := s.dealer n
  if o.sent then (if (piecesLeft s (2 * o.id + 1)).isEmpty then s.setDealer n (d.finish o) else s)
  else if !mayAccess d o || !reachFree s n d o || putsBefore s n d o then s
  else
    let bs := putBytes d o sz bf16
    if remoteBad s n o.ga bs.length .dealer then deckFault s n 4 o.pc
    else sendTile (s.setDealer n (d.update { o with sent := true })) n o bs k dis ent

/-- R299: a data word of a Dealer goes on in the data engine, and completes when its transfer is done. -/
def execDealerDataWordComplete (n : Node) (k : Nat) (s : State) : Out :=
  if dealerFrozen s n then .next s
  else
    match (s.dealer n).engine.find? (·.id == k) with
    | none => .next s
    | some o =>
      .next (match o.instr with
        | .dkSend _ _ _ sz _ ctag g _ => stepSend s n o sz ctag g
        | .dkRecv _ _ sz _ _ _ => stepTake s n o sz
        | .dkRred _ _ sz _ _ _ _ _ => stepTake s n o sz
        | .dkCopy _ _ _ rop widen acc _ => stepCopy s n o rop widen acc
        | .dkPut _ _ sz k dis ent bf16 _ => stepPut s n o sz k dis ent bf16
        | _ => s)

/-! ### Arrivals (R293, R294, R301, R304, R306, R307, R309) -/

/-- R294: an idle Dealer starts the oldest kick. -/
def execDealerInstanceStart (n : Node) (s : State) : Out :=
  let d := s.dealer n
  match d.deck, d.kicks with
  | some deck, q :: _ =>
    if d.st ≠ .idle ∨ dealerFrozen s n then .next s
    else
      let regs : Vector Word 16 := Vector.replicate 16 0
      let regs := vset (vset (vset (vset regs 1 q.sb) 2 q.sc) 3 (BitVec.ofNat 64 (location s q.kicker))) 4
        (d.inst.setWidth 64)
      .next (s.setDealer n { d with
        d := regs, lpCnt := 0, lpBeg := 0, lpEnd := 0, pc := (vget deck.vectors 0 q.vec).toNat, inst := d.inst + 1
        st := .running })
  | _, _ => .next s

/-- R293: the answer to a kick reaches its context: a trap at the `coll.kick`, or the next instruction. -/
def answerKick (s : State) (n : Node) (x : Fin 8) (pc : BitVec 32) (trap : Option TrapOf) : State :=
  let k := s.ctx n x
  match k.kick with
  | none => s
  | some succ =>
    match trap with
    | some t =>
      takeTrap (s.setCtx n x { k with kick := none }) n x
        { code := t.code, reported := false, orphan := false, pc := pc, val := t.val, rpc := pc, ctx := some x,
          stamp := cycleOf s n }
    | none => takeWaiting (s.setCtx n x (({ k with kick := none }).goOn pc succ (cycleOf s n))) n x

/-- R293: a kick that the Dealer refuses. -/
def kickRefused (s : State) (kicker d : Node) (vec : Nat) : Bool :=
  let dl := s.dealer d
  !servedTarget s d kicker || dl.st == .halted
    || (match dl.deck with
        | none => true
        | some k => vget k.vectors 0xFFFF vec == 0xFFFF)

/-- R293: the GA of a Dealer that a kick named, as the kicker's module names it. -/
def dealerGa (s : State) (d : Node) : Word :=
  BitVec.ofNat 64 (2 ^ 63 + bits (s.module (nodeWafer d)).wafer 0 4 * 2 ^ 59 + nodeNum d * 2 ^ 43)

/-- R293: the place of a kicker among those whose kicks reach a Dealer in one cycle. -/
def kickPlace (s : State) (c : Node) : Nat := (s.module (nodeWafer c)).wafer * 65536 + nodeNum c

/-- R293: a later kicker has been answered in this cycle: the kick reaches the Dealer in another. -/
def kickLate (s : State) (d c : Node) : Bool :=
  (s.dealer d).kickAt.1 == dealerCycle s d + 1 && kickPlace s c < (s.dealer d).kickAt.2

/-- R293: a kick reaches its Dealer, which answers. -/
def execKickArrive (m : Nat) (s : State) : Out :=
  match arriving s m with
  | some { kind := .kick c x d vec sb sc pc, .. } =>
    if kickLate s d c then .next s
    else
    let s := unpost s m
    let s := s.setDealer d { s.dealer d with kickAt := (dealerCycle s d + 1, kickPlace s c) }
    if kickRefused s c d vec then .next (answerKick s c x pc (some ⟨0x05, dealerGa s d⟩))
    else if 2 ≤ (s.dealer d).kicks.length then .next (answerKick s c x pc (some ⟨0x08, dealerGa s d⟩))
    else
      let dl := s.dealer d
      let s := s.setDealer d { dl with kicks := dl.kicks ++ [{ vec := vec, sb := sb, sc := sc, kicker := c }] }
      .next (answerKick s c x pc none)
  | _ => .next s

/-- R301: the chunk that a later word of it joins: the one of its sender and stream that still lacks words.
DEDUCED (log 32). -/
def openChunk (d : Dealer) (sender : Node) (stream : Nat) : Option Held :=
  d.held.find? fun h => h.sender == sender && h.stream == stream && h.data.length < chunkWords h.sz

/-- R290, R301: bytes in the holding area. -/
def heldChunkBytes (d : Dealer) : Nat := d.held.foldl (fun a h => a + 128 * h.data.length) 0

/-- R301: the word's chunk is one that a data word in the engine takes. DEDUCED (log 57). -/
def wanted (d : Dealer) (h : Held) : Bool :=
  d.engine.any fun o => matchChunk { d with held := d.held.filter (fun x => x != h) ++ [h] } o == some h
    || matchChunk d o == some h

/-- R301: a chunk word joins the holding area, or waits in the link while that is full.
DEDUCED (log 32). DEDUCED (log 57). -/
def acceptChunk (s : State) (m : Nat) (n : Node) (w : ChWord) (h : ChunkHdr) : State :=
  let d := s.dealer n
  let old := if h.index = 0 then none else openChunk d h.sender w.stream
  let new : Held := match old with
    | some x => { x with data := x.data ++ [w.val.data] }
    | none => { sender := h.sender, stream := w.stream, sz := h.sz, ctag := h.ctag, inst := h.inst,
                data := [w.val.data] }
  let held := match old with
    | some x => d.held.map fun y => if y == x then new else y
    | none => d.held ++ [new]
  if 0x80000 < heldChunkBytes d + 128 ∧ !wanted { d with held := held } new then s
  else (unpost s m).setDealer n { d with held := held }

/-- R301: a word on a chunk stream reaches a Dealer. A marker is discarded, and so is a word without a chunk header.
DESIGN CHOICE (log 115). -/
def execChunkWordArrive (m : Nat) (s : State) : Out :=
  match arriving s m with
  | some { kind := .chunk n w, .. } =>
    let d := s.dealer n
    match w.chunk with
    | none => .next (unpost s m)
    | some h =>
      if w.mark then .next (unpost s m)
      else if d.deck.isNone then .next (machineCheckOf (unpost s m) (affected s h.sender) n 5 w.stream)
      else if d.st = .halted then .next (unpost s m)
      else if h.index = 0 ∧ 2 ≤ (h.inst + 4 - d.curInst % 4) % 4 then .next (deckFault (unpost s m) n 6 d.pc)
      else .next (acceptChunk s m n w h)
  | _ => .next s

/-- R304: after the last piece: the entry is disarmed and the counter counts. DEDUCED (log 56). -/
def finishTile (s : State) (d t : Node) (k : Nat) (dis : Bool) (ent pc : Nat) : State :=
  let w := rangeEntry s t ent
  if dis && w.getLsbD 31 && !ownsRange d w then deckFault s d 5 pc
  else addCounter (if dis && w.getLsbD 31 then setRange s t ent 0 else s) t k 1

/-- R304: a piece of a delivered tile performs at its target, unless its tags are stale (R327). DEDUCED (log 56). -/
def execDkPutArrive (m : Nat) (s : State) : Out :=
  match arriving s m with
  | some ({ kind := .dkPiece d op ga bs k dis ent, .. } : Msg) =>
    let stale := (message s m).any fun x => staleTags s x (gaNode ga)
    let s := unpost s m
    let t := gaNode ga
    let pc := (((s.dealer d).engine.find? (·.id == op)).map (·.pc)).getD (s.dealer d).pc
    if stale then .next s
    else if nacked s t d .dealer (gaLa ga) bs.length then .next (deckFault (dropPieces s (2 * op + 1)) d 4 pc)
    else
      let s := remoteBytes s t (gaLa ga) bs
      .next (if (piecesLeft s (2 * op + 1)).isEmpty then finishTile s d t k dis ent pc else s)
  | _ => .next s

/-- R305: the word of an armed entry. DESIGN CHOICE (log 113). -/
def rangeWord (d : Node) (base len : Nat) : Word :=
  BitVec.ofNat 64 (base * 2 ^ 32 + 2 ^ 31 + rangeOwner d + len / 128 % 2 ^ 19)

/-- R306: an arm or a disarm reaches the core's range table. -/
def execRangeArmArrive (m : Nat) (s : State) : Out :=
  match arriving s m with
  | some { kind := .arm d t ent base len pc, .. } =>
    let s := unpost s m
    let w := rangeEntry s t ent
    if len = 0 then
      .next (if !w.getLsbD 31 then s else if ownsRange d w then setRange s t ent 0 else deckFault s d 5 pc)
    else .next (if w.getLsbD 31 then deckFault s d 5 pc else setRange s t ent (rangeWord d base len))
  | _ => .next s

/-- R307: a signal reaches its Dealer. -/
def execSignalArrive (m : Nat) (s : State) : Out :=
  match arriving s m with
  | some { kind := .signal d g, .. } =>
    let s := unpost s m
    let dl := s.dealer d
    .next (s.setDealer d { dl with g := vset dl.g g (vget dl.g 0 g + 1) })
  | _ => .next s

/-- R309: a mailbox write reaches its core: COUNT and VALUE as one write. -/
def execMailboxWriteArrive (m : Nat) (s : State) : Out :=
  match arriving s m with
  | some { kind := .mailbox n mb v, .. } =>
    .next ((unpost s m).modCore n fun c =>
      let w := vget c.sync.mb 0 mb
      { c with sync := { c.sync with mb := vset c.sync.mb mb (v ++ (w.setWidth 32 + 1)) } })
  | _ => .next s

end Sys2Proof.Machine
end

