-- ==== Sys2Proof/Machine/Digest.lean ====
section
/-! DEFINITION. CRC-32C (R12) and SHA-256 (R362). The spec names both and lays down neither: their definitions are
those of the standards. -/

namespace Sys2Proof.Machine

/-! ### CRC-32C -/

/-- One bit of the reflected Castagnoli polynomial. -/
def crcBit (c : BitVec 32) : BitVec 32 := if c.getLsbD 0 then (c >>> 1) ^^^ 0x82F63B78 else c >>> 1

/-- One byte. -/
def crcByte (c : BitVec 32) (b : Byte) : BitVec 32 :=
  crcBit (crcBit (crcBit (crcBit (crcBit (crcBit (crcBit (crcBit (c ^^^ b.setWidth 32))))))))

/-- CRC-32C of bytes. PRESUMED (log 16). -/
def crc32c (l : List Byte) : BitVec 32 := ~~~(l.foldl crcByte 0xFFFFFFFF)

/-! ### SHA-256

The standard defines its constants by the roots of the first primes, and its eight working words by two of them: each of
the other six is an earlier value of one of the two. -/

/-- The first 64 primes. -/
def shaPrimes : List Nat := (List.range 312).filter fun p => 2 ≤ p && (List.range p).all fun d => d < 2 || p % d != 0

/-- The whole part of the `k`-th root of a number below `2^(k·n)`, a bit at a time. -/
def rootDigits (k x : Nat) : Nat → Nat → Nat
  | 0, r => r
  | n + 1, r => rootDigits k x n (if (r + 2 ^ n) ^ k ≤ x then r + 2 ^ n else r)

/-- The first 32 bits of the fraction of the `k`-th root of a number below 512. -/
def rootFraction (k p : Nat) : BitVec 32 := BitVec.ofNat 32 (rootDigits k (p * 2 ^ (32 * k)) 37 0)

/-- The constants of the rounds. -/
def shaConstants : List (BitVec 32) := shaPrimes.map (rootFraction 3)

/-- What the rotations of a word by some distances and a further word differ in. -/
def mixed (x rest : BitVec 32) (rs : List Nat) : BitVec 32 := rs.foldl (fun a r => a ^^^ x.rotateRight r) rest

/-- The two histories of working words, newest first, and the next 16 words of the message schedule, oldest first. -/
structure ShaState where
  top : List (BitVec 32)
  low : List (BitVec 32)
  window : List (BitVec 32)
  deriving DecidableEq, Repr

/-- An entry of a history. -/
def past (l : List (BitVec 32)) (i : Nat) : BitVec 32 := l.getD i 0

/-- One round, with its constant. -/
def shaStep (v : ShaState) (k : BitVec 32) : ShaState :=
  let e := past v.low 0
  let pick := past v.low 2 ^^^ (e &&& (past v.low 1 ^^^ past v.low 2))
  let sum := past v.low 3 + mixed e 0 [6, 11, 25] + pick + k + past v.window 0
  let a := past v.top 0
  let most := (a &&& past v.top 1) ||| (past v.top 2 &&& (a ||| past v.top 1))
  let far := past v.window 1
  let near := past v.window 14
  let word := past v.window 0 + mixed far (far >>> 3) [7, 18] + past v.window 9 + mixed near (near >>> 10) [17, 19]
  { top := (sum + mixed a 0 [2, 13, 22] + most) :: v.top.take 3
    low := (past v.top 3 + sum) :: v.low.take 3
    window := v.window.drop 1 ++ [word] }

/-- The words of 4 bytes of a block, the most significant byte first. -/
def bigWords (bs : List Byte) : List (BitVec 32) :=
  (List.range (bs.length / 4)).map fun i => BitVec.ofNat 32 (leNat ((bs.drop (4 * i)).take 4).reverse)

/-- The eight words of a hash value after a further block. -/
def shaBlock (h : List (BitVec 32)) (blk : List Byte) : List (BitVec 32) :=
  let v := shaConstants.foldl shaStep { top := h.take 4, low := h.drop 4, window := bigWords blk }
  List.zipWith (· + ·) h (v.top ++ v.low)

/-- The blocks of a message in turn. -/
def shaBlocks (h : List (BitVec 32)) (bs : List Byte) : List (BitVec 32) :=
  (List.range (bs.length / 64)).foldl (fun h i => shaBlock h ((bs.drop (64 * i)).take 64)) h

/-- The bytes of a number, the most significant first. -/
def beBytes (n x : Nat) : List Byte := (leBytes n x).reverse

/-- SHA-256 of bytes. PRESUMED (log 16). -/
def sha256 (l : List Byte) : List Byte :=
  let zeros := (128 - (l.length + 9) % 64) % 64
  let padded := l ++ 0x80 :: beBytes zeros 0 ++ beBytes 8 (8 * l.length)
  (shaBlocks ((shaPrimes.take 8).map (rootFraction 2)) padded).flatMap fun x => beBytes 4 x.toNat

end Sys2Proof.Machine
end

