-- ==== Sys2Proof/Machine/Hss.lean ====
section
/-! DEFINITION. The HSS signature of an attestation report (R362, RFC 8554): two levels, LMS_SHA256_M32_H20 with
LMOTS_SHA256_N32_W8. What the key pair holds and the spec does not give is free: secrets, identifiers, randomizers.
PRESUMED (log 16). DESIGN CHOICE (log 15). -/

namespace Sys2Proof.Machine

/-- A bridge's key pair, and one of its trees: 0 the upper, q + 1 the lower tree that leaf q of the upper one signs. -/
structure HssTree where
  serial : Nat
  bridge : Nat
  tree : Nat
  deriving DecidableEq, Repr

/-- What the key pair holds: 32 bytes of a kind by two numbers. DESIGN CHOICE (log 15). -/
def HssTree.holds (k : HssTree) (kind a b : Nat) : List Byte :=
  (List.range 32).map fun i =>
    Config.sealByte kind (leBytes 16 k.serial ++ leBytes 4 k.bridge ++ leBytes 4 k.tree ++ leBytes 4 a ++ leBytes 4 b) i

/-- I, the identifier of a tree. -/
def HssTree.ident (k : HssTree) : List Byte := (k.holds 0 0 0).take 16
/-- x of a leaf: its secret elements. -/
def HssTree.secret (k : HssTree) (q i : Nat) : List Byte := k.holds 1 q i
/-- C of a leaf: its randomizer. -/
def HssTree.randomizer (k : HssTree) (q : Nat) : List Byte := k.holds 2 q 0
/-- The typecodes of RFC 8554: LMS_SHA256_M32_H20 and LMOTS_SHA256_N32_W8. -/
def lmsType : Nat := 8
/-- LMOTS_SHA256_N32_W8. -/
def lmotsType : Nat := 4

/-- The coefficients that a leaf signs: the bytes of the digest, and those of their checksum. -/
def lmotsDigits (digest : List Byte) : List Nat :=
  let ds := digest.map (·.toNat)
  ds ++ (beBytes 2 (ds.foldl (fun a d => a + (255 - d)) 0)).map (·.toNat)

/-- An element of a chain after some of its hashes. -/
def lmotsChain (k : HssTree) (q i : Nat) (x : List Byte) (n : Nat) : List Byte :=
  (List.range n).foldl (fun y j => sha256 (k.ident ++ beBytes 4 q ++ beBytes 2 i ++ beBytes 1 j ++ y)) x

/-- The one-time public key of a leaf: the ends of its 34 chains. PRESUMED (log 16). -/
def HssTree.leafKey (k : HssTree) (q : Nat) : List Byte :=
  sha256 (k.ident ++ beBytes 4 q ++ beBytes 2 0x8080
    ++ (List.range 34).flatMap fun i => lmotsChain k q i (k.secret q i) 255)

/-- T of a node at a height above the leaves: that of the root stands in the public key. PRESUMED (log 16). -/
def HssTree.node (k : HssTree) : Nat → Nat → List Byte
  | 0, r => sha256 (k.ident ++ beBytes 4 r ++ beBytes 2 0x8282 ++ k.leafKey (r - 2 ^ 20))
  | h + 1, r =>
    sha256 (k.ident ++ beBytes 4 r ++ beBytes 2 0x8383 ++ HssTree.node k h (2 * r) ++ HssTree.node k h (2 * r + 1))

/-- The one-time signature of a leaf. PRESUMED (log 16). -/
def lmotsSign (k : HssTree) (q : Nat) (msg : List Byte) : List Byte :=
  let c := k.randomizer q
  let digits := lmotsDigits (sha256 (k.ident ++ beBytes 4 q ++ beBytes 2 0x8181 ++ c ++ msg))
  beBytes 4 lmotsType ++ c
    ++ (digits.zipIdx.flatMap fun d => lmotsChain k q d.2 (k.secret q d.2) d.1)

/-- The signature of a tree: its leaf, the one-time signature, and the siblings on the path to the root.
PRESUMED (log 16). -/
def lmsSign (k : HssTree) (q : Nat) (msg : List Byte) : List Byte :=
  beBytes 4 q ++ lmotsSign k q msg ++ beBytes 4 lmsType
    ++ (List.range 20).flatMap fun i => k.node i (((2 ^ 20 + q) / 2 ^ i) ^^^ 1)

/-- The public key of a tree. -/
def HssTree.pub (k : HssTree) : List Byte := beBytes 4 lmsType ++ beBytes 4 lmotsType ++ k.ident ++ k.node 20 1

/-- R362: the HSS signature of a message at a key index: the upper tree signs the public key of the lower, which signs the
message. PRESUMED (log 16). -/
def hssSign (serial bridge index : Nat) (msg : List Byte) : List Byte :=
  let upper : HssTree := { serial := serial, bridge := bridge, tree := 0 }
  let lower : HssTree := { serial := serial, bridge := bridge, tree := index / 2 ^ 20 + 1 }
  beBytes 4 1 ++ lmsSign upper (index / 2 ^ 20) lower.pub ++ lower.pub ++ lmsSign lower (index % 2 ^ 20) msg

end Sys2Proof.Machine
end

