-- ==== Sys2Proof/Machine/Recovery.lean ====
section
/-! DEFINITION. Seals and rollback (R263, R285, R310, R315–R332), and retirement at a seal (R89, R357–R360). -/

namespace Sys2Proof.Machine

/-! ### `seal.arr`, `seal.wait`, `seal.req`, `egr.now` (R332) -/

/-- R334: `E_SEAL_PROTO`. -/
def eSealProto (v : Nat) : TrapOf := ⟨0x13, BitVec.ofNat 64 v⟩

/-- R332: the checks of `seal.arr`. -/
def arriveFault (s : State) : Option TrapOf :=
  if s.svc || s.cur.ctx == 7 || s.cn.rcv.arrival.isSome then
    some (eSealProto ((s.cn.rcv.arrival.map (·.val)).getD 8))
  else none

/-- R23: the sequence number of a seal point. -/
def sealPointOf (s : State) : Nat := (AMap.find s.cn.rcv.sealPoints s.cur.pc.toNat).getD 0

/-- R332: the issuing context holds the core's arrival. -/
def holdArrival (s : State) : State :=
  s.modCn fun c => { c with rcv := { c.rcv with arrival := some s.cur.ctx, sealSeq := sealPointOf s } }

/-- R332: `seal.arr`. -/
def execSealArr (sd : SReg) (s : State) : Out :=
  .next (checked s (.sealArr sd) arriveFault fun s =>
    advance ((holdArrival s).setS sd (s.cn.rcv.rin.setWidth 64)))

/-- R332: the result word of `seal.wait` and `egr.now`. -/
def sealResult (c : Core) : Word := c.rcv.rbCount ++ c.rcv.rinSealed

/-- R332: `seal.wait` in a context that does not hold the arrival, or in service mode. -/
def sealWaitFault (s : State) : Option TrapOf :=
  if s.svc || s.cn.rcv.arrival != some s.cur.ctx then some (eSealProto 8) else none

/-- R332: `seal.wait` blocks until RELEASE or RESUME ends the wait. -/
def execSealWait (sd : SReg) (s : State) : Out :=
  .next (checked s (.sealWait sd) sealWaitFault fun s => block s (.sealWait sd) .waitSeal 0)

/-- R332: `seal.req`; in service mode it has no effect. -/
def execSealReq (s : State) : Out :=
  .next (guarded s .sealReq fun s => advance (if s.svc then s else requestSealAt s s.cur.core))

/-- R332: the endpoint that `egr.now` waits for: bound, egress, of this core, its slot not orphaned. -/
def egressEndpoint (s : State) (stream : Nat) : Option Endpoint :=
  (egressOf s s.cur.core stream).bind fun p =>
    (endpoint s p.1 p.2.1 p.2.2).filter fun x => x.bound && !((s.module p.1).slot p.2.1).orphaned

/-- R162, R337: the `egr.now` that runs holds the arrival from before its wait was abandoned. DEDUCED (log 71). -/
def ownArrival (s : State) : Bool :=
  s.cn.rcv.arrival == some s.cur.ctx && s.cn.rcv.sealSeq == sealPointOf s
    && (AMap.find s.cn.rcv.sealPoints s.cur.pc.toNat).isSome

/-- R332: the checks of `egr.now`. DEDUCED (log 71). -/
def egrFault (s : State) (stream : Nat) : Option TrapOf :=
  if s.svc then some (eSealProto ((s.cn.rcv.arrival.map (·.val)).getD 8))
  else if (egressEndpoint s stream).isNone then some ⟨0x14, BitVec.ofNat 64 stream⟩
  else if ownArrival s then none
  else arriveFault s

/-- R332: the delivery point P: 128 × the words sent on the stream. -/
def deliveryPoint (s : State) (stream : Nat) : Nat := 128 * (AMap.find s.cn.comm.sent stream).getD 0

/-- R334: a trap of `egr.now`: precise; RPC of `E_EGRESS` is TRAP_VAL, as the table has it, and otherwise the PC.
DEDUCED (log 90). -/
def egrTrap (s : State) (t : TrapOf) : State :=
  takeTrap s s.cur.core s.cur.ctx
    { code := t.code, reported := false, orphan := false, pc := s.cur.pc, val := t.val
      rpc := if t.code = 0x14 then t.val.setWidth 32 else s.cur.pc, ctx := some s.cur.ctx, stamp := s.cycle }

/-- R332: `egr.now` arrives, asks for a seal, and blocks until the seal and the delivery. -/
def execEgrNow (sd : SReg) (st : Fin 64) (s : State) : Out :=
  .next (guarded s (.egrNow sd st) fun s =>
    match egrFault s st with
    | some t => egrTrap s t
    | none => block (requestSealAt (holdArrival s) s.cur.core) (.egrNow sd st) .waitSeal (deliveryPoint s st))

/-- R332: `egr.now` when it is tried: its seal has been released, and `EP_POS` covers the delivery point.
DEDUCED (log 71). -/
def tryEgrNow (s : State) (sd : SReg) (st : Fin 64) (p : Nat) : Try :=
  if s.cn.rcv.arrival = some s.cur.ctx then .wait .waitSeal p
  else
    match (egressOf s s.cur.core st).bind fun q => endpoint s q.1 q.2.1 q.2.2 with
    | some x => if p ≤ x.pos then .done (s.setS sd (sealResult s.cn)) else .wait .waitSeal p
    | none => .wait .waitSeal p

/-- R322: a seal request reaches a core. -/
def execSealRequestArrive (m : Nat) (s : State) : Out :=
  match arriving s m with
  | some { kind := .sealReq n, .. } =>
    .next ((unpost s m).modCore n fun c =>
      let c := { c with rcv := { c.rcv with logCtl := c.rcv.logCtl ||| 0x4000 } }
      if c.rcv.logCtl.getLsbD 7 then c.setFlags (1#16 <<< (bits c.rcv.logCtl.toNat 8 4)) true else c)
  | _ => .next s

/-! ### Readiness (R323) -/

/-- R315: the member regions of a domain that have been launched. DEDUCED (log 60). -/
def launchedSlots (s : State) (d : Nat) : List (Nat × Nat) :=
  (memberSlots s d).filter fun p => ((s.module p.1).slot p.2).st == .launched

/-- R323: a context is FREE, in WAIT_LOG, or in WAIT_SEND on the stream of an endpoint whose hold is full. -/
def ctxQuiet (s : State) (n : Node) (k : Ctx) : Bool :=
  match k.st with
  | .free | .waitLog => true
  | .waitSend =>
    match k.blocked with
    | some { instr := .chsend _ _ st, .. } | some { instr := .chmark _ st, .. } =>
      (match egressOf s n st with
       | some (w, i, _) => holdFull s w i
       | none => false)
    | _ => false
  | _ => false

/-- R323 condition 1; no report waits for a context. DEDUCED (log 60). -/
def contextsReady (s : State) (n : Node) : Bool :=
  let c := s.core n
  (List.range 7).all fun i =>
    let k := vget c.ctxs {} i
    k.reports.isEmpty && (if c.rcv.arrival.map (·.val) = some i then k.st == .waitSeal else ctxQuiet s n k)

/-- R323: a core is ready to seal. Its put-off accesses and open fills are outstanding work, too. DEDUCED (log 60). -/
def coreReady (s : State) (n : Node) : Bool :=
  let c := s.core n
  contextsReady s n
    && (c.ctxs[7].st == .free || c.ctxs[7].st == .idle)
    && !((List.range 32).any (entryReady c)) && c.trg.pseudo.isEmpty
    && (c.comm.chans.all fun p => p.2.queue.isEmpty && p.2.spill.isEmpty)
    && (c.comm.nb.toList.all fun v => v.isNone)
    && c.comm.tracker.isEmpty && c.comm.copies.isEmpty && c.mx.queue.isEmpty && c.later.isEmpty && c.mem.fills.isEmpty

/-- R310: a Dealer is ready to seal. -/
def Dealer.ready (d : Dealer) : Bool :=
  (d.st == .sealpt || (d.st == .idle && d.kicks.isEmpty)) && d.held.isEmpty

/-- R323: a barrier token or release is in flight through a hub. -/
def barrierAt (h : Node) : MsgKind → Bool
  | .token n .. | .report n .. | .relHub n .. => n == h
  | .relCore c _ => hubOf c == h
  | _ => false

/-- R323: a hub is ready. -/
def hubReady (s : State) (h : Node) : Bool :=
  (s.hub h).dealer.ready && !s.net.any fun m => barrierAt h m.kind

/-- A node belongs to a domain; a bridge by the Deck that it holds. -/
def nodeIn (s : State) (d : Nat) (n : Node) : Bool :=
  if isBridge n then (s.bridge n).dealer.deck.isSome && dealerDomain s n == some d else domainOf s n == some d

/-- R324, R327: a message is in flight in a domain. DEDUCED (log 60). -/
def concerns (s : State) (d : Nat) (m : Msg) : Bool :=
  match m.kind with
  | .egress w i .. | .epCredit w i _ | .ingress w i .. => slotDomain s w i == some d
  | .wide e .. => e == d
  | k => nodeIn s d (msgTarget s k) || nodeIn s d m.src

/-- R323: a bridge is ready: no mesh request of its own is on its way into the domain, and its Dealer for the domain is
ready. DEDUCED (log 60). -/
def bridgeReady (s : State) (d : Nat) (b : Node) : Bool :=
  (!nodeIn s d b || (s.bridge b).dealer.ready)
    && !s.net.any fun m => m.src == b && isRequest m.kind && nodeIn s d (msgTarget s m.kind)

/-- R323: every core, hub and bridge of the launched regions of a domain is ready. -/
def allReady (s : State) (d : Nat) : Bool :=
  ((launchedSlots s d).all fun p =>
    (slotCores s p.1 p.2).all (coreReady s) && (slotHubs s p.1 p.2).all (hubReady s))
    && (domBridges s d).all (bridgeReady s d)

/-! ### What asks for a seal (R322, R324) -/

/-- R360: the domains that hold a cluster of a reticle field. -/
def fieldDomains (s : State) (w fx fy : Nat) : List Nat :=
  ((List.range 20).filterMap fun i => domainOf s (mkNode w (0xF000 + (fy * 5 + i / 4) * 32 + fx * 4 + i % 4))).foldl
    insertNat []

/-- R322: a structural change of a domain waits for a seal. DEDUCED (log 66). -/
def structuralPending (s : State) (d : Nat) : Bool :=
  ((memberSlots s d).any fun p => ((s.module p.1).slot p.2).unloading)
    || ((wafers s).any fun w =>
      ((s.module w).retireReqs.any fun n => domainOf s (mkNode w n) == some d)
      || (s.module w).colmoves.any fun q =>
        (fieldDomains s w q.1 q.2.1).contains d && !q.2.2.2.contains d)
    || (domCores s d).any fun n => (s.core n).mem.bankNext != (s.core n).mem.bankLive
      || (s.core n).rcv.stagedBase.isSome || (s.core n).rcv.stagedSize.isSome

/-- R324: a seal is wanted. DEDUCED (log 66). -/
def sealWanted (s : State) (d : Nat) : Bool :=
  (s.domain d).req || structuralPending s d
    || ((domCores s d).any fun n => (s.core n).rcv.arrival.isSome)
    || ((domHubs s d).any fun h => (s.hub h).dealer.st == .sealpt)
    || (domBridges s d).any fun b => nodeIn s d b && (s.bridge b).dealer.st == .sealpt

/-! ### The seal sequence (R324) -/

/-- R365: the `b15` messages of a domain on several wafers reach its root bridge and come back. -/
def domainLinked (s : State) (d : Nat) : Bool :=
  (domainWafers s d).all fun w => reachable s w (domainRoot s d) && reachable s (domainRoot s d) w

/-- R324: OPEN ends. DEDUCED (log 60). -/
def mayHold (s : State) (d : Nat) : Bool :=
  let x := s.domain d
  domainLinked s d && x.phase == .open_ && !x.frozen && !x.rolling && !(launchedSlots s d).isEmpty && sealWanted s d && allReady s d

/-- R324: HOLD begins, and the bridges pause ingress. DEDUCED (log 31). -/
def execSealHold (d : Nat) (s : State) : Out :=
  .next (if mayHold s d then s.modDomain d fun x => { x with phase := .hold, ingressPause := true } else s)

/-- R73, R324: something is in flight in the domain besides chunks that a Dealer holds and egress words that a full hold
keeps from it. DEDUCED (log 60). -/
def inFlight (s : State) (d : Nat) : Bool :=
  s.net.any fun m => concerns s d m && (match m.kind with
    | .chunk n _ => (s.dealer n).held.isEmpty
    | .egress w i .. => !holdFull s w i
    | _ => true)

/-- R97, R324: CLEAN writes the dirty sectors of a core back. -/
def Core.clean (c : Core) : Core :=
  { c with mem := { c.mem with l1 := c.mem.l1.map fun l => { l with dirty := 0 } } }

/-- R324: CHECK, and CLEAN when it succeeds. DEDUCED (log 31). -/
def execSealCheck (d : Nat) (s : State) : Out :=
  if (s.domain d).phase ≠ .hold ∨ inFlight s d then .next s
  else if !allReady s d then .next (s.modDomain d fun x => { x with phase := .open_ })
  else
    let s := (domCores s d).foldl (fun s n => s.modCore n Core.clean) s
    .next (s.modDomain d fun x => { x with phase := .clean })

/-- R325: the armed bits of a core. -/
def armedBits (c : Core) : BitVec 32 :=
  BitVec.ofNat 32 ((List.range 32).foldl
    (fun a e => a + (if (vget c.trg.entries {} e).tctl.getLsbD 0 then 2 ^ e else 0)) 0)

/-- R325: the checkpoint of a core as it stands. DESIGN CHOICE (log 17). -/
def Core.snapshot (c : Core) : Ckpt :=
  { ctxs := ((List.range 7).filter fun i => (vget c.ctxs {} i).st != .free).map fun i =>
      (Fin.ofNat 8 i, vget c.ctxs {} i)
    flags := c.sync.flags
    k := c.sync.k
    armed := armedBits c
    trgCtl := c.trg.ctl
    win := c.comm.win
    prot := c.comm.prot
    ctab := c.mx.ctab
    mb := c.sync.mb
    range := c.takeRange.comm.range
    bar := c.sync.bar
    sealSeq := c.rcv.sealSeq
    curs := c.comm.routes.map fun r => (r.1, r.2.cur)
    w := c.mx.w
    acc := c.mem.mem.filter fun x => inRange x.1 0x100000 0x10000
    mxCfg := c.mx.cfg
    sent := c.comm.sent }

/-- R324: the checkpoint goes into the inactive slot. -/
def Core.writeCkpt (c : Core) : Core :=
  if c.rcv.active then { c with rcv := { c.rcv with slot0 := some c.snapshot } }
  else { c with rcv := { c.rcv with slot1 := some c.snapshot } }

/-- R324, R325: CKPT. Hubs and bridges stand still from here until POINT, which takes theirs. -/
def execSealCkpt (d : Nat) (s : State) : Out :=
  if (s.domain d).phase ≠ .clean then .next s
  else
    let s := (domCores s d).foldl (fun s n => s.modCore n Core.writeCkpt) s
    .next (s.modDomain d fun x => { x with phase := .ckpt })

/-- R310: a Dealer's checkpoint. At a seal point it resumes at the word after it. -/
def Dealer.snapshot (d : Dealer) : DkCkpt :=
  { d := d.d, pc := d.pc, lpCnt := d.lpCnt, lpBeg := d.lpBeg, lpEnd := d.lpEnd, inst := d.inst, g := d.g
    kicks := d.kicks, st := d.st, cause := d.cause, faultPc := d.faultPc }

/-- R310: a Dealer takes its checkpoint. -/
def Dealer.save (d : Dealer) : Dealer := { d with ckpt := some d.snapshot }

/-- R73, R328: an endpoint as the seal in progress covers it. -/
def Endpoint.covered (x : Endpoint) : Endpoint :=
  { x with sealedUpTo := if x.egress then x.pos + 128 * x.held.length else x.delivered }

/-- R285, R310: hubs, bridges and Dealers of a domain take their checkpoints. DEDUCED (log 61). -/
def saveHubs (s : State) (d : Nat) : State :=
  let s := (domHubs s d).foldl (fun s h =>
    s.modHub h fun x => { x with dealer := x.dealer.save, barCkpt := x.bar }) s
  let s := (domBridges s d).foldl (fun s b =>
    if nodeIn s d b then s.modBridge b fun x => { x with dealer := x.dealer.save } else s) s
  let s := (memberSlots s d).foldl (fun s p =>
    s.modSlot p.1 p.2 fun t => { t with epsCkpt := t.eps.map Endpoint.covered, joinedCkpt := t.joined, wakes := false }) s
  s.modDomain d fun x => { x with wideCkpt := x.wide }

/-- The interval number of a domain. -/
def domainRin (s : State) (d : Nat) : Nat := (s.core ((domCores s d).headD 0)).rcv.rin.toNat

/-- R324: POINT records the commit point in every bridge that serves the domain. DEDUCED (log 61). -/
def execSealPoint (d : Nat) (s : State) : Out :=
  if (s.domain d).phase ≠ .ckpt then .next s
  else
    let rin := (domainRin s d + 1) % 2 ^ 32
    let s := saveHubs s d
    let s := (domBridges s d).foldl (fun s b =>
      s.modBridge b fun x => { x with commits := AMap.put x.commits d rin }) s
    .next (s.modDomain d fun x => { x with phase := .flip })

/-- R324: FLIP. -/
def execSealFlip (d : Nat) (s : State) : Out :=
  .next (if (s.domain d).phase = .flip then flipDomain s d else s)

/-! ### Retirement (R89, R357–R360) -/

/-- R357: commands of an OP that wait and name the argument finish. -/
def finishWaiting (s : State) (w op : Nat) (names : Vector Word 6 → Bool) : State :=
  [1, 2].foldl (fun s p =>
    match (vget (s.module w).ports {} (p - 1)).running with
    | some r => if r.op = op ∧ names r.args then finishCommand s w p 0x00 else s
    | none => s) s

/-- R357, R359: the site that serves a logical core is retired; the core becomes unavailable, and its cluster is
withdrawn. DEDUCED (log 68). -/
def retireCore (s : State) (w num : Nat) : State :=
  let n := mkNode w num
  let cl := clusterOf n
  let m := s.module w
  let site := siteOf s n
  let was := clusterAvailable m cl
  let s := s.modModule w fun m =>
    { m with
      retired := insertNat m.retired (site.2 * 264 + site.1)
      retiredCores := insertNat m.retiredCores num
      retireReqs := m.retireReqs.filter (· ≠ num), retireNext := m.retireNext.filter (· ≠ num)
      fieldRet := if was then min 960 (m.fieldRet + 1) else m.fieldRet }
  let s := match slotOf s n with
    | some i =>
      let c := s.core n
      let r := mcRecord s n 0x00 7 3 0 c.rcv.rin c.rcv.rbCount
      sendMsix (s.modSlot w i fun t => { t with ring := t.ring.append r }) w ((s.module w).slot i).owner 32
    | none => s
  finishWaiting s w 0x14 fun a => bits (vget a 0 0).toNat 0 16 == num

/-- R89: the first LA above a core's code, tensors and spill areas. -/
def contentsTop (c : Core) : Nat :=
  let a := c.mem.classes.foldl (fun a r => if laRange r.base = some .shelf then max a (r.base + r.bytes) else a)
    (0x40000000 + c.rcv.codeLen)
  c.comm.chans.foldl (fun a p => max a (p.2.spillLa + 4096)) a

/-- R89: the Shelf capacity in bytes under a mask. -/
def capacity (mask : BitVec 16) : Nat := popcount mask * 0x200000

/-- R89: service code retires the core instead of remapping it. -/
def remapRefused (s : State) (n : Node) : Bool :=
  let c := s.core n
  let minBanks := ((slotOf s n).bind fun i => ((s.module (nodeWafer n)).slot i).image.map (·.minBanks)).getD 0
  0x40000000 + capacity c.mem.bankNext < contentsTop c + c.rcv.logSize.toNat || popcount c.mem.bankNext < minBanks

/-- R89: the lines below the new top whose bank or row changes, by their LA. -/
def movedLines (c : Core) : List Nat :=
  ((List.range ((capacity c.mem.bankNext - c.rcv.logSize.toNat) / 512)).map fun i => 0x40000000 + 512 * i).filter fun a =>
    shelfPlace c.mem.bankLive a != shelfPlace c.mem.bankNext a

/-- R89: the remapping step. Every line that it copies (`movedLines`) keeps its LA; the bytes that the log leaves hold what
the device put there. -/
def remap (s : State) (n : Node) : State :=
  let e := s.draws
  (drawn s).modCore n fun c =>
    let base := 0x40000000 + capacity c.mem.bankNext - c.rcv.logSize.toNat
    let old := c.rcv.logBase.toNat
    { c with
      mem := { c.mem with
        bankLive := c.mem.bankNext
        undef := if old < base then (old, base - old, e) :: cutSpans old (base - old) c.mem.undef else c.mem.undef }
      rcv := { c.rcv with logBase := BitVec.ofNat 32 base } }

/-- R330 operation 1. A core whose remapping is refused has NEXT back at LIVE. DESIGN CHOICE (log 100). -/
def changeCores (s : State) (d : Nat) : State :=
  (domCores s d).foldl (fun s n =>
    let c := s.core n
    if c.mem.bankNext = c.mem.bankLive then s
    else if remapRefused s n then
      retireCore (s.modCore n fun c => { c with mem := { c.mem with bankNext := c.mem.bankLive } })
        (nodeWafer n) (nodeNum n)
    else remap s n) s

/-- R330 operation 2: the retirements that wait for the seal (R357). -/
def changeRetired (s : State) (d : Nat) : State :=
  (wafers s).foldl (fun s w =>
    (s.module w).retireReqs.foldl (fun s num =>
      if domainOf s (mkNode w num) = some d then retireCore s w num else s) s) s

/-- R360: the entry of a segment after the move of a hot column. -/
def colmoveEntry (m : Module) (py sg c : Nat) : Option (BitVec 32) :=
  let e := rmapEntry m (py * 8 + sg)
  if !rmapAvail e || ((List.range 33).any fun i => siteDead m (33 * sg + i) py) || rmapSkip0 e ≠ 0x3F || rmapLent e ≠ 0 then
    none
  else some ((e &&& 0xFFFFFFC0) ||| BitVec.ofNat 32 c)

/-- R360: the domains that hold a core of a segment. DEDUCED (log 67). -/
def segmentDomains (s : State) (w py sg : Nat) : List Nat :=
  (List.range 4).filterMap fun i => domainOf s (mkNode w (0xF000 + py / 8 * 32 + sg * 4 + i))

/-- R360: one segment moves; no logical number and no byte of a core changes, nor its `BANKMAP`. DESIGN CHOICE (log 111). -/
def moveSegment (s : State) (w py sg c : Nat) : State :=
  match colmoveEntry (s.module w) py sg c with
  | some e =>
    s.modModule w fun m =>
      { m with rmap := AMap.put m.rmap (py * 8 + sg) e, retired := insertNat m.retired (py * 264 + 33 * sg + c) }
  | none => s

/-- R360: the segments of a field whose domains have all sealed move. DEDUCED (log 67). -/
def moveColumn (s : State) (w fx fy c : Nat) (sealed : List Nat) : State :=
  (List.range 40).foldl (fun s i =>
    let py := fy * 40 + i
    if (segmentDomains s w py fx).all sealed.contains then moveSegment s w py fx c else s) s

/-- R360: pending moves of a hot column at the seal of a domain; a move whose domains have all sealed is done. -/
def changeColumns (s : State) (d : Nat) : State :=
  (wafers s).foldl (fun s w =>
    (s.module w).colmoves.foldl (fun s q =>
      let ds := fieldDomains s w q.1 q.2.1
      if !ds.contains d then s
      else
        let sealed := insertNat q.2.2.2 d
        let s := moveColumn s w q.1 q.2.1 q.2.2.1 sealed
        if ds.all sealed.contains then
          let s := s.modModule w fun m => { m with colmoves := m.colmoves.filter (· ≠ q) }
          finishWaiting s w 0x15 fun a => (vget a 0 0).toNat == q.1 + q.2.1 * 2 ^ 8 + q.2.2.1 * 2 ^ 16
        else
          s.modModule w fun m => { m with colmoves := m.colmoves.map fun x =>
            if x = q then (q.1, q.2.1, q.2.2.1, sealed) else x }) s) s

/-! ### CHANGE and RELEASE (R324, R330) -/

/-- R344, R347: a region stops at a seal: its sealed egress is delivered, its readout streamed. DEDUCED (log 62). -/
def stopAtSeal (s : State) (w slot : Nat) : State :=
  let t := (s.module w).slot slot
  let s := s.modSlot w slot fun t =>
    { t with eps := t.eps.map fun x => if x.egress then x.covered else x }
  let s := deliverSlot s w slot
  let s := if t.unloading then deliverReadout s w slot (readoutStream s w slot 0) else s
  stopRegion s w slot

/-- R330 operation 4: UNLOADs, and the regions of withdrawn clusters (R357). DEDUCED (log 68). -/
def changeRegions (s : State) (d : Nat) : State :=
  (memberSlots s d).foldl (fun s p =>
    let t := (s.module p.1).slot p.2
    if t.unloading || t.clusters.any (fun cl => !clusterAvailable (s.module p.1) cl) then stopAtSeal s p.1 p.2
    else s) s

/-- R284: a region joins a wide barrier at its phase. -/
def joinWide (s : State) (d w slot b : Nat) : State :=
  let x := vget (s.domain d).wide {} b
  let join (y : WideBar) : WideBar :=
    { y with members := y.members.filter (· ≠ (w, slot)) ++ [(w, slot)], leaving := y.leaving.filter (· ≠ (w, slot)) }
  let bar : BarCore := { rel := x.cur, pend := 0 }
  let node (y : BarNode) : BarNode :=
    { y with cur := x.cur, c0 := 0, c1 := 0, rep0 := 0, rep1 := 0, cp0 := false, cp1 := false }
  let s := (slotCores s w slot).foldl (fun s n => s.modCore n fun c =>
    let fix (k : Ckpt) : Ckpt := { k with bar := vset k.bar b bar }
    let c := c.setBar b bar
    { c with rcv := { c.rcv with slot0 := c.rcv.slot0.map fix, slot1 := c.rcv.slot1.map fix } }) s
  let s := (slotHubs s w slot).foldl (fun s h => s.modHub h fun y =>
    { y with bar := vset y.bar b (node (vget y.bar {} b)), barCkpt := vset y.barCkpt b (node (vget y.barCkpt {} b)) }) s
  let s := s.modSlot w slot fun t =>
    { t with joined := t.joined ||| BitVec.ofNat 16 (2 ^ b), joinedCkpt := t.joinedCkpt ||| BitVec.ofNat 16 (2 ^ b) }
  let s := s.modDomain d fun y =>
    { y with wide := vset y.wide b (join (vget y.wide {} b)), wideCkpt := vset y.wideCkpt b (join (vget y.wideCkpt {} b)) }
  startBar w slot s b

/-- R330 operation 5: launched regions join their wide barriers. -/
def changeWide (s : State) (d : Nat) : State :=
  (launchedSlots s d).foldl (fun s p =>
    (List.range 15).foldl (fun s b =>
      if isWide s p.1 p.2 b && !((s.module p.1).slot p.2).joined.getLsbD b then joinWide s d p.1 p.2 b else s) s) s

/-- R330 operation 6: staged writes of `LOG_BASE` and `LOG_SIZE`. -/
def Core.takeStaged (c : Core) : Core :=
  { c with rcv := { c.rcv with
      logBase := c.rcv.stagedBase.getD c.rcv.logBase, logSize := c.rcv.stagedSize.getD c.rcv.logSize
      stagedBase := none, stagedSize := none } }

/-- R330 operation 6. -/
def changeLogs (s : State) (d : Nat) : State := (domCores s d).foldl (fun s n => s.modCore n Core.takeStaged) s

/-- R330: the operations of CHANGE, in order. -/
def changeOps : List (State → Nat → State) :=
  [changeCores, changeRetired, changeColumns, changeRegions, changeWide, changeLogs]

/-- R330, R331: the first operations of CHANGE take effect. -/
def runChange (s : State) (d k : Nat) : State := (changeOps.take k).foldl (fun s f => f s d) s

/-- R357: a RETIRE that arrived in CHANGE waits for the seal that follows. -/
def dueRetirements (s : State) (d : Nat) : State :=
  (wafers s).foldl (fun s w => s.modModule w fun m =>
    let due := m.retireNext.filter fun n => domainOf s (mkNode w n) == some d
    { m with retireReqs := due.foldl insertNat m.retireReqs, retireNext := m.retireNext.filter fun n => !due.contains n }) s

/-- R330: CHANGE, in the order of the table. -/
def execSealChange (d : Nat) (s : State) : Out :=
  if (s.domain d).phase ≠ .change then .next s
  else
    .next ((dueRetirements (runChange s d 6) d).modDomain d fun x => { x with phase := .release })

/-- R132, R332: a `seal.wait` completes. -/
def finishSealWait (s : State) (n : Node) (x : Fin 8) : State :=
  match (s.ctx n x).blocked.map Blocked.instr with
  | some (.sealWait sd) => resumeBlocked (s.modCtx n x fun k => k.setSreg sd (sealResult (s.core n))) n x
  | _ => s

/-- R324: the arrival of a core is cleared and its context wakes. An `egr.now` goes on waiting for its delivery. -/
def releaseCore (s : State) (n : Node) : State :=
  match (s.core n).rcv.arrival with
  | none => s
  | some x =>
    let s := s.modCore n fun c => { c with rcv := { c.rcv with arrival := none } }
    if (s.ctx n x).st = .waitSeal then finishSealWait s n x else s

/-- R328: an endpoint at RELEASE: egress of the sealed interval is sealed, and the replay buffer is trimmed. -/
def releaseEndpoint (x c : Endpoint) : Endpoint :=
  if x.egress then { x with sealedUpTo := max x.sealedUpTo c.sealedUpTo }
  else { x with sealedUpTo := c.sealedUpTo, held := x.held.drop ((c.sealedUpTo - x.sealedUpTo) / 128) }

/-- R328: the endpoints of a slot at RELEASE. -/
def releaseEgress (s : State) (w slot : Nat) : State :=
  let s := s.modSlot w slot fun t =>
    { t with eps := t.eps.mapIdx fun i x => releaseEndpoint x (t.epsCkpt.getD i x.covered) }
  deliverSlot s w slot

/-- R309: a Dealer at its seal point goes on. -/
def Dealer.leaveSealpt (d : Dealer) : Dealer := if d.st = .sealpt then { d with st := .running } else d

/-- R309: the Dealers of a domain go on. -/
def resumeDealers (s : State) (d : Nat) : State :=
  let s := (domHubs s d).foldl (fun s h => s.modHub h fun x => { x with dealer := x.dealer.leaveSealpt }) s
  (domBridges s d).foldl (fun s b =>
    if nodeIn s d b then s.modBridge b fun x => { x with dealer := x.dealer.leaveSealpt } else s) s

/-- R345: a debug freeze that waited takes effect. -/
def applyFreeze (s : State) (d : Nat) : State :=
  match (s.domain d).wantFreeze with
  | some r => freezeNow s d r
  | none => s

/-- R324: RELEASE. -/
def execSealRelease (d : Nat) (s : State) : Out :=
  if (s.domain d).phase ≠ .release then .next s
  else
    let s := emptyCaches s (memberSlots s d)
    let s := s.modDomain d fun x => { x with phase := .open_, ingressPause := false }
    let s := (domCores s d).foldl releaseCore s
    let s := resumeDealers s d
    let s := (memberSlots s d).foldl (fun s p => releaseEgress s p.1 p.2) s
    .next (applyFreeze s d)

/-! ### Rollback (R327) -/

/-- Free bytes of an epoch. DESIGN CHOICE (log 13). -/
def freeBytes (e a n : Nat) : List Byte := (List.range n).map fun i => Config.freeByte e (a + i)

/-- R325, R327: the registers of a context that no checkpoint holds are undefined; the context is FREE.
DESIGN CHOICE (log 13). DESIGN CHOICE (log 64). -/
def undefCtx (e a : Nat) (k : Ctx) : Ctx :=
  let word (i : Nat) : Word := BitVec.ofNat 64 (leNat (freeBytes e (a + 8 * i) 8))
  { sts := freshSts k.sts, fires := k.fires + 1, notBefore := k.notBefore
    s := Vector.ofFn fun i => if i.val = 0 then 0 else word i.val
    p := Vector.ofFn fun i => (word (16 + i.val)).setWidth 32
    v := Vector.ofFn fun i =>
      { data := vdataOf (freeBytes e (a + 256 + 128 * i.val) 128), side := word (200 + i.val) }
    pc := (word 20).setWidth 32
    lpCnt := (word 21).setWidth 32, lpBeg := (word 22).setWidth 32, lpEnd := (word 23).setWidth 32 }

/-- R327: a checkpointed context takes its saved state; a wait for the seal ends at RESUME. -/
def restoredCtx (k : Ctx) : Ctx :=
  let k := { k with pending := [], fences := [], reports := [], kick := none, poked := [], stuck := false }
  if k.st = .waitSeal then k else { k with st := .ready, blocked := none }

/-- R327: DISCARD in a core. -/
def Core.discard (c : Core) (e : Nat) : Core :=
  let vols := ((c.mem.classes.filter fun r => r.cls = 1).map fun r => (r.base, r.bytes))
    ++ c.comm.chans.map fun p => (p.2.spillLa, 4096)
  let undef := vols.foldl (fun u v => (v.1, v.2, e) :: cutSpans v.1 v.2 u) c.mem.undef
  let inVol (w : Nat) : Bool := vols.any fun v => inRange w v.1 v.2
  let free := (vols.filter fun v => v.1 < 0x40000).flatMap fun v =>
    (feWords v.1 v.2).filter fun w => (Config.freeByte e (w + 2 ^ 32)).getLsbD 0
  { c with
    mem := { c.mem with
      l1 := (c.mem.l1.map fun l => { l with present := l.present &&& ~~~l.dirty, dirty := 0 }).filter
        fun l => l.present != 0
      fills := [], written := [], undef := undef
      full := free.foldl insertNat (c.mem.full.filter fun w => !inVol w) }
    comm := { c.comm with
      chans := c.comm.chans.map fun p => (p.1, { p.2 with queue := [], spill := [] })
      credits := c.comm.creditInit
      nb := Vector.replicate 4 none, tracker := [], copies := [], out := [], rangeNext := [], rangeAsk := [] }
    mx := { c.mx with queue := [] }
    trg := { c.trg with pseudo := [] }
    sync := { c.sync with watch := [] }
    yielded := [], later := [] }

/-- R327: one log record is applied. -/
def Core.undoRecord (c : Core) (i : Nat) : Core :=
  let a := c.rcv.logBase.toNat + 0x40000 + 144 * i
  let g := leNat (laBytes c (a + 4) 4)
  let fe := leNat (laBytes c (a + 8) 4)
  let c' := c.pokeRaw g (laBytes c (a + 16) 128)
  if laRange g = some .scratch then
    (c'.setFull (feWords g 128) false).setFull ((feWords g 128).filter fun w => bitOf fe ((w - g) / 4)) true
  else c'

/-- R327: UNDO in a core: newest record first. DEDUCED (log 51). -/
def Core.undo (c : Core) : Core :=
  let c := (List.range c.rcv.logFill).reverse.foldl Core.undoRecord c
  { c with mem := { c.mem with logged := [] }, rcv := { c.rcv with logFill := 0 } }

/-- R325, R327, R335: RESTORE in a core. DEDUCED (log 51). DESIGN CHOICE (log 64). DEDUCED (log 65). -/
def Core.restore (c : Core) (k : Ckpt) (e a : Nat) : Core :=
  let entry (i : Nat) (x : TrigEntry) : TrigEntry :=
    { x with tctl := if k.armed.getLsbD i then x.tctl ||| 1 else x.tctl &&& 0xFE }
  { c with
    ctxs := Vector.ofFn fun i =>
      match k.ctxs.find? fun p => p.1 == i with
      | some p => restoredCtx p.2
      | none => undefCtx e (a + 4096 * i.val) c.ctxs[i]
    mem := { c.mem with
      mem := (c.mem.mem.filter fun x => x.1 < 0x100000) ++ k.acc ++ c.mem.mem.filter fun x => 0x110000 ≤ x.1 }
    trg := { c.trg with
      entries := c.trg.entries.mapIdx entry, ctl := k.trgCtl
      lastPseudo := (Config.freeByte e (a + 32768)).getLsbD 0
      lastEntry := (Config.freeByte e (a + 32769)).setWidth 5 }
    comm := { c.comm with
      win := k.win, prot := k.prot, range := k.range, sent := k.sent
      routes := c.comm.routes.map fun r => (r.1, { r.2 with cur := (AMap.find k.curs r.1).getD 0 }) }
    sync := { c.sync with flags := k.flags, k := k.k, mb := k.mb, bar := k.bar }
    mx := { c.mx with w := k.w, cfg := k.mxCfg, ctab := k.ctab }
    rcv := { c.rcv with
      sealSeq := k.sealSeq, arrival := none, traps := []
      logCtl := c.rcv.logCtl &&& ~~~0xC000#64
      trapCause := 0, trapPc := 0, trapVal := 0, trapCtx := 0x0000000700000000 }
    lastIssued := (Config.freeByte e (a + 32770)).toNat % 7 }

/-- R327: DISCARD, UNDO and RESTORE of a core. DEDUCED (log 65). -/
def rollCore (e : Nat) (s : State) (n : Node) : State :=
  s.modCore n fun c =>
    let c := (c.discard e).undo
    let c := { c with mem := { c.mem with beat := some c.rcv.logBase.toNat } }
    match (if c.rcv.active then c.rcv.slot1 else c.rcv.slot0) with
    | some k => c.restore k e (n * 65536)
    | none => c

/-- R310: a Dealer goes back to its checkpoint; the Deck area is undefined. -/
def Dealer.rollback (d : Dealer) (e : Nat) : Dealer :=
  let d := { d with engine := [], held := [], area := [], undef := [(0, deckArea, e)] }
  match d.ckpt with
  | some k =>
    { d with
      d := k.d, pc := k.pc, lpCnt := k.lpCnt, lpBeg := k.lpBeg, lpEnd := k.lpEnd, inst := k.inst, g := k.g
      kicks := k.kicks, st := k.st, cause := k.cause, faultPc := k.faultPc }
  | none => d

/-- R285, R310: the hubs and bridges of a domain go back. -/
def rollHubs (s : State) (d e : Nat) : State :=
  let s := (domHubs s d).foldl (fun s h =>
    s.modHub h fun x => { x with dealer := x.dealer.rollback e, bar := x.barCkpt }) s
  (domBridges s d).foldl (fun s b =>
    if nodeIn s d b then s.modBridge b fun x => { x with dealer := x.dealer.rollback e } else s) s

/-- R73, R327: REPLAY of one endpoint, to what its checkpoint covers. -/
def replayEndpoint (x c : Endpoint) : Endpoint :=
  if x.egress then { x with held := x.held.take ((c.sealedUpTo - x.pos) / 128), sealedUpTo := c.sealedUpTo }
  else
    { x with held := x.held.drop ((c.sealedUpTo - x.sealedUpTo) / 128), sealedUpTo := c.sealedUpTo
             sendPos := c.sealedUpTo, delivered := c.sealedUpTo, credits := x.tokens }

/-- R73, R327: REPLAY of a slot. -/
def replaySlot (s : State) (p : Nat × Nat) : State :=
  let s := s.modSlot p.1 p.2 fun t =>
    { t with joined := t.joinedCkpt, eps := t.eps.mapIdx fun i x => replayEndpoint x (t.epsCkpt.getD i x) }
  deliverSlot s p.1 p.2

/-- R327: what a rollback of a domain discards; a request of another domain, or one that has left for another
domain, goes on. DEDUCED (log 63). -/
def discarded (s : State) (d : Nat) (m : Msg) : Bool :=
  match m.kind with
  | .read o ga .. | .write o ga .. | .atomic o ga .. | .piece o ga .. => nodeIn s d o.node && nodeIn s d (gaNode ga)
  | .dkPiece n _ ga .. => nodeIn s d n && nodeIn s d (gaNode ga)
  | _ => concerns s d m

/-- R185: the credits in flight of a domain's cores go with it. DEDUCED (log 63). -/
def dropDomainTraffic (s : State) (d : Nat) : State :=
  { s with
    net := s.net.filter fun m => !discarded s d m
    lots := s.lots.filter fun l => !nodeIn s d l.2.1 }

/-- R357: the regions that have lost a cluster stop. -/
def stopWithdrawn (s : State) (d : Nat) : State :=
  (memberSlots s d).foldl (fun s p =>
    if ((s.module p.1).slot p.2).clusters.any (fun cl => !clusterAvailable (s.module p.1) cl) then stopAtSeal s p.1 p.2
    else s) s

/-- R89, R331: what a machine check in CHANGE leaves of it: the finished operations stand, service code retires the cores
whose operation failed, and the others wait for the next seal. DEDUCED (log 91). -/
def endChange (s : State) (d : Nat) : State :=
  let x := s.domain d
  if x.finished = 0 ∧ x.failed = [] then s
  else
    let s := runChange (s.modDomain d fun y => { y with finished := 0, failed := [] }) d x.finished
    stopWithdrawn (x.failed.foldl (fun s n => retireCore s (nodeWafer n) (nodeNum n)) s) d

/-- R327: DISCARD to REPLAY. -/
def execRollback (d : Nat) (s : State) : Out :=
  if !(s.domain d).rolling || (s.domain d).restored then .next s
  else
    let s := dueRetirements (endChange s d) d
    let e := s.draws
    let s := dropDomainTraffic (drawn s) d
    let s := (domCores s d).foldl (rollCore e) s
    let s := rollHubs s d e
    let s := s.modDomain d fun x =>
      { x with wide := x.wideCkpt, req := false, ingressPause := false, restored := true }
    .next ((memberSlots s d).foldl replaySlot s)

/-- R327, R332: RESUME of a core. -/
def resumeCore (s : State) (n : Node) : State :=
  let s := s.modCore n fun c => { c with rcv := { c.rcv with rbCount := c.rcv.rbCount + 1, arrival := none } }
  (List.range 7).foldl (fun s i =>
    if (s.ctx n (Fin.ofNat 8 i)).st = .waitSeal then finishSealWait s n (Fin.ofNat 8 i) else s) s

/-- R71: the wake flood of a slot. In a frozen region nothing fires, and the flood waits for the end of the freeze (R136). -/
def wakeSlot (s : State) (w slot : Nat) : State :=
  let args := (((s.module w).slot slot).image.map (·.argSize)).getD 0
  let held := (slotDomain s w slot).any fun d => (s.domain d).frozen
  let s := s.modSlot w slot fun t => { t with wakeHeld := held }
  if held then s else (slotCores s w slot).foldl (fun s n => wakeCore s n args) s

/-- R71, R327: RESUME. -/
def execRollbackResume (d : Nat) (s : State) : Out :=
  if !(s.domain d).rolling || !(s.domain d).restored then .next s
  else
    let s := (domCores s d).foldl resumeCore s
    let s := emptyCaches s (memberSlots s d)
    let s := resumeDealers s d
    let s := s.modDomain d fun x => { x with rolling := false, restored := false }
    let s := (launchedSlots s d).foldl (fun s p => startSilent s p.1 p.2) s
    let s := (memberSlots s d).foldl (fun s p =>
      if ((s.module p.1).slot p.2).wakes then wakeSlot s p.1 p.2 else s) s
    .next (applyFreeze s d)

end Sys2Proof.Machine
end

