-- ==== Sys2Proof/Machine/System.lean ====
section
/-! DEFINITION. CSR and system instructions (R339–R341), trap delivery (R336), thermal trips (R348, R349, R368). -/

namespace Sys2Proof.Machine

/-! ### Writing CSRs (R113, R340) -/

/-- R113: the RW fields of a CSR; zero for one that is wholly read-only. -/
def csrRw (k : Nat) : Word :=
  match k with
  | 0x009 | 0x00A | 0x00B | 0x041 | 0x053 | 0x054 => 0xFFFFFFFF
  | 0x010 => 0x1F03
  | 0x012 => 0xFFFF
  | 0x030 => 0x1FF00000007
  | 0x031 => 0xFFFF00000000
  | 0x032 => 0xBC0FFF
  | 0x040 => 0x3FF
  | 0x042 | 0x048 | 0x049 | 0x04A | 0x04B => 0xFFFFFFFFFFFFFFFF
  | 0x043 => 0x2FFFFFFFF
  | 0x044 => 0x100FFFFFFFF
  | 0x056 => 0xF81
  | _ => if inRange k 0x020 16 then (if k % 2 = 0 then 0xFFFFFFFF3FFC0000 else 0xFFFFFFFFFFFFFFFF) else 0

/-- R114: the W1C fields of a CSR. -/
def csrW1c (k : Nat) : Word := if k = 0x008 then 7 else 0

/-- The three writing forms of R340. -/
inductive CsrForm where
  | wr | set | clr
  deriving DecidableEq, Repr

/-- R340: the value that a CSR takes. -/
def csrNew (f : CsrForm) (k : Nat) (old a : Word) : Word :=
  let rw := match f with
    | .wr => a
    | .set => old ||| a
    | .clr => old &&& ~~~a
  let w1c := match f with
    | .wr | .set => a
    | .clr => 0
  (old &&& ~~~(csrRw k)) &&& ~~~(w1c &&& csrW1c k) ||| (rw &&& csrRw k)

/-- R93: a window register image is allowed. DESIGN CHOICE (log 95). -/
def winValid (w0 param : Word) : Bool :=
  let sz := bits w0.toNat 24 5
  let base := bits w0.toNat 32 32
  let p := param.toNat
  let shr := w0.getLsbD 29
  let reg := w0.getLsbD 23
  !(shr && w0.getLsbD 21)
    && (sz == 0 || (7 ≤ sz && sz ≤ 25 && base % 2 ^ sz == 0
      && (match laRangeOf base (2 ^ sz) with
          | none | some .csr => false
          | some .regs => !w0.getLsbD 21 && !w0.getLsbD 22
          | some _ => !reg)))
    && (match bits w0.toNat 18 2 with
        | 0 => p == 0
        | 1 => p == bits p 0 5 + bits p 8 4 * 2 ^ 8
        | 2 => p == bits p 0 10 + bits p 12 4 * 2 ^ 12 && bits p 0 10 < 960
        | _ => true)

/-- R95: the window is held in use. -/
def heldInUse (c : Core) (w : Window) : Bool := w.writer ≠ 7 && (c.ctx w.writer).st != .free

/-- R95: a write of a window's word 0 is refused. -/
def winRefused (s : State) (i : Nat) (w0 : Word) : Bool :=
  let w := vget s.cn.comm.win {} i
  !winValid w0 w.staged || (s.cur.ctx == 7 && heldInUse s.cn w) || s.svc

/-- R82, R87, R95, R96, R321, R335: a restricted write. -/
def writeRefused (s : State) (k : Nat) (new : Word) : Bool :=
  match k with
  | 0x030 => s.cur.ctx != 7
  | 0x031 | 0x032 | 0x053 | 0x054 => !s.svc
  | 0x040 | 0x041 | 0x042 | 0x044 => s.cur.ctx != 7
  | _ => inRange k 0x020 16 && k % 2 == 0 && winRefused s ((k - 0x020) / 2) new

/-- The value of a CSR for the issuing context. -/
def csrOld (s : State) (k : Nat) : Word := (csrRead s s.cur.core s.cur.ctx k).getD 0

/-- R113, R340: a CSR form on a number that names none. -/
def csrMissingFault (s : State) (k : Nat) : Option TrapOf :=
  if (csrRead s s.cur.core s.cur.ctx k).isNone then some (ePerm (BitVec.ofNat 64 k)) else none

/-- R340: the faults of a writing form. -/
def csrWriteFault (s : State) (f : CsrForm) (k : Nat) (a : Word) : Option TrapOf :=
  match csrMissingFault s k with
  | some t => some t
  | none => if writeRefused s k (csrNew f k (csrOld s k) a) then some (ePerm (BitVec.ofNat 64 k)) else none

/-- Change the recovery and trap registers of the executing core. -/
def State.modRcv (s : State) (f : CoreRec → CoreRec) : State := s.modCn fun c => { c with rcv := f c.rcv }

/-- R95: word `j` of a window is written. -/
def writeWin (s : State) (i j : Nat) (v : Word) : State :=
  s.modCn fun c =>
    let w := vget c.comm.win {} i
    let w := if j = 0 then { w with w0 := v, param := w.staged, writer := s.cur.ctx } else { w with staged := v }
    { c with comm := { c.comm with win := vset c.comm.win i w } }

/-- R87: `BANKMAP.NEXT` is written. -/
def writeBankNext (s : State) (v : Word) : State :=
  let next := v.extractLsb' 32 16
  if popcount next < 14 then s
  else
    let s := s.modCn fun c => { c with mem := { c.mem with bankNext := next } }
    if s.cn.mem.bankNext = s.cn.mem.bankLive then s else requestSealAt s s.cur.core

/-- R36: a word of `CTAB` is written. -/
def writeCtab (s : State) (j : Nat) (v : Word) : State :=
  s.modCn fun c =>
    let f (i : Nat) (x : BitVec 16) : BitVec 16 := if i / 4 = j then v.extractLsb' (16 * (i % 4)) 16 else x
    { c with mx := { c.mx with ctab := c.mx.ctab.mapIdx f } }

/-- R208: a write of `RMAP_ENT`, not yet applied. -/
def writeRmap (s : State) (v : Word) : State :=
  s.modModule (nodeWafer s.cur.core) fun m =>
    { m with rmapWritten := AMap.put m.rmapWritten (siteSegment (siteOf s s.cur.core)) (v.setWidth 32) }

/-- R340: a CSR takes a value. -/
def csrPut (s : State) (k : Nat) (v : Word) : State :=
  match k with
  | 0x008 => s.modCc fun t => { t with sts := v }
  | 0x009 => s.modCc fun t => { t with lpCnt := v.setWidth 32 }
  | 0x00A => s.modCc fun t => { t with lpBeg := v.setWidth 32 }
  | 0x00B => s.modCc fun t => { t with lpEnd := v.setWidth 32 }
  | 0x010 => s.modCn fun c => { c with trg := { c.trg with ctl := v } }
  | 0x012 => s.modCn fun c => { c with sync := { c.sync with flags := v.setWidth 16 } }
  | 0x030 => s.modCn fun c => { c with comm := { c.comm with prot := v } }
  | 0x031 => writeBankNext s v
  | 0x032 => writeRmap s v
  | 0x040 => s.modRcv fun r => { r with trapCause := v }
  | 0x041 => s.modRcv fun r => { r with trapPc := v }
  | 0x042 => s.modRcv fun r => { r with trapVal := v }
  | 0x043 => s.modRcv fun r => { r with trapVec := v }
  | 0x044 => s.modRcv fun r => { r with trapCtx := v }
  | 0x048 => writeCtab s 0 v
  | 0x049 => writeCtab s 1 v
  | 0x04A => writeCtab s 2 v
  | 0x04B => writeCtab s 3 v
  | 0x053 => requestSealAt (s.modRcv fun r => { r with stagedBase := some (v.setWidth 32) }) s.cur.core
  | 0x054 => requestSealAt (s.modRcv fun r => { r with stagedSize := some (v.setWidth 32) }) s.cur.core
  | 0x056 => s.modRcv fun r => { r with logCtl := v }
  | _ => if inRange k 0x020 16 then writeWin s ((k - 0x020) / 2) (k % 2) v else s

/-- R340: a writing form: the new value, then the old one in `sd`. -/
def csrWrite (s : State) (f : CsrForm) (sd sa : SReg) (k : Nat) : State :=
  (csrPut s k (csrNew f k (csrOld s k) (s.sr sa))).setS sd (csrOld s k)

/-- R340: `csr.rd`. -/
def execCsrRd (sd : SReg) (n : Fin 8192) (s : State) : Out :=
  .next (checked s (.csrRd sd n) (fun s => csrMissingFault s n) fun s => advance (s.setS sd (csrOld s n)))
/-- R340: `csr.wr`. DESIGN CHOICE (log 98). -/
def execCsrWr (sd sa : SReg) (n : Fin 8192) (s : State) : Out :=
  .next (checked s (.csrWr sd sa n) (fun s => csrWriteFault s .wr n (s.sr sa)) fun s =>
    advance (csrWrite s .wr sd sa n))
/-- R340: `csr.set`. DESIGN CHOICE (log 98). -/
def execCsrSet (sd sa : SReg) (n : Fin 8192) (s : State) : Out :=
  .next (checked s (.csrSet sd sa n) (fun s => csrWriteFault s .set n (s.sr sa)) fun s =>
    advance (csrWrite s .set sd sa n))
/-- R340: `csr.clr`. DESIGN CHOICE (log 98). -/
def execCsrClr (sd sa : SReg) (n : Fin 8192) (s : State) : Out :=
  .next (checked s (.csrClr sd sa n) (fun s => csrWriteFault s .clr n (s.sr sa)) fun s =>
    advance (csrWrite s .clr sd sa n))

/-! ### `trap`, `eret`, `idle`, `brk`, `frz` (R341) -/

/-- R341: `trap`. -/
def execTrap (imm : BitVec 16) (s : State) : Out :=
  .next (guarded s (.trap imm) fun s => afterTrap s ⟨0x0D, imm.setWidth 64⟩)
/-- R341: `brk`. -/
def execBrk (s : State) : Out := .next (guarded s .brk fun s => afterTrap s ⟨0x0E, 0⟩)

/-- R341: a form of context 7 in another context. -/
def onlySeven (s : State) : Option TrapOf := if s.cur.ctx = 7 then none else some (ePerm 0)

/-- R341: `eret`. -/
def execEret (s : State) : Out :=
  .next (checked s .eret onlySeven fun s => returnFromTrap s s.cur.core false)
/-- R341: `idle`. -/
def execIdle (s : State) : Out :=
  .next (checked s .idle onlySeven fun s => (advance s).modCc fun k => { k with st := .idle })

/-- R341, R345: `frz`. -/
def execFrz (sa : SReg) (s : State) : Out :=
  .next (checked s (.frz sa) (fun s => if s.svc then some (ePerm 0) else none) fun s =>
    match domainOf s s.cur.core with
    | some d => debugFreeze (advance s) d ((s.sr sa).setWidth 32)
    | none => advance s)

/-! ### Trap delivery (R336) -/

/-- R336: the place of a trap among those that entered the set in one cycle: contexts ascending, orphan reports in
put-tracker order, `E_THERM_ADV`. -/
def PTrap.rank (t : PTrap) : Nat × Nat :=
  match t.ctx with
  | some x => (x.val, 0)
  | none => if t.orphan then (8, t.pos) else (9, 0)

/-- R336: a trap is ahead of another. -/
def PTrap.ahead (u t : PTrap) : Bool :=
  u.stamp < t.stamp || (u.stamp == t.stamp && (u.rank.1 < t.rank.1 || (u.rank.1 == t.rank.1 && u.rank.2 < t.rank.2)))

/-- R336: the trap that entered the set earliest. -/
def firstTrap : List PTrap → Option PTrap
  | [] => none
  | t :: ts =>
    match firstTrap ts with
    | none => some t
    | some u => if u.ahead t then some u else some t

/-- R336: a trap is pending whose cycle is over, so that the others of that cycle are too, context 7 is FREE or IDLE, and
the region is not frozen. -/
def mayDeliver (s : State) (n : Node) : Option PTrap :=
  let c := s.core n
  if (c.ctxs[7].st = .free ∨ c.ctxs[7].st = .idle) ∧ !isFrozen s n then
    (firstTrap c.rcv.traps).filter fun t => t.stamp < cycleOf s n
  else none

/-- R130, R336: context 7 starts at the trap handler, or goes on there from IDLE. DEDUCED (log 25). -/
def startSeven (s : State) (n : Node) : State :=
  let hpc := (s.core n).rcv.trapVec.setWidth 32
  let k := s.ctx n 7
  if k.st = .idle then s.setCtx n 7 { k with st := .ready, pc := hpc, notBefore := cycleOf s n + 2 }
  else
    s.setCtx n 7 (freshCtx k hpc [(1, BitVec.ofNat 64 (nodeNum n)), (2, relWord s n), (3, 0x200)] 0 0 (cycleOf s n))

/-- R336: delivery of one pending trap; without a handler, a debug freeze of the domain. DEDUCED (log 25). -/
def deliver (s : State) (n : Node) (t : PTrap) : State :=
  let s := s.modCore n fun c =>
    c.describe t (match t.ctx with | some x => x.val | none => 7) (c.rcv.traps.length - 1)
  if (s.core n).rcv.trapVec.setWidth 32 = 0#32 then
    match domainOf s n with
    | some d => debugFreeze s d ((s.core n).rcv.trapCause.setWidth 32)
    | none => s
  else
    let s := s.modCore n fun c => { c with rcv := { c.rcv with traps := c.rcv.traps.erase t } }
    startSeven s n

/-- R336: the core delivers the earliest pending trap. -/
def execTrapDeliver (n : Node) (s : State) : Out :=
  match mayDeliver s n with
  | some t => .next (deliver s n t)
  | none => .next s

/-! ### Thermal trips (R348, R349, R368) -/

/-- R348: fields of THERM_CFG. -/
def thermHyst (h : Hub) : Nat := bits h.thermCfg.toNat 32 8
/-- R348: SHUT. -/
def thermShut (h : Hub) : Nat := bits h.thermCfg.toNat 24 8
/-- R348: THROT. -/
def thermThrot (h : Hub) : Nat := bits h.thermCfg.toNat 16 8
/-- R348: ADV. -/
def thermAdv (h : Hub) : Nat := bits h.thermCfg.toNat 8 8

/-- R348: THERM_STS from its fields. -/
def thermWord (stretch : Nat) (hit throt adv : Bool) (temp : Nat) : BitVec 64 :=
  BitVec.ofNat 64 (stretch % 2 ^ 32 * 2 ^ 32 + (if hit then 2 ^ 10 else 0) + (if throt then 2 ^ 9 else 0)
    + (if adv then 2 ^ 8 else 0) + temp)

/-- R349: STRETCH up to now. -/
def Hub.stretched (h : Hub) (now : Nat) : Hub :=
  let n := bits h.thermSts.toNat 32 32 + (if h.throttled then (now - h.stretchAt) / 2 else 0)
  { h with
    thermSts := thermWord n (h.thermSts.getLsbD 10) (h.thermSts.getLsbD 9) (h.thermSts.getLsbD 8)
      (bits h.thermSts.toNat 0 8)
    stretchAt := lastWhole h.throttled h.stretchAt now }

/-- R349: a trip turns on at its temperature and off below it less the hysteresis. -/
def tripOn (on : Bool) (temp trip hyst : Nat) : Bool := trip ≤ temp || (on && trip ≤ temp + hyst)

/-- R1, R349: the cores of a cluster and its hub count their cycles up to now. DEDUCED (log 106). -/
def settleCycles (s : State) (w cl : Nat) : State :=
  let throttled := (s.hub (mkNode w (0xF000 + cl))).throttled
  (mkNode w (0xF000 + cl) :: clusterCores w cl).foldl (fun s n =>
    let t := cycleOf s n
    s.modCore n fun c =>
      { c with cycBase := t, cycAt := lastWhole throttled (max c.cycAt (s.module w).since) s.now }) s

/-- R349: STRETCH and `CYCLE` of a cluster up to now. -/
def settleClocks (s : State) (w cl : Nat) : State :=
  settleCycles (s.modHub (mkNode w (0xF000 + cl)) fun h => h.stretched s.now) w cl

/-- R349: a pending `E_THERM_ADV`, merged into one that is pending. -/
def Core.adviseTrap (c : Core) (temp cl now : Nat) : Core :=
  if !c.rcv.trapVec.getLsbD 33 || c.rcv.traps.any (·.code == 0x12) then c
  else
    { c with rcv := { c.rcv with traps := c.rcv.traps ++
      [{ code := 0x12, reported := false, orphan := false, pc := 0, val := BitVec.ofNat 64 (temp + cl * 2 ^ 16),
         rpc := 0, ctx := none, stamp := now }] } }

/-- R349: the ports that ADVISE tells. -/
def advisedPorts (s : State) (w cl : Nat) : List Nat :=
  match slotOf s (mkNode w (0xF000 + cl)) with
  | some i => [((s.module w).slot i).owner]
  | none => [1, 2]

/-- R349: the action of ADVISE. -/
def advise (s : State) (w cl temp : Nat) : State :=
  let s := (advisedPorts s w cl).foldl (fun s p => sendMsix s w p 33) s
  (clusterCores w cl).foldl (fun s n =>
    if (s.core n).rcv.trapVec.getLsbD 33 then s.modCore n fun c => c.adviseTrap temp cl (cycleOf s n) else s) s

/-- R349: SHUT_HIT := 1. -/
def Hub.hitShut (h : Hub) : Hub := { h with thermSts := h.thermSts ||| 0x400 }

/-- R349: the cluster is powered down. -/
def powerDown (s : State) (w cl : Nat) : State :=
  let h := mkNode w (0xF000 + cl)
  let s := if (s.hub h).throttled then settleClocks s w cl else s
  let s := s.modHub h fun x => { x.hitShut with power := .shut }
  (clusterCores w cl).foldl (fun s n =>
    if (AMap.find s.cores n).isSome then
      s.modCore n fun c =>
        { mem := { bankLive := c.mem.bankLive, bankNext := c.mem.bankLive }, cycBase := c.cycBase, cycAt := c.cycAt }
    else s) s

/-- R349: SHUTDOWN of a cluster. DEDUCED (log 18). -/
def shutDown (s : State) (w cl : Nat) : State :=
  let h := mkNode w (0xF000 + cl)
  powerDown (machineCheckAt s h 6 cl) w cl

/-- R349: one sample of a cluster's sensor. -/
def execThermalSample (w : Fin 16) (cluster : Nat) (temp : BitVec 8) (s : State) : Out :=
  let n := mkNode w (0xF000 + cluster)
  if !(s.module w).present || Config.clusters ≤ cluster then .next s
  else
    let s := settleClocks s w cluster
    let h := s.hub n
    let t := temp.toNat
    let sts := h.thermSts
    let adv := tripOn (sts.getLsbD 8) t (thermAdv h) (thermHyst h)
    let throt := tripOn (sts.getLsbD 9) t (thermThrot h) (thermHyst h)
    let word := thermWord (bits sts.toNat 32 32) (sts.getLsbD 10) throt adv t
    let s := s.modHub n fun h => { h with thermSts := word }
    let s := if adv && !sts.getLsbD 8 then advise s w cluster t else s
    .next (if t < thermShut h then s
      else if h.power = .shut then s.modHub n Hub.hitShut
      else shutDown s w cluster)

/-- R368: every cluster below a number shuts down; one that is without power since an earlier shutdown has SHUT_HIT set
again. A domain that an earlier cluster's shutdown has reset is not reset again. DEDUCED (log 70). -/
def shutAll (s0 s : State) (w : Nat) : Nat → State
  | 0 => s
  | k + 1 =>
    let s := shutAll s0 s w k
    let h := mkNode w (0xF000 + k)
    if (s.hub h).power = .shut then s.modHub h Hub.hitShut
    else if (domainOf s0 h).isSome && (domainOf s h).isNone then powerDown s w k
    else shutDown s w k

/-- R368: coolant flow below half its minimum for a second: every cluster acts as SHUTDOWN does. DEDUCED (log 70). -/
def execCoolantFlowLow (w : Fin 16) (s : State) : Out :=
  .next (if (s.module w).present then shutAll s s w Config.clusters else s)

end Sys2Proof.Machine
end

