-- ==== Sys2Proof/Machine/Image.lean ====
section
/-! DEFINITION. The graph image: its fields, and the loader's checks of it (R11–R26, R69, R184, R185, R300, R312,
R315, R371). -/

namespace Sys2Proof.Machine

/-! ### Fields and sections (R11–R15) -/

/-- A little-endian field of `n` bytes at an offset (R5, R11). -/
def fld (l : List Byte) (o n : Nat) : Nat := leNat ((l.drop o).take n)

/-- Every byte is zero. -/
def allZero (l : List Byte) : Bool := l.all (· == 0)

/-- The first `k` pieces of `n` bytes. -/
def cut (n : Nat) : Nat → List Byte → List (List Byte)
  | 0, _ => []
  | k + 1, l => l.take n :: cut n k (l.drop n)

/-- The records of `n` bytes that a body holds. -/
def rowsOf (n : Nat) (l : List Byte) : List (List Byte) := cut n (l.length / n) l

/-- R12: the region configuration header. -/
structure Header where
  regW : Nat
  regH : Nat
  sections : Nat
  endpts : Nat
  mask : Nat
  domain : Nat
  wafers : Nat
  policy : Nat
  barUsed : Nat
  logSize : Nat
  argSize : Nat
  minBanks : Nat
  trgFlags : Nat
  deriving DecidableEq, Repr

/-- R12: the header of an image. -/
def header (img : List Byte) : Header :=
  { regW := fld img 0x10 2, regH := fld img 0x12 2, sections := fld img 0x14 2, endpts := fld img 0x16 2
    mask := fld img 0x18 8, domain := fld img 0x20 4, wafers := fld img 0x24 1, policy := fld img 0x25 1
    barUsed := fld img 0x26 2, logSize := fld img 0x28 4, argSize := fld img 0x2C 4, minBanks := fld img 0x30 1
    trgFlags := fld img 0x31 1 }

/-- R14: a directory entry with its body; `w` and `h` are the selector's extents. -/
structure Sect where
  typ : Nat
  sflags : Nat
  x : Nat
  y : Nat
  w : Nat
  h : Nat
  off : Nat
  len : Nat
  body : List Byte
  deriving DecidableEq, Repr

/-- R14: one directory entry. -/
def sectAt (img : List Byte) (i : Nat) : Sect :=
  let o := 0x80 + 16 * i
  let off := fld img (o + 8) 4
  let len := fld img (o + 12) 4
  { typ := fld img o 2, sflags := fld img (o + 2) 2, x := fld img (o + 4) 1, y := fld img (o + 5) 1
    w := fld img (o + 6) 1 + 1, h := fld img (o + 7) 1 + 1, off := off, len := len
    body := (img.drop off).take len }

/-- R11: the sections of an image in directory order. -/
def sectsOf (img : List Byte) : List Sect := (List.range (header img).sections).map (sectAt img)

/-! ### Codes 0x01 to 0x03 (R12, R15, R26, R67, R371) -/

/-- R26 0x01: MAGIC, VERSION or HDR_SIZE is wrong. -/
def badMagic (img : List Byte) : Bool := fld img 0 4 ≠ 0x4732574C || fld img 4 2 ≠ 1 || fld img 6 2 ≠ 0x80

/-- R12: the CRC over the image with the CRC field taken as zero. -/
def imageCrc (img : List Byte) : BitVec 32 := crc32c (img.take 12 ++ leBytes 4 0 ++ img.drop 16)

/-- R26 0x02: the CRC does not match. -/
def badCrc (img : List Byte) : Bool := (imageCrc img).toNat ≠ fld img 12 4

/-- R371: a LENGTH that a TYPE allows; Data bodies follow R18, and one without a record is allowed. DESIGN CHOICE (log 76). -/
def lengthOk (endpts t n : Nat) : Bool :=
  match t with
  | 1 => 0 < n && n % 64 == 0
  | 2 => 0 < n && n % 32 == 0
  | 3 => true
  | 4 => n == 128
  | 5 => 0 < n && n % 16 == 0
  | 6 => n == 512
  | 7 => n == 512
  | 8 => n == 128
  | 9 => 0 < n && n % 8 == 0
  | 10 => 24 ≤ n && n ≤ 16 + 8 * 8192 && n % 8 == 0
  | 11 => n == 32 * endpts && 0 < endpts
  | _ => false

/-- R11: two section bodies share a byte. -/
def bodiesOverlap : List Sect → Bool
  | [] => false
  | a :: t => t.any (fun b => overlaps a.off a.len b.off b.len) || bodiesOverlap t

/-- R26 0x03: an invalid TYPE, overlapping bodies, a body outside the image, or a wrong LENGTH. DESIGN CHOICE (log 76). -/
def badLayout (img : List Byte) : Bool :=
  let h := header img
  let ss := sectsOf img
  let dir := 0x80 + 16 * h.sections
  img.length < dir
    || (ss.any fun s => s.typ = 0 || 11 < s.typ || s.off < dir || img.length < s.off + s.len
      || !lengthOk h.endpts s.typ s.len)
    || 1 < (ss.filter (·.typ == 11)).length
    || bodiesOverlap ss

/-! ### Code 0x04: reserved fields and ranges -/

/-- R12: the header's fields are in range. -/
def badHeader (img : List Byte) : Bool :=
  let h := header img
  let ok := 1 ≤ h.regW && h.regW ≤ 32 && 1 ≤ h.regH && h.regH ≤ 30 && 1 ≤ h.sections && h.sections ≤ 4096
    && h.endpts ≤ 64 && h.mask < 512 && 1 ≤ h.wafers && h.wafers ≤ 16 && h.policy ≤ 1 && h.barUsed < 0x8000
    && h.logSize % 0x80000 == 0 && 0x80000 ≤ h.logSize && h.logSize ≤ 0x800000 && h.argSize ≤ 4096
    && h.argSize % 8 == 0 && 14 ≤ h.minBanks && h.minBanks ≤ 16 && h.trgFlags ≤ 1
    && img.length % 16 == 0 && allZero ((img.drop 0x32).take 78)
  !ok

/-- R14: a directory entry's own fields. SFLAGS bit 0 on a section other than Deck breaks them. DESIGN CHOICE (log 76). -/
def badEntry (s : Sect) : Bool :=
  let ok := s.off % 16 == 0 && s.sflags ≤ 1
    && (s.typ != 11 || (s.sflags == 0 && s.x == 0 && s.y == 0 && s.w == 1 && s.h == 1))
    && (s.sflags == 0 || (s.typ == 10 && s.x ≤ 31 && s.y == 0 && s.w == 1 && s.h == 1))
  !ok

/-- R16: a tensor declaration. -/
structure TensorDecl where
  id : Nat
  cls : Nat
  base : Nat
  bytes : Nat
  deriving DecidableEq, Repr

/-- R16: a declaration from its 32 bytes. -/
def tensorOf (e : List Byte) : TensorDecl :=
  { id := fld e 0 2, cls := fld e 3 1, base := fld e 4 4, bytes := fld e 8 4 }

/-- R16: the fields of a declaration are in range. -/
def tensorRange (e : List Byte) : Bool :=
  let fmt := fld e 2 1
  let rank := fld e 12 1
  fmt % 16 ≤ 8 && fmt < 32 && fld e 3 1 ≤ 2 && 1 ≤ rank && rank ≤ 4 && allZero ((e.drop 13).take 3)
    && allZero (e.drop (16 + 4 * rank))

/-- R18: a data record. -/
structure DataRec where
  id : Nat
  dflags : Nat
  off : Nat
  count : Nat
  rest : List Byte
  data : List Byte
  deriving DecidableEq, Repr

/-- R18: the records of a Data body, and whether they end exactly at its LENGTH. `rest` holds what must be zero. -/
def dataRecs : Nat → List Byte → List DataRec × Bool
  | _, [] => ([], true)
  | 0, _ => ([], false)
  | k + 1, l =>
    let c := fld l 8 4
    let p := (16 - c % 16) % 16
    if l.length < 16 then ([], false)
    else
      let r : DataRec :=
        { id := fld l 0 2, dflags := fld l 2 2, off := fld l 4 4, count := c,
          rest := (l.drop 12).take 4 ++ (l.drop (16 + c)).take p, data := (l.drop 16).take c }
      if l.length < 16 + c + p then ([r], false)
      else
        let q := dataRecs k (l.drop (16 + c + p))
        (r :: q.1, q.2)

/-- R18: the records of a body. -/
def recsOf (b : List Byte) : List DataRec × Bool := dataRecs (b.length / 16 + 1) b

/-- R18: the fields of a record, and the padding after it, are in range. DESIGN CHOICE (log 76). -/
def recRange (r : DataRec) : Bool := r.dflags ≤ 1 && 1 ≤ r.count && allZero r.rest

/-- R93: the words of a window image. -/
def winOf (e : List Byte) : Word × Word := (BitVec.ofNat 64 (fld e 0 8), BitVec.ofNat 64 (fld e 8 8))

/-- R93: a window image is allowed, its reserved bits zero. DEDUCED (log 40). -/
def winRange (e : List Byte) : Bool := (winOf e).1 &&& 0xC003FFFF == 0 && winValid (winOf e).1 (winOf e).2

/-- R19: a channel declaration. -/
structure ChanDecl where
  ch : Nat
  stream : Nat
  x : Nat
  y : Nat
  tokens : Nat
  cflags : Nat
  spill : Nat
  deriving DecidableEq, Repr

/-- R19: a declaration from its 16 bytes. -/
def chanOf (e : List Byte) : ChanDecl :=
  { ch := fld e 0 1, stream := fld e 1 1, x := fld e 2 1, y := fld e 3 1, tokens := fld e 4 2, cflags := fld e 6 1
    spill := fld e 8 4 }

/-- R19: HOST. -/
def ChanDecl.host (c : ChanDecl) : Bool := bitOf c.cflags 1
/-- R19: CYCLE. -/
def ChanDecl.cyclic (c : ChanDecl) : Bool := bitOf c.cflags 0

/-- R19: the fields of a declaration are in range. -/
def chanRange (e : List Byte) : Bool :=
  fld e 0 1 ≤ 23 && fld e 1 1 ≤ 63 && 1 ≤ fld e 4 2 && fld e 6 1 < 4 && fld e 7 1 == 0 && fld e 12 4 == 0

/-- R20: the four port sets of an entry. -/
def setsOf (e : List Byte) : List Nat := [fld e 0 2, fld e 2 2, fld e 4 2, fld e 6 2]

/-- R20: reserved bits of a port set. -/
def setBits (x : Nat) : Bool := !bitOf x 14 && !bitOf x 12

/-- R21: the reserved bits and the ranges of a condition. -/
def condRange (x : Nat) : Bool :=
  let kind := bits x 14 2
  !bitOf x 13 && (kind == 0 || (bits x 8 5 ≤ 23 && (kind != 3 || (1 ≤ bits x 0 8 && bits x 0 8 ≤ 16))))

/-- R21: the reserved bits and the range of a binding. -/
def bindRange (x : Nat) : Bool := bits x 5 2 == 0 && (!bitOf x 7 || bits x 0 5 ≤ 23)

/-- R21: the fields of a trigger entry are in range. -/
def trigRange (e : List Byte) : Bool :=
  condRange (fld e 4 2) && condRange (fld e 6 2) && bindRange (fld e 12 1) && bindRange (fld e 13 1)
    && fld e 14 1 < 4 && fld e 15 1 == 0

/-- R22: the fields of a tree-node entry are in range. -/
def nodeRange (e : List Byte) : Bool :=
  fld e 0 1 < 16 && fld e 1 1 ≤ 5 && fld e 2 1 ≤ 64 && allZero ((e.drop 3).take 5)

/-- R69: the fields of an endpoint entry are in range. -/
def endpointRange (e : List Byte) : Bool :=
  let dir := fld e 24 1
  dir ≤ 1 && fld e 25 1 ≤ 63 && (if dir = 0 then fld e 28 1 ≤ 23 else fld e 28 1 == 0) && allZero ((e.drop 29).take 3)

/-- R26 0x04: the fields of a body are in range. -/
def bodyRange (s : Sect) : Bool :=
  match s.typ with
  | 2 => (rowsOf 32 s.body).all tensorRange
  | 3 => (recsOf s.body).1.all recRange
  | 4 => (rowsOf 16 s.body).all winRange
  | 5 => (rowsOf 16 s.body).all chanRange
  | 6 => (rowsOf 8 s.body).all fun e => (setsOf e).all setBits
  | 7 => (rowsOf 16 s.body).all trigRange
  | 8 => (rowsOf 8 s.body).all nodeRange
  | 9 => (rowsOf 8 s.body).all fun e => fld e 6 2 == 0
  | 11 => (rowsOf 32 s.body).all endpointRange
  | _ => true

/-- R26 0x04. DEDUCED (log 40). DESIGN CHOICE (log 76). -/
def badFields (img : List Byte) : Bool :=
  badHeader img || (sectsOf img).any fun s => badEntry s || !bodyRange s

/-! ### Code 0x05: shape and selectors -/

/-- R14: a section installed per hub. -/
def Sect.perHub (s : Sect) : Bool := s.typ == 8 || s.typ == 10

/-- R26 0x05: the shape differs from the claim, or a selector leaves the region. -/
def badShape (img : List Byte) (t : Slot) : Bool :=
  let h := header img
  h.regW ≠ t.w || h.regH ≠ t.h || (sectsOf img).any fun s =>
    s.sflags == 0 && s.typ != 11
      && (if s.perHub then h.regW < s.x + s.w || h.regH < s.y + s.h
          else 8 * h.regW < s.x + s.w || 8 * h.regH < s.y + s.h)

/-! ### What each core and hub receives (R14, R25) -/

/-- R14: the selector covers a core or a hub. -/
def Sect.covers (s : Sect) (x y : Nat) : Bool := s.sflags == 0 && inRange x s.x s.w && inRange y s.y s.h

/-- R25: a later body of a type replaces an earlier one for the same target. DEDUCED (log 77). -/
def lastBody (ss : List Sect) (typ x y : Nat) : List Byte :=
  (((ss.filter fun s => s.typ == typ && s.covers x y).getLast?).map (·.body)).getD []

/-- What one core receives. -/
structure CoreImage where
  code : List Byte
  tensors : List TensorDecl
  data : List DataRec
  dataOk : Bool
  wins : List (Word × Word)
  chans : List ChanDecl
  routes : List (List Nat)
  trigs : List (List Byte)
  seals : List (Nat × Nat)
  deriving DecidableEq, Repr

/-- R25: what the core at relative (x, y) receives. Every Data body of it applies, in order (R18). DEDUCED (log 77). -/
def coreImage (ss : List Sect) (x y : Nat) : CoreImage :=
  let ds := (ss.filter fun s => s.typ == 3 && s.covers x y).map fun s => recsOf s.body
  { code := lastBody ss 1 x y
    tensors := (rowsOf 32 (lastBody ss 2 x y)).map tensorOf
    data := ds.flatMap (·.1)
    dataOk := ds.all (·.2)
    wins := (rowsOf 16 (lastBody ss 4 x y)).map winOf
    chans := (rowsOf 16 (lastBody ss 5 x y)).map chanOf
    routes := (rowsOf 8 (lastBody ss 6 x y)).map setsOf
    trigs := rowsOf 16 (lastBody ss 7 x y)
    seals := (rowsOf 8 (lastBody ss 9 x y)).map fun e => (fld e 0 4, fld e 4 2) }

/-- The relative coordinates of a region's cores, row by row. -/
def relCores (h : Header) : List (Nat × Nat) :=
  (List.range (8 * h.regH)).flatMap fun y => (List.range (8 * h.regW)).map fun x => (x, y)

/-- What every core of the region receives. -/
def coreImages (img : List Byte) : List ((Nat × Nat) × CoreImage) :=
  let ss := sectsOf img
  (relCores (header img)).map fun p => (p, coreImage ss p.1 p.2)

/-- The core at relative coordinates of a slot's rectangle. -/
def relCore (w : Nat) (t : Slot) (p : Nat × Nat) : Node := mkNode w ((8 * t.y0 + p.2) * 256 + 8 * t.x0 + p.1)

/-! ### Code 0x06: capacity -/

/-- R25: the first Shelf LA above what an image puts below the log. A spill area outside the Shelf window breaks R19
instead. -/
def CoreImage.top (k : CoreImage) : Nat :=
  let a := k.tensors.foldl (fun a t => if laRange t.base = some .shelf then max a (t.base + t.bytes) else a)
    (0x40000000 + k.code.length)
  (k.chans.filter fun c => laRange c.spill == some .shelf).foldl (fun a c => max a (c.spill + 4096)) a

/-- R26 0x06, R357: a withdrawn cluster, too few live banks, or contents that do not fit. -/
def badCapacity (s : State) (w : Nat) (t : Slot) (img : List Byte) : Bool :=
  let h := header img
  (t.clusters.any fun cl => !clusterAvailable (s.module w) cl)
    || (coreImages img).any fun q =>
      let c := s.core (relCore w t q.1)
      bankCount c < h.minBanks || shelfTop c < q.2.top + h.logSize

/-! ### Code 0x07: the rules of R17–R24, R69, R184, R185, R300, R312 -/

/-- R17: a tensor lies wholly in the scratchpad or wholly in the Shelf, on its boundaries. -/
def tensorPlaced (t : TensorDecl) : Bool :=
  (t.base + t.bytes ≤ 0x40000 && t.base % 128 == 0 && t.bytes % 128 == 0 && t.cls ≤ 1)
    || (0x40000000 ≤ t.base && t.base + t.bytes ≤ 0x42000000 && t.base % 512 == 0 && t.bytes % 512 == 0)

/-- R17: ranges of a list share a byte. -/
def rangesOverlap : List (Nat × Nat) → Bool
  | [] => false
  | a :: t => t.any (fun b => overlaps a.1 a.2 b.1 b.2) || rangesOverlap t

/-- R16, R17: the tensors of a core. DESIGN CHOICE (log 76). -/
def tensorsOk (k : CoreImage) : Bool :=
  let ts := k.tensors.map fun t => (t.base, t.bytes)
  let other := (0x40000000, k.code.length) :: k.chans.map fun c => (c.spill, 4096)
  k.tensors.all tensorPlaced && !rangesOverlap ts
    && (ts.all fun t => other.all fun o => !overlaps t.1 t.2 o.1 o.2)
    && (k.tensors.map (·.id)).Nodup

/-- R16: a TENSOR_ID names one tensor of the image: declarations that share it agree in all but the BASE of the share.
DEDUCED (log 104). -/
def tensorIdsOk (ss : List Sect) : Bool :=
  let rows := (ss.filter (·.typ == 2)).flatMap fun s => rowsOf 32 s.body
  rows.all fun a => rows.all fun b =>
    fld a 0 2 != fld b 0 2 || (a.take 4 ++ a.drop 8 == b.take 4 ++ b.drop 8)

/-- R18: a data record against the tensors of a target. -/
def recOk (k : CoreImage) (r : DataRec) : Bool :=
  match k.tensors.find? (·.id == r.id) with
  | none => false
  | some t =>
    r.off + r.count ≤ t.bytes
      && (r.dflags == 0 || (t.base + t.bytes ≤ 0x40000 && r.off % 4 == 0 && r.count % 4 == 0))

/-- R19: the source of a declaration, to compare it with another's. -/
def ChanDecl.source (c : ChanDecl) : Nat × Nat × Bool × Nat := if c.host then (0, 0, true, c.stream) else (c.x, c.y, false, c.stream)

/-- R19, R300: the channel declarations of a core. -/
def chansOk (h : Header) (named : BitVec 64) (k : CoreImage) : Bool :=
  (k.chans.map (·.ch)).Nodup && (k.chans.map (·.source)).Nodup
    && k.chans.all fun c =>
      (!c.cyclic || c.tokens ≤ 16) && !named.getLsbD c.stream
        && (if c.host then c.x == 0 && c.y == 0 else c.x < 8 * h.regW && c.y < 8 * h.regH)
        && c.spill % 4096 == 0 && 0x40000000 ≤ c.spill && c.spill + 4096 ≤ 0x42000000

/-- R20: the sets of a used entry, which end at the first with LAST. -/
def entrySets (sets : List Nat) : List Nat :=
  match sets.findIdx? (bitOf · 13) with
  | some i => sets.take (i + 1)
  | none => []

/-- R20, R312: an entry at relative (x, y). -/
def entryOk (h : Header) (chunk : BitVec 64) (p : Nat × Nat) (stream : Nat) (sets : List Nat) : Bool :=
  let used := entrySets sets
  if !bitOf (sets.headD 0) 15 then sets.all (· == 0)
  else
    let edges := [p.2 == 0, p.1 + 1 == 8 * h.regW, p.2 + 1 == 8 * h.regH, p.1 == 0]
    !used.isEmpty && used.all (bitOf · 15) && (sets.drop used.length).all (· == 0)
      && used.all fun v =>
        (List.range 4).all fun d =>
          !(bitOf v d && bitOf v (5 + d))
            && (chunk.getLsbD stream || !(edges.getD d false && (bitOf v d || bitOf v (5 + d))))

/-- R185: TOKENS of the channels declared with a stream and a source. -/
def tokensFor (cs : List ((Nat × Nat) × CoreImage)) (p : Nat × Nat) (stream : Nat) : List Nat :=
  cs.flatMap fun q => (q.2.chans.filter fun c => !c.host && c.stream == stream && c.x == p.1 && c.y == p.2).map (·.tokens)

/-- R69: an egress endpoint of a core and stream. -/
def egressAt (es : List (List Byte)) (p : Nat × Nat) (stream : Nat) : Bool :=
  es.any fun e => fld e 24 1 == 1 && fld e 25 1 == stream && fld e 26 1 == p.1 && fld e 27 1 == p.2

/-- R185: the streams of a core whose entry names the local port in IN of some set. -/
def localStreams (k : CoreImage) : List Nat :=
  (List.range 64).filter fun i => (k.routes.getD i []).any fun v => bitOf v 15 && bitOf v 4

/-- R185: every stream that a core can send on has credits. -/
def creditsOk (chunk : BitVec 64) (cs : List ((Nat × Nat) × CoreImage)) (es : List (List Byte)) (p : Nat × Nat)
    (k : CoreImage) : Bool :=
  (localStreams k).all fun i => chunk.getLsbD i || !(tokensFor cs p i).isEmpty || egressAt es p i

/-- The sets of a stream at relative (x, y). -/
def setsAt (cs : List ((Nat × Nat) × CoreImage)) (p : Nat × Nat) (stream : Nat) : List Nat :=
  match cs.find? (·.1 == p) with
  | some q => q.2.routes.getD stream []
  | none => []

/-- The relative coordinates one hop away. -/
def relNext (h : Header) (p : Nat × Nat) (d : Nat) : Option (Nat × Nat) :=
  match d with
  | 0 => if p.2 = 0 then none else some (p.1, p.2 - 1)
  | 1 => if p.1 + 1 < 8 * h.regW then some (p.1 + 1, p.2) else none
  | 2 => if p.2 + 1 < 8 * h.regH then some (p.1, p.2 + 1) else none
  | _ => if p.1 = 0 then none else some (p.1 - 1, p.2)

/-- R184: the routers and arriving ports one hop further, and the cores that the local port delivers to. -/
def traceStep (h : Header) (cs : List ((Nat × Nat) × CoreImage)) (stream : Nat) (q : (Nat × Nat) × Nat) :
    List ((Nat × Nat) × Nat) :=
  ((setsAt cs q.1 stream).filter fun v => bitOf v 15 && bitOf v q.2).flatMap fun v =>
    (List.range 5).filterMap fun d =>
      if !bitOf v (5 + d) then none
      else if d = 4 then some (q.1, 5)
      else (relNext h q.1 d).map fun p => (p, oppositeDir d)

/-- R184: the places that a source's words reach on a stream; port 5 stands for delivery to the core. -/
def traceFrom (h : Header) (cs : List ((Nat × Nat) × CoreImage)) (stream : Nat) :
    Nat → List ((Nat × Nat) × Nat) → List ((Nat × Nat) × Nat) → List ((Nat × Nat) × Nat)
  | 0, _, seen => seen
  | _, [], seen => seen
  | n + 1, q :: todo, seen =>
    let new := (traceStep h cs stream q).filter fun x => !seen.contains x
    let seen := seen ++ new.eraseDups
    traceFrom h cs stream n (todo ++ (new.eraseDups.filter (·.2 ≠ 5))) seen

/-- R184: the load-time trace of a source's stream. -/
def traceOk (h : Header) (cs : List ((Nat × Nat) × CoreImage)) (p : Nat × Nat) (stream : Nat) : Bool :=
  let reached := traceFrom h cs stream (6 * cs.length + 6) [(p, 4)] [(p, 4)]
  reached.all fun q =>
    q.2 ≠ 5 || (match cs.find? (·.1 == q.1) with
      | some k => k.2.chans.any fun c => !c.host && c.stream == stream && c.x == p.1 && c.y == p.2
      | none => false)

/-- R21: a PC names a head of a code body. -/
def codeHead (code : List Byte) (pc : Nat) : Bool :=
  0x40000000 ≤ pc && (pc - 0x40000000) / 64 < code.length / 64
    && namesHead ((code.drop ((pc - 0x40000000) / 64 * 64)).take 64) pc

/-- The instruction value of a head of a code body. -/
def codeValue (code : List Byte) (pc : Nat) : Nat :=
  lineValue ((code.drop ((pc - 0x40000000) / 64 * 64)).take 64) ((pc % 64 - 2) / 2)

/-- R21: the trigger entries of a core. An entry with HPC 0 that is not armed names no handler. DEDUCED (log 78). -/
def trigsOk (k : CoreImage) : Bool :=
  k.trigs.isEmpty ||
    (fld (k.trigs.headD []) 14 1 % 2 == 1
      && k.trigs.all fun e => (fld e 8 4 == 0 && fld e 14 1 % 2 == 0) || codeHead k.code (fld e 8 4))

/-- R23: a value is a `seal.arr` or an `egr.now` by its major and minor. -/
def sealHead (v : Nat) : Bool := bits v 8 6 == 0x3C && (bits v 4 4 == 3 || bits v 4 4 == 6)

/-- The heads of a code body. DEDUCED (log 78). -/
def codeHeads (code : List Byte) : List Nat :=
  (List.range (code.length / 64)).flatMap fun i =>
    ((List.range 31).map fun j => 0x40000000 + 64 * i + 2 + 2 * j).filter (codeHead code)

/-- R23: a `seal.arr` or an `egr.now`, which needs an entry. -/
def isSealPoint (v : Nat) : Bool :=
  match decodeValue v with
  | .ok (.sealArr _) | .ok (.egrNow _ _) => true
  | _ => false

/-- R23: the seal points of a core. DEDUCED (log 78). -/
def sealsOk (k : CoreImage) : Bool :=
  (k.seals.all fun e => codeHead k.code e.1 && sealHead (codeValue k.code e.1))
    && (k.seals.map (·.2)).Nodup
    && (codeHeads k.code).all fun pc => !isSealPoint (codeValue k.code pc) || k.seals.any (·.1 == pc)

/-- R24: the vectors and words of a Deck image. -/
def deckOf (b : List Byte) : List Nat × List Word :=
  ((List.range 8).map fun i => fld b (2 * i) 2, (rowsOf 8 (b.drop 16)).map fun e => BitVec.ofNat 64 (leNat e))

/-- R24: a Deck image. -/
def deckOk (b : List Byte) : Bool :=
  let d := deckOf b
  d.1.headD 0xFFFF ≠ 0xFFFF && d.1.all fun i => i == 0xFFFF || i < d.2.length

/-- R300: the stream that a Deck word names. -/
def deckStream (w : Word) : Option Nat :=
  match decodeDeck w.toNat with
  | .ok (.dkSend _ _ _ _ st _ _ _) | .ok (.dkRecv _ _ _ st _ _) | .ok (.dkRred _ _ _ st _ _ _ _)
  | .ok (.dkStep _ st) => some st.val
  | _ => none

/-- R300: the streams that Deck words of an image name. -/
def namedStreams (ss : List Sect) : BitVec 64 :=
  ((ss.filter (·.typ == 10)).flatMap fun s => (deckOf s.body).2.filterMap deckStream).foldl
    (fun a i => a ||| (1#64 <<< i)) 0

/-- R312: an image with a Deck treats as a chunk stream every stream without a channel and an endpoint. -/
def chunkStreams (ss : List Sect) : BitVec 64 :=
  if !ss.any (·.typ == 10) then 0
  else
    let chans := (ss.filter (·.typ == 5)).flatMap fun s => (rowsOf 16 s.body).map fun e => fld e 1 1
    let eps := (ss.filter (·.typ == 11)).flatMap fun s => (rowsOf 32 s.body).map fun e => fld e 25 1
    (chans ++ eps).foldl (fun a i => a &&& ~~~(1#64 <<< i)) (~~~0#64)

/-- R69: the entries of the Endpoints section. -/
def endpointRows (ss : List Sect) : List (List Byte) :=
  (ss.filter (·.typ == 11)).flatMap fun s => rowsOf 32 s.body

/-- R69: a name is ASCII, padded with NUL bytes. -/
def nameOk (n : List Byte) : Bool :=
  let a := n.takeWhile (· != 0)
  a.all (fun b => b.toNat < 128) && allZero (n.drop a.length)

/-- R69, R300: an endpoint entry. DESIGN CHOICE (log 76). -/
def endpointOk (h : Header) (named : BitVec 64) (cs : List ((Nat × Nat) × CoreImage)) (e : List Byte) : Bool :=
  let p := (fld e 26 1, fld e 27 1)
  nameOk (e.take 24) && !named.getLsbD (fld e 25 1) && p.1 < 8 * h.regW && p.2 < 8 * h.regH
    && (fld e 24 1 == 1 || (match cs.find? (·.1 == p) with
      | some k => k.2.chans.any fun c => c.ch == fld e 28 1 && c.stream == fld e 25 1 && c.host
      | none => false))

/-- R22: the 16 tree-node entries of a hub; one that no body covers has entries of zeros. DESIGN CHOICE (log 110). -/
def hubNodes (ss : List Sect) (x y : Nat) : List (List Byte) :=
  let b := lastBody ss 8 x y
  if b.isEmpty then List.replicate 16 (List.replicate 8 0) else rowsOf 8 b

/-- R22: CHILD, PARENT and LOCAL of barrier `b` at every hub of the region. -/
def treeOf (h : Header) (ss : List Sect) (b : Nat) : List ((Nat × Nat) × List Byte) :=
  (List.range h.regH).flatMap fun y => (List.range h.regW).map fun x => ((x, y), (hubNodes ss x y).getD b [])

/-- R22: the hub one hop away. -/
def hubRel (h : Header) (p : Nat × Nat) (d : Nat) : Option (Nat × Nat) :=
  match d with
  | 0 => if p.2 = 0 then none else some (p.1, p.2 - 1)
  | 1 => if p.1 + 1 < h.regW then some (p.1 + 1, p.2) else none
  | 2 => if p.2 + 1 < h.regH then some (p.1, p.2 + 1) else none
  | _ => if p.1 = 0 then none else some (p.1 - 1, p.2)

/-- R22: PARENT of a node. -/
def parentOf (t : List ((Nat × Nat) × List Byte)) (p : Nat × Nat) : Option Nat :=
  (t.find? (·.1 == p)).map fun q => fld q.2 1 1

/-- R22: the root that a node's PARENT links lead to within `n` hops. -/
def climbs (h : Header) (t : List ((Nat × Nat) × List Byte)) : Nat → Nat × Nat → Bool
  | 0, _ => false
  | n + 1, p =>
    match parentOf t p with
    | none => false
    | some 0 | some 5 => true
    | some k => match hubRel h p (k - 1) with
      | some q => climbs h t n q
      | none => false

/-- R22: the entries of a used barrier form one tree, and CHILD agrees with PARENT. -/
def treeOk (h : Header) (t : List ((Nat × Nat) × List Byte)) : Bool :=
  (t.filter fun q => fld q.2 1 1 == 0 || fld q.2 1 1 == 5).length == 1
    && t.all fun q => climbs h t (t.length + 1) q.1
      && (List.range 4).all fun d =>
        bitOf (fld q.2 0 1) d ==
          (match hubRel h q.1 d with
           | some r => parentOf t r == some (oppositeDir d + 1)
           | none => false)

/-- R22: the tree-node entries of an image. -/
def treesOk (h : Header) (ss : List Sect) : Bool :=
  (List.range 16).all fun b =>
    let t := treeOf h ss b
    if bitOf h.barUsed b then treeOk h t else t.all fun q => allZero q.2

/-- R26 0x07. DESIGN CHOICE (log 76). -/
def badRules (img : List Byte) : Bool :=
  let h := header img
  let ss := sectsOf img
  let cs := coreImages img
  let named := namedStreams ss
  let chunk := chunkStreams ss
  let es := endpointRows ss
  let ok := (cs.all fun q =>
      tensorsOk q.2 && q.2.dataOk && q.2.data.all (recOk q.2) && chansOk h named q.2
        && ((List.range 64).all fun i => q.2.routes.isEmpty || entryOk h chunk q.1 i (q.2.routes.getD i []))
        && creditsOk chunk cs es q.1 q.2
        && ((localStreams q.2).all fun i => chunk.getLsbD i || traceOk h cs q.1 i)
        && trigsOk q.2 && sealsOk q.2)
    && ((ss.filter (·.typ == 10)).all fun s => deckOk s.body)
    && tensorIdsOk ss && es.length == h.endpts && (es.map (·.take 24)).Nodup && es.all (endpointOk h named cs)
    && treesOk h ss
  !ok

/-! ### Code 0x08: the recovery domain (R315) -/

/-- R26 0x08: the image does not agree with the loaded regions of its domain. -/
def badDomain (s : State) (w : Nat) (t : Slot) (img : List Byte) : Bool :=
  let h := header img
  let ms := memberSlots s h.domain
  !ms.isEmpty &&
    ((ms.any fun p => (((s.module p.1).slot p.2).image.map (·.wafers)) != some h.wafers)
      || (ms.any fun p => p.1 == w && ((s.module p.1).slot p.2).owner != t.owner)
      || h.wafers < (insertNat (domainWafers s h.domain) w).length)

/-- R25, R26: the code of the loader's checks, the lowest of those that fail; zero when all pass. `img` is what the
bridge received. -/
def imageCode (s : State) (w : Nat) (t : Slot) (img : List Byte) : Nat :=
  if badMagic img then 0x01
  else if fld img 8 4 ≠ img.length || badCrc img then 0x02
  else if badLayout img then 0x03
  else if badFields img then 0x04
  else if badShape img t then 0x05
  else if badCapacity s w t img then 0x06
  else if badRules img then 0x07
  else if badDomain s w t img then 0x08
  else 0

end Sys2Proof.Machine
end

