-- ==== Sys2Proof/Machine/Command.lean ====
section
/-! DEFINITION. Semaphores, leases and orphaned slots (R61–R65), and how a host command runs (R66–R68, R370). -/

namespace Sys2Proof.Machine

/-! ### Semaphores (R61–R65) -/

/-- A semaphore of a module. -/
def Module.sem (m : Module) (n : Nat) : Hsem := vget m.hsem {} n

/-- Change a semaphore. -/
def modSem (s : State) (w n : Nat) (f : Hsem → Hsem) : State :=
  s.modModule w fun m => { m with hsem := vset m.hsem n (f (m.sem n)) }

/-- R64: the lease of a held semaphore has run out. -/
def leaseOver (s : State) (w n : Nat) : Bool :=
  let h := (s.module w).sem n
  h.owner ≠ 0 && (match h.expires with
    | some t => t ≤ s.now
    | none => false)

/-- R62: a port holds a semaphore. -/
def holdsSem (s : State) (w port n : Nat) : Bool := ((s.module w).sem n).owner == port && !leaseOver s w n

/-- R64: when a lease that starts now expires; a period of 0 never does. -/
def leaseEnd (s : State) (w : Nat) : Option Nat :=
  let p := (s.module w).lease.toNat
  if p = 0 then none else some (s.now + p * 2 ^ 20)

/-- R64: the lease of a semaphore restarts. DEDUCED (log 84). -/
def restartLease (s : State) (w n : Nat) : State := modSem s w n fun h => { h with expires := leaseEnd s w }

/-- R65: the slot that a semaphore guards becomes orphaned when it holds a rectangle. -/
def orphanSlot (s : State) (w n : Nat) : State :=
  if 2 ≤ n ∧ ((s.module w).slot (n - 2)).st ≠ .empty then s.modSlot w (n - 2) fun t => { t with orphaned := true }
  else s

/-- R62, R65: a semaphore becomes free. -/
def freeSem (s : State) (w n : Nat) : State := orphanSlot (modSem s w n fun _ => {}) w n

/-- R65: the former owner has its slot back, and egress resumes; a readout that the bridge held goes to its buffer. -/
def adoptSlot (s : State) (w port n : Nat) : State :=
  let t := (s.module w).slot (n - 2)
  if 2 ≤ n ∧ t.st ≠ .empty ∧ t.orphaned ∧ t.owner = port then
    fillReadout (deliverSlot (s.modSlot w (n - 2) fun t => { t with orphaned := false }) w (n - 2)) w (n - 2)
  else s

/-- R64: LEASE_LEFT reaches zero: the semaphore becomes free, and MSI-X vector 1 goes to both ports. -/
def expireLease (s : State) (w n : Nat) : State := sendMsix (sendMsix (freeSem s w n) w 1 1) w 2 1

/-- R62, R64: an acquiring read. DEDUCED (log 84). -/
def acquireSem (s : State) (w port n : Nat) : State :=
  adoptSlot (modSem s w n fun _ => { owner := port, expires := leaseEnd s w }) w port n

/-- R63: a read of the same semaphore by the other port in the same cycle, unless the two have already settled their tie.
DEDUCED (log 84). -/
def tiedRead (s : State) (w port n : Nat) : Bool :=
  (s.module w).tied != some (n, port) && (match s.agenda with
    | (0, .event (.hsemAcquireRead w' p' n')) :: _ => w'.val == w && p'.val + 1 != port && n'.val == n
    | _ => false)

/-- R62, R63: a read of a semaphore that a port makes. In a tie the read that loses finds it taken by the other, whose
read is the next that the block serves. -/
def readSem (s : State) (w port n : Nat) : State :=
  let s := if leaseOver s w n then expireLease s w n else s
  if ((s.module w).sem n).owner ≠ 0 then s
  else if tiedRead s w port n then
    let winner := (s.module w).tieTo
    let s := s.modModule w fun m => { m with tieTo := 3 - winner }
    if winner = port then acquireSem s w port n else s.modModule w fun m => { m with tied := some (n, winner) }
  else acquireSem (s.modModule w fun m => { m with tied := none }) w port n

/-- R62: an acquiring read of a semaphore. DEDUCED (log 85). -/
def execHsemAcquireRead (w : Fin 16) (port : Fin 2) (n : Fin 32) (s : State) : Out :=
  .next (if (s.module w).present then readSem s w (port + 1) n else s)

/-- R62, R64: a RENEW by the owner. -/
def renewSem (s : State) (w port n : Nat) : State := if holdsSem s w port n then restartLease s w n else s
/-- R62, R65: a RELEASE by the owner. -/
def releaseSem (s : State) (w port n : Nat) : State := if holdsSem s w port n then freeSem s w n else s

/-- R62: RENEW. -/
def execHsemRenew (w : Fin 16) (port : Fin 2) (n : Fin 32) (s : State) : Out := .next (renewSem s w (port + 1) n)
/-- R62: RELEASE. -/
def execHsemRelease (w : Fin 16) (port : Fin 2) (n : Fin 32) (s : State) : Out := .next (releaseSem s w (port + 1) n)

/-- R64: LEASE_EXPIRY. -/
def execLeaseExpiry (w : Fin 16) (n : Fin 32) (s : State) : Out :=
  .next (if leaseOver s w n then expireLease s w n else s)

/-! ### Commands (R66–R68, R370) -/

/-- A command that runs: its module and port, its SLOT and its latched arguments. -/
structure Cmd where
  w : Nat
  port : Nat
  slot : Nat
  args : Vector Word 6
  deriving DecidableEq, Repr

/-- An argument of a command. -/
def Cmd.arg (c : Cmd) (i : Nat) : Nat := (vget c.args 0 i).toNat

/-- A port of a module. -/
def Module.port (m : Module) (p : Nat) : Port := vget m.ports {} (p - 1)

/-- Change a port. -/
def modPort (s : State) (w p : Nat) (f : Port → Port) : State :=
  s.modModule w fun m => { m with ports := vset m.ports (p - 1) (f (m.port p)) }

/-- R66: a command finishes. -/
def Cmd.finish (c : Cmd) (s : State) (code : Nat) : State := finishCommand s c.w c.port (BitVec.ofNat 8 code)

/-- The slot that a command names. -/
def Cmd.theSlot (c : Cmd) (s : State) : Slot := (s.module c.w).slot c.slot

/-- R68: a read of host memory fails. -/
def readFails (s : State) (w port a n : Nat) : Bool :=
  0 < n && (((s.module w).port port).unreadable.any fun u => overlaps a n u.1 u.2)

/-- The first check of a list that fails gives its code (R370). -/
def firstCode : List (Bool × Nat) → Option Nat
  | [] => none
  | (bad, code) :: t => if bad then some code else firstCode t

/-- R370: a command's checks from the third on, in order; an accepted command on a semaphore's slot restarts the
lease (R64). -/
def Cmd.run (c : Cmd) (s : State) (slotCmd : Bool) (checks : List (Bool × Nat)) (effect : State → State) : State :=
  match firstCode checks with
  | some code => c.finish s code
  | none => effect (if slotCmd then restartLease s c.w (c.slot + 2) else s)

/-- R67, R354, R370 check 1: the OPs and the SLOTs that they take. -/
def opOk (op slot : Nat) : Bool :=
  if 1 ≤ op ∧ op ≤ 6 then slot ≤ 29
  else if op = 0x12 ∨ op = 0x17 then slot ≤ 29
  else if op = 0x11 then slot ≤ 29 || slot == 0xFF
  else if 0x10 ≤ op ∧ op ≤ 0x19 then slot == 0
  else false

/-- R61, R67, R354: the semaphore that a command needs. -/
def opSem (op slot : Nat) : Nat :=
  if 1 ≤ op ∧ op ≤ 6 then slot + 2
  else if op = 0x12 ∨ op = 0x17 ∨ (op = 0x11 ∧ slot ≠ 0xFF) then slot + 2
  else if op = 0x19 then 1
  else 0

/-- R65, R370 check 3: what may not run on an orphaned slot. -/
def orphanBars (s : State) (w op slot : Nat) : Bool :=
  ((1 ≤ op && op ≤ 6 && op != 4 && op != 5) || op == 0x12 || op == 0x17 || (op == 0x11 && slot != 0xFF))
    && ((s.module w).slot slot).orphaned

/-- R66: a write of `CMD_OP` with GO = 1: while BUSY is set it is ignored and OVR is set; otherwise the port latches
the arguments, and the command's first three checks run (R370), then the command. DEDUCED (log 84). -/
def submit (s : State) (w port op slot : Nat) (reserved : Bool) (k : Cmd → State → State) : State :=
  if !(s.module w).present then s
  else if ((s.module w).port port).busy then modPort s w port fun p => { p with ovr := true }
  else
    let c : Cmd := { w := w, port := port, slot := slot, args := ((s.module w).port port).args }
    let s := modPort s w port fun p =>
      { p with
        cmdOp := BitVec.ofNat 32 (op + slot * 2 ^ 8 + 2 ^ 31), busy := true
        running := some { op := op, slot := slot, args := c.args, since := s.now } }
    match firstCode [(reserved || !opOk op slot, 0x20), (!holdsSem s w port (opSem op slot), 0x21),
        (orphanBars s w op slot, 0x24)] with
    | some code => c.finish s code
    | none => k c s

/-! ### Region commands without the loader (R67, R74, R75) -/

/-- R67: the rectangle that CLAIM names. -/
def Cmd.rect (c : Cmd) : Nat × Nat × Nat × Nat :=
  (bits (c.arg 0) 0 5, bits (c.arg 0) 8 5, bits (c.arg 0) 16 6, bits (c.arg 0) 24 6)

/-- R67: a cluster of a rectangle that is withdrawn or belongs to a slot. -/
def clusterTaken (m : Module) (cl : Nat) : Bool :=
  !clusterAvailable m cl || (List.range 32).any fun i => (m.slot i).st != .empty && (m.slot i).holds cl

/-- R67: a claimed slot. -/
def Cmd.claimed (c : Cmd) (t : Slot) : Slot :=
  let r := c.rect
  { t with st := .unloaded, x0 := r.1, y0 := r.2.1, w := r.2.2.1, h := r.2.2.2, owner := c.port, orphaned := false }

/-- R67: CLAIM. -/
def runClaim (c : Cmd) (s : State) : State :=
  let r := c.rect
  let t := c.claimed (c.theSlot s)
  c.run s true
    [((c.theSlot s).st != .empty, 0x22),
     (c.arg 0 != r.1 + r.2.1 * 2 ^ 8 + r.2.2.1 * 2 ^ 16 + r.2.2.2 * 2 ^ 24, 0x20),
     (32 < r.1 + r.2.2.1 || 30 < r.2.1 + r.2.2.2 || r.2.2.1 == 0 || r.2.2.2 == 0
       || t.clusters.any (clusterTaken (s.module c.w)), 0x23)]
    fun s => c.finish (s.modSlot c.w c.slot c.claimed) 0x00

/-- R67, R370: CLAIM. -/
def execClaim (w : Fin 16) (port : Fin 2) (slot : BitVec 8) (s : State) : Out :=
  .next (submit s w (port + 1) 0x01 slot.toNat false runClaim)

/-- R67: UNCLAIM of an unloaded slot. -/
def runUnclaim (c : Cmd) (s : State) : State :=
  c.run s true [((c.theSlot s).st != .unloaded, 0x22)] fun s =>
    c.finish (s.modSlot c.w c.slot fun t => { t with st := .empty, orphaned := false, owner := 0 }) 0x00

/-- R67, R370: UNCLAIM. -/
def execUnclaim (w : Fin 16) (port : Fin 2) (slot : BitVec 8) (s : State) : Out :=
  .next (submit s w (port + 1) 0x05 slot.toNat false runUnclaim)

/-- R75: UNLOAD takes effect at once on an unlaunched region and under a debug freeze, otherwise at the next seal. -/
def unload (c : Cmd) (s : State) : State :=
  match slotDomain s c.w c.slot with
  | none => s
  | some d =>
    if (c.theSlot s).st = .loaded ∨ ((s.domain d).frozen ∧ !(s.domain d).rolling) then stopRegion s c.w c.slot
    else requestSeal (s.modSlot c.w c.slot fun t => { t with unloading := true }) d

/-- R75: UNLOAD. -/
def runUnload (c : Cmd) (s : State) : State :=
  c.run s true [((c.theSlot s).st != .loaded && (c.theSlot s).st != .launched, 0x22)] (unload c)

/-- R75, R370: UNLOAD. -/
def execUnload (w : Fin 16) (port : Fin 2) (slot : BitVec 8) (s : State) : Out :=
  .next (submit s w (port + 1) 0x04 slot.toNat false runUnload)

/-- R74: REBIND. -/
def runRebind (c : Cmd) (s : State) : State :=
  c.run s true
    [((c.theSlot s).st != .launched, 0x22), (2 ^ 6 ≤ c.arg 0, 0x20),
     ((c.theSlot s).eps.length ≤ c.arg 0, 0x27), (c.arg 1 % 4096 != 0, 0x25)]
    fun s => c.finish (modEndpoint s c.w c.slot (c.arg 0) fun x => { x with ptr := c.arg 1 }) 0x00

/-- R74, R370: REBIND. -/
def execRebind (w : Fin 16) (port : Fin 2) (slot : BitVec 8) (s : State) : Out :=
  .next (submit s w (port + 1) 0x06 slot.toNat false runRebind)

end Sys2Proof.Machine
end

