-- ==== Sys2Proof/Machine/Service.lean ====
section
/-! DEFINITION. Service bring-up (R83, R206–R211, R358), retirement and thermal commands (R357–R360, R366, R367), power
and inrush (R366), module reset. -/

namespace Sys2Proof.Machine

/-! ### The service program of the manual -/

/-- R206: line 0 of the service program. -/
def svcLine0 : List Instr :=
  [.andi 4 1 511, .andi 5 2 511, .sub 4 4 5, .shri 6 1 16, .andi 6 6 255, .shri 5 2 16, .andi 5 5 255,
   .sub 6 6 5, .nbTst 7 .e, .andi 7 7 4, .bEq 7 0 ⟨1, 3⟩]
/-- R206: line 1 of the service program. -/
def svcLine1 : List Instr :=
  [.addi 8 0 33, .movi 9 0, .br ⟨0, 7⟩, .nbGet 1 .e, .vst 1 0 0 none, .ldN32 8 0 0, .ldS64 9 0 8, .addi 10 0 1,
   .shl 11 10 8, .addi 11 11 (-1)]
/-- R206: line 2 of the service program. -/
def svcLine2 : List Instr :=
  [.addi 12 4 1, .shl 12 10 12, .addi 12 12 (-1), .andn 11 11 12, .or 9 9 11, .bEq 4 0 ⟨0, 11⟩, .stN32 4 0 0,
   .stN64 9 0 8, .vld 1 0 0 none .raw, .nbPut 1 .w, .endHandler, .popc 10 9]
/-- R206: line 3 of the service program. -/
def svcLine3 : List Instr :=
  [.movi 12 63, .movi 13 63, .bEq 10 0 ⟨0, 9⟩, .ctz 12 9, .addi 14 0 2, .bLt 10 14 ⟨0, 9⟩, .clz 13 9,
   .addi 14 0 63, .sub 13 14 13, .shli 13 13 6, .or 12 12 13]
/-- R206: line 4 of the service program. -/
def svcLine4 : List Instr :=
  [.shli 10 10 24, .or 12 12 10, .nbTst 7 .s, .andi 7 7 4, .bNe 7 0 ⟨0, 7⟩, .nbGet 2 .s, .vst 2 0 128 none,
   .shli 14 6 2, .stN32 12 14 128, .bEq 6 0 ⟨1, 5⟩]
/-- R206: line 5 of the service program. -/
def svcLine5 : List Instr :=
  [.vld 2 0 128 none .raw, .nbPut 2 .n, .nbGet 3 .n, .vst 3 0 256 none, .br ⟨6, 2⟩, .addi 5 0 0, .addi 7 0 0,
   .addi 13 0 2, .shli 14 5 2, .ldN32 8 14 128]
/-- R206: line 6 of the service program. -/
def svcLine6 : List Instr :=
  [.shri 9 8 24, .andi 10 8 4095, .movi 11 8388608, .bLt 9 13 ⟨3, 7⟩, .bNe 9 13 ⟨3, 5⟩, .bEq 5 0 ⟨1, 10⟩,
   .ldN32 12 14 124, .shri 12 12 24, .bNe 12 0 ⟨1, 10⟩, .shli 12 5 1]
/-- R206: line 7 of the service program. -/
def svcLine7 : List Instr :=
  [.addi 12 12 (-2), .shr 15 7 12, .andi 15 15 3, .bNe 15 0 ⟨0, 10⟩, .movi 15 262144, .or 11 11 15,
   .addi 15 0 2, .shl 15 15 12, .or 7 7 15, .br ⟨2, 7⟩, .addi 15 0 31]
/-- R206: line 8 of the service program. -/
def svcLine8 : List Instr :=
  [.bGe 5 15 ⟨1, 5⟩, .ldN32 12 14 132, .shri 12 12 24, .bNe 12 0 ⟨1, 5⟩, .shli 12 5 1, .addi 12 12 2,
   .shr 15 7 12, .andi 15 15 3, .bNe 15 0 ⟨1, 5⟩, .movi 15 524288]
/-- R206: line 9 of the service program. -/
def svcLine9 : List Instr :=
  [.or 11 11 15, .addi 15 0 1, .shl 15 15 12, .or 7 7 15, .br ⟨0, 7⟩, .addi 11 0 0, .addi 10 0 4095,
   .or 10 10 11, .stN32 10 14 256, .addi 5 5 1, .addi 15 0 32]
/-- R206: line 10 of the service program. -/
def svcLine10 : List Instr :=
  [.bLt 5 15 ⟨(-5), 8⟩, .addi 5 0 0, .shli 14 5 2, .ldN32 10 14 256, .shli 12 5 1, .shr 15 7 12, .andi 15 15 3,
   .shli 15 15 20, .or 10 10 15, .stN32 10 14 256, .addi 5 5 1]
/-- R206: line 11 of the service program. -/
def svcLine11 : List Instr :=
  [.addi 15 0 32, .bLt 5 15 ⟨(-1), 2⟩, .shli 14 6 2, .ldN32 10 14 256, .csrWr 0 10 0x32, .nbTst 7 .s,
   .andi 7 7 4, .bNe 7 0 ⟨0, 10⟩, .vld 3 0 256 none .raw, .nbPut 3 .s, .endHandler]
/-- R206: line 12 of the service program. -/
def svcLine12 : List Instr :=
  [.movi 5 1073741824, .bNe 2 0 ⟨1, 0⟩, .movi 6 1098973184, .loop 3 ⟨0, 8⟩, .vld 1 6 0 none .raw,
   .chsend 1 0 0, .vst 1 5 0 none, .addi 6 6 128, .addi 5 5 128, .endHandler]
/-- R206: line 13 of the service program. -/
def svcLine13 : List Instr :=
  [.loop 3 ⟨0, 3⟩, .chrecv 1 8 0, .vst 1 5 0 none, .addi 5 5 128, .endHandler]

/-- R99: a code line that holds instructions: header, heads, padding, tails from the far end. -/
def packLine (is : List Instr) : List Byte :=
  let vs := is.map fun i => (encode i).getD 0
  let heads := vs.flatMap fun v => leBytes 2 v
  let tails := (vs.map fun v => leBytes (tailBytes (v % 2 ^ 16)) (v / 2 ^ 16)).reverse.flatten
  leBytes 2 is.length ++ heads ++ leBytes (62 - heads.length - tails.length) 0 ++ tails

/-- R206: the service program's Code body. -/
def svcProgram : List Byte :=
  [svcLine0, svcLine1, svcLine2, svcLine3, svcLine4, svcLine5, svcLine6, svcLine7, svcLine8, svcLine9, svcLine10,
   svcLine11, svcLine12, svcLine13].flatMap packLine

/-- R206: where the service program lies. -/
def svcBase : Nat := 0x41800000
/-- R206: the head at which the mapping phase starts. -/
def svcMap : Nat := 0x41800002
/-- R206: the head at which the code-delivery phase starts. -/
def svcCode : Nat := 0x41800302
/-- R211: where the staged Code body lies. -/
def svcStage : Nat := 0x41810000

/-! ### The repair map of the whole wafer (R83) -/

/-- R83: D(y, s), the dead local columns of a segment, ascending. -/
def deadColumns (m : Module) (y sg : Nat) : List Nat :=
  ((m.fuseDead ++ m.retired).filter fun i => i / 264 == y && i % 264 / 33 == sg).foldl
    (fun l i => insertNat l (i % 33)) []

/-- R83: one step of the algorithm: the entry of a segment without LENT, and the spares lent so far. -/
def rmapStep (m : Module) (lent : AMap Nat) (i : Nat) : BitVec 32 × AMap Nat :=
  let y := i / 8
  let sg := i % 8
  let d := deadColumns m y sg
  let e : Nat := 0x800000 + (match d with
    | [] => 0xFFF
    | [a] => 0xFC0 + a
    | a :: b :: _ => a + b * 64)
  if d.length ≤ 1 then (BitVec.ofNat 32 e, lent)
  else if d.length = 2 then
    if 0 < y ∧ (deadColumns m (y - 1) sg).isEmpty ∧ (AMap.find lent (i - 8)).isNone then
      (BitVec.ofNat 32 (e + 0x40000), AMap.put lent (i - 8) 2)
    else if y < 239 ∧ (deadColumns m (y + 1) sg).isEmpty ∧ (AMap.find lent (i + 8)).isNone then
      (BitVec.ofNat 32 (e + 0x80000), AMap.put lent (i + 8) 1)
    else (rmapReset, lent)
  else (rmapReset, lent)

/-- R83: the entries of the segments, without LENT, and the spares lent. -/
def rmapWalk (m : Module) : List Nat → AMap Nat → List (BitVec 32) × AMap Nat
  | [], lent => ([], lent)
  | i :: t, lent =>
    let r := rmapStep m lent i
    let q := rmapWalk m t r.2
    (r.1 :: q.1, q.2)

/-- R83: the repair map of a module's dead sites, by segment. -/
def rmapOf (m : Module) : List (Nat × BitVec 32) :=
  let q := rmapWalk m (List.range 1920) []
  (List.range 1920).zip q.1 |>.map fun p =>
    (p.1, p.2 + BitVec.ofNat 32 ((AMap.find q.2 p.1).getD 0 * 2 ^ 20))

/-- R83, R358: the segments whose entry a map changes. -/
def changedSegs (m : Module) (new : List (Nat × BitVec 32)) : List Nat :=
  (new.filter fun p => rmapEntry m p.1 != p.2).map (·.1)

/-- R76: the segments of a window of reticle field column `fx`. -/
def windowSegs (fx py0 rows : Nat) : List Nat := (List.range rows).map fun i => (py0 + i) * 8 + fx

/-- R79: the clusters that a segment supplies. -/
def segClusters (i : Nat) : List Nat := (List.range 4).map fun j => i / 8 / 8 * 32 + i % 8 * 4 + j

/-- The logical cores of a segment. -/
def segCores (w i : Nat) : List Node := (List.range 32).map fun j => mkNode w (i / 8 * 256 + i % 8 * 32 + j)

/-- R87: the fuse value of BANKMAP of a site. -/
def fuseMask (m : Module) (p : Nat × Nat) : BitVec 16 := (AMap.find m.fuseBanks (p.2 * 264 + p.1)).getD 0xFFFF

/-- R87: a core takes the bank mask of the site that serves it. -/
def takeMask (s : State) (n : Node) : State :=
  let b := fuseMask (s.module (nodeWafer n)) (siteOf s n)
  if (s.core n).mem.bankLive = b ∧ (s.core n).mem.bankNext = b then s
  else s.modCore n fun c => { c with mem := { c.mem with bankLive := b, bankNext := b } }

/-- R87: the cores of some segments take the bank masks of their sites, where a fuse or an earlier mask differs from
the full mask. -/
def takeMasks (s : State) (w : Nat) (segs : List Nat) : State :=
  if (s.module w).fuseBanks.isEmpty ∧ (s.cores.all fun p => p.2.mem.bankLive == 0xFFFF && p.2.mem.bankNext == 0xFFFF)
  then s
  else (segs.flatMap (segCores w)).foldl takeMask s

/-- R82, R357: a map takes effect: the routers use it, and no core of the segments that it writes stays retired. -/
def applyMap (s : State) (w : Nat) (new : AMap (BitVec 32)) (segs : List Nat) : State :=
  let s := s.modModule w fun m =>
    { m with
      rmap := new.filter fun p => p.2 != rmapReset
      rmapWritten := m.rmapWritten.filter fun p => !segs.contains p.1
      retiredCores := m.retiredCores.filter fun n => !segs.contains (n / 256 * 8 + n % 256 / 32) }
  takeMasks s w segs

/-! ### The mapping phase (R206–R210) -/

/-- R210: the conditions under which the mapping program runs. DEDUCED (log 82). -/
def mappable (m : Module) (fx py0 rows : Nat) : Bool :=
  let d (y : Nat) : Nat := (deadColumns m y fx).length
  rows == 32 && ((List.range rows).all fun i => !(deadColumns m (py0 + i) fx).contains 0)
    && d py0 ≤ 1 && d (py0 + 31) ≤ 1 && (py0 == 0 || d (py0 - 1) != 2) && (py0 + 32 == 240 || d (py0 + 32) != 2)

/-- R206: the context that a phase starts. -/
def svcCtx (pc : Nat) (s1 s2 s3 now : Nat) : Ctx :=
  { st := .ready, pc := BitVec.ofNat 32 pc, sts := 0x10, fires := 1, notBefore := now + 2
    s := (((Vector.replicate 16 (0 : Word)).set 1 (BitVec.ofNat 64 s1)).set 2 (BitVec.ofNat 64 s2)).set 3
      (BitVec.ofNat 64 s3) }

/-- R206: a live site as the bridge controller prepares it for the mapping phase. DEDUCED (log 82). -/
def siteCore (s : State) (w fx py0 : Nat) (p : Nat × Nat) : Core :=
  let b := fuseMask (s.module w) p
  let c : Core := { mem := { bankLive := b, bankNext := b } }
  (c.pokeRaw svcBase svcProgram).setCtx 0
    (svcCtx svcMap (p.1 + p.2 * 2 ^ 16) (33 * fx + py0 * 2 ^ 16) 0 (cycleOf s (siteNode w p.1 p.2)))

/-- R206: the live sites of a window. -/
def liveSites (m : Module) (fx py0 rows : Nat) : List (Nat × Nat) :=
  ((List.range rows).flatMap fun i => (List.range 33).map fun c => (33 * fx + c, py0 + i)).filter fun p =>
    !siteDead m p.1 p.2

/-- R206: the mapping phase of a window begins. -/
def startMapping (s : State) (w port fx py0 rows : Nat) : State :=
  let live := liveSites (s.module w) fx py0 rows
  let s := live.foldl (fun s p => s.setCore (siteNode w p.1 p.2) (siteCore s w fx py0 p)) s
  s.modModule w fun m => { m with
    phase := some { delivery := false, slot := 0, port := port, px0 := 33 * fx, py0 := py0, width := 33, height := rows
                    sites := live.map fun p => siteNode w p.1 p.2, started := s.now, image := [] } }

/-- R209, R210: a window without the mapping phase: the entries of R83 that change are written over the whole
wafer. DEDUCED (log 82). -/
def mapDirectly (s : State) (w : Nat) (segs : List Nat) : State :=
  let new := rmapOf (s.module w)
  applyMap s w new (segs ++ changedSegs (s.module w) new)

/-- R197, R209: the phase has ended: every context 0 that it started is FREE, no neighbour word is left, and every access
that issued has performed. DEDUCED (log 81). -/
def phaseDone (s : State) (p : Phase) : Bool :=
  (p.sites.all fun n =>
    (s.ctx n 0).st == .free && (s.core n).comm.nb.toList.all (fun v => v.isNone) && (s.core n).later.isEmpty)
    && !s.net.any fun m => match m.kind with
      | .nbWord n _ _ => p.sites.contains n
      | _ => false

/-- R209: a phase has not ended within 2^26 cycles. -/
def Phase.late (p : Phase) (s : State) : Bool := p.started + 2 ^ 26 ≤ s.now

/-- R82: an entry that the conditions on a single entry allow. -/
def entryAlone (e : BitVec 32) : Bool :=
  let a := rmapSkip0 e
  let b := rmapSkip1 e
  let named (k : Nat) : Bool := k != 0x3F
  (a ≤ 32 || a == 0x3F) && (b ≤ 32 || b == 0x3F) && (!(named a && named b) || a < b) && (named a || !named b)
    && (rmapAvail e || (!named a && !named b && rmapLent e == 0 && rmapBorrow e == 0))
    && ((rmapBorrow e != 0) == (rmapAvail e && named a && named b)) && rmapBorrow e != 3
    && (rmapLent e == 0 || (!named a && !named b)) && rmapLent e != 3

/-- R82: the entries of a window are valid; `ent` gives the entry of any segment. -/
def mapValid (ent : Nat → BitVec 32) (segs : List Nat) : Bool :=
  segs.all fun i =>
    entryAlone (ent i)
      && (rmapBorrow (ent i) != 1 || (8 ≤ i && rmapLent (ent (i - 8)) == 2))
      && (rmapBorrow (ent i) != 2 || (i + 8 < 1920 && rmapLent (ent (i + 8)) == 1))

/-- The segments of a phase's window. -/
def Phase.segs (p : Phase) : List Nat := windowSegs (p.px0 / 33) p.py0 p.height

/-- A site's core as it becomes a logical core: its contexts leave service mode. -/
def Core.leaveService (c : Core) : Core :=
  { c with ctxs := c.ctxs.map fun k => { k with sts := k.sts &&& ~~~0x10#64 } }

/-- R209: the cores of the window take over from the sites that serve them. The configuration-phase boundary over the
window empties their caches (R197). -/
def settleSites (s : State) (w : Nat) (p : Phase) : State :=
  let s' := (p.segs.flatMap (segCores w)).foldl (fun t n =>
    if !coreAvailable (s.module w) (nodeNum n) then t
    else
      let q := siteOf s n
      t.setCore n (s.core (siteNode w q.1 q.2)).leaveService.emptied) s
  { s' with cores := s'.cores.filter fun q => !p.sites.contains q.1 }

/-- R66, R209: the command that a phase was part of finishes. -/
def Phase.finish (p : Phase) (s : State) (w code : Nat) : State :=
  if p.port = 0 then s else finishCommand s w p.port (BitVec.ofNat 8 code)

/-- R209: the mapping phase failed: every segment of the window is withdrawn. DEDUCED (log 82). -/
def withdrawWindow (s : State) (w : Nat) (p : Phase) : State :=
  let s := applyMap s w ((s.module w).rmap.filter fun e => !p.segs.contains e.1) p.segs
  let s := s.modModule w fun m => { m with phase := none }
  p.finish { s with cores := s.cores.filter fun q => !p.sites.contains q.1 } w 0x00

/-- R209, R358: the mapping phase ends: the entries that it wrote are checked under R82 and applied, with those outside
the window that R83 changes. -/
def endMapping (s : State) (w : Nat) (p : Phase) : State :=
  let m := s.module w
  let ent (i : Nat) : BitVec 32 := (AMap.find m.rmapWritten i).getD (rmapEntry m i)
  if mapValid ent p.segs then
    let new := rmapOf m
    let more := (changedSegs m new).filter fun i => !p.segs.contains i
    let put (f : Nat → BitVec 32) (t : AMap (BitVec 32)) (i : Nat) : AMap (BitVec 32) := AMap.put t i (f i)
    let map := more.foldl (put fun i => (AMap.find new i).getD (rmapEntry m i)) (p.segs.foldl (put ent) m.rmap)
    let s := applyMap s w map (p.segs ++ more)
    let s := settleSites s w p
    p.finish (s.modModule w fun m => { m with phase := none }) w 0x00
  else withdrawWindow s w p

/-- R209: a mapping phase that has not ended within 2^26 cycles. -/
def execMappingTimeout (w : Fin 16) (s : State) : Out :=
  match (s.module w).phase with
  | some p => .next (if !p.delivery ∧ p.late s then withdrawWindow s w p else s)
  | none => .next s

/-- R206: a window as R206 to R210 bring it up: by the mapping phase, or directly. DEDUCED (log 82). -/
def bringUp (s : State) (w port fx py0 rows : Nat) : State :=
  if mappable (s.module w) fx py0 rows then startMapping s w port fx py0 rows
  else
    let s := mapDirectly s w (windowSegs fx py0 rows)
    if port = 0 then s else finishCommand s w port 0x00

/-- R206: a window is a rectangle of sites as wide as a reticle field and a multiple of 8 rows high. -/
def windowOk (px py width height : Nat) : Bool :=
  px % 33 == 0 && px < 264 && width == 33 && py % 8 == 0 && height % 8 == 0 && 0 < height && py + height ≤ 240

/-- R206: a loaded region holds a cluster of the window. DEDUCED (log 82). -/
def windowLoaded (s : State) (w fx py rows : Nat) : Bool :=
  (windowSegs fx py rows).any fun i => (segClusters i).any fun cl => (slotOf s (mkNode w (0xF000 + cl))).isSome

/-- R206: the bridge controller prepares a window. -/
def execWindowBringUp (w : Fin 16) (px py width height : Nat) (s : State) : Out :=
  .next (if (s.module w).present && windowOk px py width height && (s.module w).phase.isNone
      && !windowLoaded s w (px / 33) py height
      && !((changedSegs (s.module w) (rmapOf (s.module w))).any fun i => (segClusters i).any fun cl =>
        (slotOf s (mkNode w (0xF000 + cl))).isSome) then bringUp s w 0 (px / 33) py height
    else s)

/-! ### REMAP (R358) -/

/-- R358: fx, py0 and rows of a REMAP. -/
def Cmd.window (c : Cmd) : Nat × Nat × Nat := (bits (c.arg 0) 0 3, bits (c.arg 0) 8 8, bits (c.arg 0) 16 8)

/-- R358: a claimed slot holds a cluster of a segment. -/
def segClaimed (m : Module) (i : Nat) : Bool :=
  (segClusters i).any fun cl => (List.range 32).any fun k => (m.slot k).st != .empty && (m.slot k).holds cl

/-- R358: the window, or a segment outside it whose entry would change, belongs to a claimed slot. -/
def remapClaimed (m : Module) (segs : List Nat) : Bool :=
  segs.any (segClaimed m) ||
    ((m.slots.toList.any fun t => t.st != .empty) && (changedSegs m (rmapOf m)).any (segClaimed m))

/-- R358: REMAP. It waits while another phase of the module runs. DEDUCED (log 74). -/
def runRemap (c : Cmd) (s : State) : State :=
  let v := c.window
  c.run s false
      [(remapClaimed (s.module c.w) (windowSegs v.1 v.2.1 v.2.2), 0x22),
       (c.arg 0 != v.1 + v.2.1 * 2 ^ 8 + v.2.2 * 2 ^ 16, 0x20),
       (v.2.1 % 8 != 0 || v.2.2 % 8 != 0 || v.2.2 < 8 || 40 < v.2.2 || 240 < v.2.1 + v.2.2, 0x27)]
      fun s => if (s.module c.w).phase.isSome then s else bringUp s c.w c.port v.1 v.2.1 v.2.2

/-- R358, R370: REMAP. -/
def execRemap (w : Fin 16) (port : Fin 2) (slot : BitVec 8) (s : State) : Out :=
  .next (submit s w (port + 1) 0x18 slot.toNat false runRemap)

/-! ### RETIRE, COLMOVE (R357, R360) -/

/-- R357: RETIRE: at once where no loaded region holds the core, otherwise at the next seal of its domain that has not
yet reached CHANGE. DEDUCED (log 68). -/
def runRetire (c : Cmd) (s : State) : State :=
  let n := mkNode c.w (bits (c.arg 0) 0 16)
  c.run s false
    [(2 ^ 20 ≤ c.arg 0, 0x20), (!isCore n || bits (c.arg 0) 16 4 != (s.module c.w).wafer
      || !rmapAvail (rmapEntry (s.module c.w) (coreY n * 8 + coreX n / 32)), 0x27)]
    fun s =>
      match domainOf s n with
      | none => retireCore s c.w (nodeNum n)
      | some d =>
        requestSeal (s.modModule c.w fun m =>
          if (s.domain d).phase = .change then { m with retireNext := insertNat m.retireNext (nodeNum n) }
          else { m with retireReqs := insertNat m.retireReqs (nodeNum n) }) d

/-- R357, R370: RETIRE. -/
def execRetire (w : Fin 16) (port : Fin 2) (slot : BitVec 8) (s : State) : Out :=
  .next (submit s w (port + 1) 0x14 slot.toNat false runRetire)

/-- R360: COLMOVE: at once where no domain holds a cluster of the field, otherwise at their next seals.
DEDUCED (log 67). -/
def runColmove (c : Cmd) (s : State) : State :=
  let fx := bits (c.arg 0) 0 3
  let fy := bits (c.arg 0) 8 3
  let col := bits (c.arg 0) 16 6
  c.run s false
    [(c.arg 0 != fx + fy * 2 ^ 8 + col * 2 ^ 16, 0x20), (5 < fy || 32 < col, 0x27)]
    fun s =>
      let ds := fieldDomains s c.w fx fy
      if ds.isEmpty then c.finish (moveColumn s c.w fx fy col []) 0x00
      else
        ds.foldl requestSeal (s.modModule c.w fun m => { m with colmoves := m.colmoves ++ [(fx, fy, col, [])] })

/-- R360, R370: COLMOVE. -/
def execColmove (w : Fin 16) (port : Fin 2) (slot : BitVec 8) (s : State) : Out :=
  .next (submit s w (port + 1) 0x15 slot.toNat false runColmove)

/-! ### Inrush tokens and power (R366, R367) -/

/-- R366: a cluster is in its power ramp. -/
def Power.ramping? : Power → Bool
  | .ramping _ => true
  | .off | .good | .shut => false

/-- R366: the clusters of a module that hold a token. -/
def tokensHeld (s : State) (w : Nat) : Nat :=
  (s.hubs.filter fun p => nodeWafer p.1 == w && p.2.power.ramping?).length

/-- R366: a freed token goes to the oldest request. DEDUCED (log 18). -/
def execInrushTokenGrant (w : Fin 16) (s : State) : Out :=
  match (s.module w).inrush with
  | [] => .next s
  | cl :: rest =>
    .next (if tokensHeld s w < 16 then
      (s.modModule w fun m => { m with inrush := rest }).modHub (mkNode w (0xF000 + cl)) fun h =>
        { h with power := .ramping s.now }
    else s)

/-- R366, R367: a ramping cluster reports power good; a THROTTLE that tripped in the ramp takes effect from here. -/
def execPowerGood (w : Fin 16) (cluster : Nat) (s : State) : Out :=
  let h := mkNode w (0xF000 + cluster)
  .next (if cluster < Config.clusters ∧ (s.hub h).power.ramping? then
      (if (s.hub h).thermSts.getLsbD 9 then settleClocks s w cluster else s).modHub h fun x => { x with power := .good }
    else s)

/-- R366: 2^20 reference cycles have passed since the ramp began. -/
def rampOver (s : State) (h : Node) : Bool :=
  match (s.hub h).power with
  | .ramping t => t + 2 ^ 20 ≤ s.now
  | .off | .good | .shut => false

/-- R366: a cluster that has not reported in time is withdrawn, and its token returns. -/
def execInrushTimeout (w : Fin 16) (cluster : Nat) (s : State) : Out :=
  let h := mkNode w (0xF000 + cluster)
  .next (if cluster < Config.clusters ∧ rampOver s h then
    (s.modHub h fun x => { x with power := .off }).modModule w fun m =>
      { m with withdrawn := insertNat m.withdrawn cluster }
  else s)

/-- R366: a request for a cluster that is queued or powered is ignored. -/
def queueWake (s : State) (w cl : Nat) : State :=
  let p := (s.hub (mkNode w (0xF000 + cl))).power
  if (s.module w).inrush.contains cl || p.ramping? || p == .good then s
  else s.modModule w fun m => { m with inrush := m.inrush ++ [cl] }

/-- R367: the cluster is too hot to wake. -/
def stillHot (h : Hub) : Bool := h.thermSts.getLsbD 10 && thermShut h ≤ bits h.thermSts.toNat 0 8 + thermHyst h

/-- R367: WAKE. DEDUCED (log 87). -/
def runWake (c : Cmd) (s : State) : State :=
  let cl := bits (c.arg 0) 0 10
  c.run s false
    [(2 ^ 10 ≤ c.arg 0, 0x20),
     (Config.clusters ≤ cl || !clusterAvailable (s.module c.w) cl || stillHot (s.hub (mkNode c.w (0xF000 + cl))), 0x27)]
    fun s => c.finish (queueWake s c.w cl) 0x00

/-- R367, R370: WAKE. -/
def execWake (w : Fin 16) (port : Fin 2) (slot : BitVec 8) (s : State) : Out :=
  .next (submit s w (port + 1) 0x16 slot.toNat false runWake)

/-! ### THERM (R348, R354) -/

/-- R348: a value that THERM_CFG takes. -/
def thermCfgOk (v : Nat) : Bool :=
  bits v 8 8 ≤ bits v 16 8 && bits v 16 8 ≤ bits v 24 8 && 1 ≤ bits v 32 8

/-- R348: the writes of THERM: a new THERM_CFG unless it is 0, and the bits of THERM_STS that ARG2 clears.
DESIGN CHOICE (log 93). -/
def thermWrite (h : Hub) (cfg clr now : Nat) : Hub :=
  let h := if cfg ≠ 0 ∧ thermCfgOk cfg then { h with thermCfg := BitVec.ofNat 64 (cfg % 2 ^ 40 / 2 ^ 8 * 2 ^ 8) } else h
  { h.stretched now with thermSts := (h.stretched now).thermSts &&& ~~~(BitVec.ofNat 64 (clr % 2 ^ 11 / 2 ^ 10 * 2 ^ 10)) }

/-- R348, R370: a reserved bit of THERM_CFG, or of THERM_STS, is set in an argument of THERM. -/
def thermReserved (cfg clr : Nat) : Bool := bits cfg 40 24 != 0 || bits cfg 0 8 != 0 || bits clr 11 21 != 0

/-- R348, R354: THERM. -/
def runTherm (c : Cmd) (s : State) : State :=
  let h := mkNode c.w (0xF000 + bits (c.arg 0) 0 10)
  c.run s false
    [(2 ^ 10 ≤ c.arg 0 || thermReserved (c.arg 1) (c.arg 2), 0x20), (Config.clusters ≤ c.arg 0 || c.arg 3 % 8 != 0, 0x27)]
    fun s =>
      let s := s.modHub h fun x => thermWrite x (c.arg 1) (c.arg 2) s.now
      c.finish (hostPoke s c.w c.port (c.arg 3)
        (leBytes 8 (s.hub h).thermCfg.toNat ++ leBytes 8 (s.hub h).thermSts.toNat)) 0x00

/-- R354, R370: THERM. -/
def execTherm (w : Fin 16) (port : Fin 2) (slot : BitVec 8) (s : State) : Out :=
  .next (submit s w (port + 1) 0x13 slot.toNat false runTherm)

/-! ### Power-on and power loss (R7, R362, R366) -/

/-- A module as power-off leaves it: fuses, the retirement record and counter, the attestation keys' indices, and
what lies outside the module. -/
def Module.unpowered (m : Module) : Module :=
  let host (p : Port) : Port := { hostMem := p.hostMem, unreadable := p.unreadable }
  { fuseDead := m.fuseDead, retired := m.retired, fuseBanks := m.fuseBanks, fieldRet := m.fieldRet, serial := m.serial
    fwDigest := m.fwDigest, keyIndex := m.keyIndex, ports := m.ports.map host, msix := m.msix }

/-- R364: the optical ports of other modules that are up and name a module's wafer. -/
def linksTo (s : State) (w : Nat) : List (Node × Nat) :=
  s.bridges.flatMap fun b =>
    ((List.range 4).filter fun q =>
      let o := vget b.2.ports {} q
      nodeWafer b.1 ≠ w && o.up && bits o.entry.toNat 16 4 == (s.module w).wafer).map fun q => (b.1, q)

/-- R364, R365, R372: they go down, which is a failure of each link for every region whose traffic uses it.
DEDUCED (log 88). -/
def dropLinksTo (s : State) (w : Nat) : State :=
  if (s.module w).present then
    (linksTo s w).foldl (fun t l =>
      machineCheckOf (t.modBridge l.1 fun b => { b with ports := vset b.ports l.2 { (vget b.ports {} l.2) with up := false } })
        ((opticalDomains s l.1 l.2).filter fun d => (t.domain d).rolling == (s.domain d).rolling) l.1 3 l.2) s
  else s

/-- Every volatile part of a module is lost: its cores, hubs and bridges, and what travels to or from them.
DEDUCED (log 88). -/
def clearModule (s : State) (w : Nat) : State :=
  let here (n : Node) : Bool := nodeWafer n == w
  let s := dropTraffic (dropLinksTo s w) here
  { s with
    cores := s.cores.filter fun p => !here p.1
    hubs := s.hubs.filter fun p => !here p.1
    bridges := s.bridges.filter fun p => !here p.1
    lots := s.lots.filter fun l => !here l.2.1
    modules := AMap.put s.modules w (s.module w).unpowered }

/-- R362: the module loses power. DEDUCED (log 88). -/
def execPowerLoss (w : Fin 16) (s : State) : Out := .next (if (s.module w).present then clearModule s w else s)

/-- R7, R366: module power-on reset: every field takes its reset value, and every cluster queues for wake.
DESIGN CHOICE (log 4). -/
def execPowerOnReset (w : Fin 16) (s : State) : Out :=
  .next ((clearModule s w).modModule w fun m =>
    { m with present := true, since := s.now, inrush := powerOnQueue Config.clusters })

end Sys2Proof.Machine
end

