-- ==== Sys2Proof/Machine/Loader.lean ====
section
/-! DEFINITION. LOAD: installing an image and the code-delivery phase (R25, R26, R206–R211, R243, R266, R270, R315);
LAUNCH (R69–R71); the end of a service phase (R209). -/

namespace Sys2Proof.Machine

/-! ### Installing one core (R25) -/

/-- R93, R95: a loaded window counts as written by context 7. -/
def loadedWin (p : Word × Word) : Window := { w0 := p.1, param := p.2, staged := p.2, writer := 7 }

/-- R21: a trigger entry from its 16 bytes. -/
def trigEntryOf (e : List Byte) : TrigEntry :=
  { fmask := BitVec.ofNat 16 (fld e 0 2), fval := BitVec.ofNat 16 (fld e 2 2), conda := BitVec.ofNat 16 (fld e 4 2)
    condb := BitVec.ofNat 16 (fld e 6 2), hpc := BitVec.ofNat 32 (fld e 8 4), binda := BitVec.ofNat 8 (fld e 12 1)
    bindb := BitVec.ofNat 8 (fld e 13 1), tctl := BitVec.ofNat 8 (fld e 14 1) }

/-- R20: a route entry at set 0. -/
def routeOf (sets : List Nat) : Route := { sets := Vector.ofFn fun i => BitVec.ofNat 16 (sets.getD i.val 0) }

/-- R19, R69: a declared channel; the source of a HOST channel is the owning bridge. -/
def chanRecord (w : Nat) (t : Slot) (bridge : Node) (c : ChanDecl) : Chan :=
  { stream := c.stream, src := if c.host then bridge else relCore w t (c.x, c.y), host := c.host, cyclic := c.cyclic
    tokens := c.tokens, spillLa := c.spill }

/-- R185: the credits that a core holds at load: the smallest TOKENS of the stream's receivers, and 16 for the core of
an egress endpoint, whose words none of them takes (R69). -/
def loadedCredits (chunk : BitVec 64) (cs : List ((Nat × Nat) × CoreImage)) (es : List (List Byte)) (p : Nat × Nat)
    (k : CoreImage) : AMap Nat :=
  ((localStreams k).filter fun i => !chunk.getLsbD i).map fun i =>
    (i, if egressAt es p i then 16 else (tokensFor cs p i).foldl min 65535)

/-- A range of a core's memory holds zero bytes. -/
def Core.zeroRange (c : Core) (a n : Nat) : Core :=
  { c with mem := { c.mem with
      mem := c.mem.mem.filter fun x => !inRange x.1 a n, undef := cutSpans a n c.mem.undef } }

/-- R266, R270: the Tensors section: zero bytes in each resident or volatile tensor, every full/empty bit empty. -/
def Core.loadTensors (c : Core) (k : CoreImage) : Core :=
  let c := k.tensors.foldl (fun c t => if t.cls = 2 then c else c.zeroRange t.base t.bytes) c
  { c with mem := { c.mem with
      full := [], classes := k.tensors.map fun t => { id := t.id, base := t.base, bytes := t.bytes, cls := t.cls } } }

/-- R17, R18: one data record is written; it starts the deadlines of a transient tensor. -/
def Core.loadRecord (k : CoreImage) (now : Nat) (c : Core) (r : DataRec) : Core :=
  match k.tensors.find? (·.id == r.id) with
  | none => c
  | some t =>
    let a := t.base + r.off
    let c := (c.pokeRaw a r.data).stamp now now a r.count
    if r.dflags = 1 then c.setFull (feWords a r.count) true else c

/-- R243, R305, R335: what LOAD resets in a core whatever the image holds. DEDUCED (log 79). -/
def Core.loadReset (c : Core) (h : Header) (rin sealed rb : BitVec 32) : Core :=
  let c := c.zeroRange 0x100000 0x10000
  { c with
    mem := { c.mem with
      full := [], logged := [], l1 := [], shr := [], written := [], classes := [], fills := [] }
    trg := { entries := Vector.replicate 32 {}, pseudo := []
             ctl := (c.trg.ctl &&& ~~~1#64) ||| BitVec.ofNat 64 (h.trgFlags % 2)
             lastPseudo := c.trg.lastPseudo, lastEntry := c.trg.lastEntry }
    comm := {}
    sync := {}
    mx := { ctab := c.mx.ctab }
    rcv := { trapVec := c.rcv.trapVec
             rin := rin, rinSealed := sealed, rbCount := rb
             logSize := BitVec.ofNat 32 h.logSize, logBase := BitVec.ofNat 32 (shelfTop c - h.logSize)
             logCtl := (c.rcv.logCtl &&& 0xF80#64) ||| BitVec.ofNat 64 h.policy } }

/-- R25: the sections of an image in ascending TYPE order, in one core. DEDUCED (log 77). -/
def Core.install (c : Core) (h : Header) (w : Nat) (t : Slot) (bridge : Node) (chunk : BitVec 64)
    (cs : List ((Nat × Nat) × CoreImage)) (es : List (List Byte)) (p : Nat × Nat) (k : CoreImage) (code : Bool)
    (now : Nat) (rin sealed rb : BitVec 32) : Core :=
  let c := c.loadReset h rin sealed rb
  let c := if code then c.pokeRaw 0x40000000 k.code else c
  let c := k.data.foldl (Core.loadRecord k now) (c.loadTensors k)
  let credits := loadedCredits chunk cs es p k
  { c with
    trg := { c.trg with entries := Vector.ofFn fun i => trigEntryOf (k.trigs.getD i.val (List.replicate 16 0)) }
    comm := { c.comm with
      win := Vector.ofFn fun i => loadedWin (k.wins.getD i.val (0, 0))
      prot := BitVec.ofNat 64 ((k.code.length + 0xFFFF) / 0x10000 * 2 ^ 32)
      chans := k.chans.foldl (fun m d => AMap.put m d.ch (chanRecord w t bridge d)) []
      routes := ((List.range 64).filter fun i => bitOf ((k.routes.getD i []).headD 0) 15).map fun i =>
        (i, routeOf (k.routes.getD i []))
      credits := credits, creditInit := credits }
    rcv := { c.rcv with codeLen := k.code.length, sealPoints := k.seals.foldl (fun m e => AMap.put m e.1 e.2) [] } }

/-- R71, R324, R325: the state of a core becomes a sealed state: its log is empty, and both slots hold it.
DEDUCED (log 80). -/
def Core.sealNow (c : Core) : Core :=
  let c := { c with mem := { c.mem with logged := [] }, rcv := { c.rcv with logFill := 0 } }
  let k := c.snapshot
  { c.clean with rcv := { c.rcv with slot0 := some k, slot1 := some k } }

/-! ### Installing a region (R22, R24, R25, R315) -/

/-- R22: a tree node from its 8 bytes. -/
def nodeOf (e : List Byte) : BarNode :=
  { child := BitVec.ofNat 8 (fld e 0 1), parent := BitVec.ofNat 8 (fld e 1 1), localCount := BitVec.ofNat 8 (fld e 2 1) }

/-- R24: a Deck image in a Dealer, every register zero. -/
def loadedDealer (slot : Nat) (b : List Byte) : Dealer :=
  if b.isEmpty then {}
  else
    let d := deckOf b
    { deck := some { vectors := Vector.ofFn fun i => BitVec.ofNat 16 (d.1.getD i.val 0xFFFF), words := d.2 }
      slot := slot }

/-- R13, R22, R24: one hub. -/
def Hub.install (x : Hub) (h : Header) (ss : List Sect) (slot : Nat) (p : Nat × Nat) : Hub :=
  let ns := hubNodes ss p.1 p.2
  let bar : Vector BarNode 15 := Vector.ofFn fun i => nodeOf (ns.getD i.val [])
  { x with
    l2 := [], dealer := (loadedDealer slot (lastBody ss 10 p.1 p.2)).save, bar := bar, barCkpt := bar
    barUsed := BitVec.ofNat 16 h.barUsed, mask := BitVec.ofNat 64 h.mask }

/-- R24: the Deck sections of edge bridges. DEDUCED (log 58). -/
def installBridgeDecks (s : State) (w slot : Nat) (ss : List Sect) : State :=
  (ss.filter fun e => e.typ == 10 && e.sflags == 1).foldl (fun s e =>
    s.modBridge (mkNode w (0xFF00 + e.x)) fun b => { b with dealer := (loadedDealer slot e.body).save }) s

/-- R69: an endpoint as LOAD installs it, unbound; TOKENS is that of its channel. DEDUCED (log 83). -/
def endpointOf (w : Nat) (t : Slot) (cs : List ((Nat × Nat) × CoreImage)) (e : List Byte) : Endpoint :=
  let p := (fld e 26 1, fld e 27 1)
  let ch := fld e 28 1
  let tokens := match cs.find? (·.1 == p) with
    | some k => ((k.2.chans.find? (·.ch == ch)).map (·.tokens)).getD 0
    | none => 0
  { name := (e.take 24).takeWhile (· != 0), egress := fld e 24 1 == 1, stream := fld e 25 1, core := relCore w t p
    chan := ch, tokens := tokens }

/-- R70, R71: the argument block's range holds a byte of a scratchpad tensor of some core. -/
def argOverlap (h : Header) (cs : List ((Nat × Nat) × CoreImage)) : Bool :=
  cs.any fun q => q.2.tensors.any fun t => overlaps t.base t.bytes (0x40000 - h.argSize) h.argSize

/-- R12: what a slot keeps of its image. -/
def imageInfo (h : Header) (ss : List Sect) (cs : List ((Nat × Nat) × CoreImage)) : ImageInfo :=
  { regW := h.regW, regH := h.regH, domain := h.domain, wafers := h.wafers, barUsed := BitVec.ofNat 16 h.barUsed
    logSize := h.logSize, argSize := h.argSize, minBanks := h.minBanks, readoutMask := BitVec.ofNat 64 h.mask
    trgRot := h.trgFlags % 2 == 1, logFull := h.policy == 1, chunk := chunkStreams ss, argClash := argOverlap h cs }

/-- R315, R316: the interval numbers of a new region: those of the running regions of its domain, or 1 and 0.
DEDUCED (log 79). -/
def newInterval (s : State) (d : Nat) : BitVec 32 × BitVec 32 × BitVec 32 :=
  match launchedSlots s d with
  | [] => (1, 0, 0)
  | p :: _ =>
    let r := (s.core ((slotCores s p.1 p.2).headD 0)).rcv
    (r.rin, r.rinSealed, r.rbCount)

/-- R315: the regions that were loaded before a domain had a running region take its first interval numbers.
DEDUCED (log 79). -/
def freshInterval (s : State) (d : Nat) : State :=
  if (launchedSlots s d).isEmpty then
    (domCores s d).foldl (fun s n => s.modCore n fun c =>
      { c with rcv := { c.rcv with rin := 1, rinSealed := 0, rbCount := 0 } }) s
  else s

/-- R25: the Install pass. `code` is false when the code-delivery phase has delivered the Code section. -/
def installImage (s : State) (w slot : Nat) (img : List Byte) (code : Bool) : State :=
  let h := header img
  let ss := sectsOf img
  let cs := coreImages img
  let es := endpointRows ss
  let chunk := chunkStreams ss
  let t := (s.module w).slot slot
  let bridge := portBridge w t.owner
  let n := newInterval s h.domain
  let s := cs.foldl (fun s q =>
    s.modCore (relCore w t q.1) fun c =>
      (c.install h w t bridge chunk cs es q.1 q.2 code s.now n.1 n.2.1 n.2.2).sealNow) s
  let s := ((List.range h.regH).flatMap fun y => (List.range h.regW).map fun x => (x, y)).foldl (fun s p =>
    s.modHub (mkNode w (0xF000 + (t.y0 + p.2) * 32 + t.x0 + p.1)) fun x => x.install h ss slot p) s
  let s := installBridgeDecks s w slot ss
  let eps := es.map (endpointOf w t cs)
  let s := s.modSlot w slot fun t =>
    { t with st := .loaded, image := some (imageInfo h ss cs), eps := eps, epsCkpt := eps, joined := 0, joinedCkpt := 0
             wakes := false, unloading := false }
  let s := freshInterval (s.modDomain h.domain id) h.domain
  emptyCaches s [(w, slot)]

/-! ### The code-delivery phase (R206, R211) -/

/-- R211: the one Code body that covers the whole region, where its staged copy fits below the phase's spill area.
DEDUCED (log 81). -/
def wholeCode (img : List Byte) : Option (List Byte) :=
  let h := header img
  match (sectsOf img).filter (·.typ == 1) with
  | [e] =>
    if e.x = 0 ∧ e.y = 0 ∧ e.w = 8 * h.regW ∧ e.h = 8 * h.regH ∧ svcStage + e.len ≤ 0x41B00000 then some e.body
    else none
  | _ => none

/-- R211: route entry 0 of the core at (x, y) of a region of `cw` by `ch` cores. DEDUCED (log 81). -/
def deliverySet (cw ch x y : Nat) : BitVec 16 :=
  if y = 0 then (if x = 0 then 0xA0D0 else if x + 1 = cw then 0xA288 else 0xA2C8)
  else if y + 1 = ch then 0xA201
  else 0xA281

/-- R206, R211: a core as the phase starts it. -/
def deliveryCore (s : State) (w : Nat) (t : Slot) (body : List Byte) (p : Nat × Nat) : Core :=
  let n := relCore w t p
  let first := p = (0, 0)
  let c := s.core n
  let c := c.zeroRange 0 0x40000
  let c := { c with mem := { c.mem with full := [] } }
  let c := c.pokeRaw svcBase svcProgram
  let c := if first then c.pokeRaw svcStage body else c
  let src := relCore w t (0, 0)
  let chans : AMap Chan := if first then [] else
    [(0, { stream := 0, src := src, host := false, cyclic := false, tokens := 16, spillLa := 0x41B00000 })]
  let set := deliverySet (8 * t.w) (8 * t.h) p.1 p.2
  let credits : AMap Nat := if first then [(0, 16)] else []
  let route : Route := { sets := (Vector.replicate 4 0).set 0 set }
  { (c.setCtx 0 (svcCtx svcCode (nodeNum n) (p.1 + p.2 * 2 ^ 16) ((body.length + 127) / 128) (cycleOf s n))) with
    comm := { c.comm with chans := chans, routes := [(0, route)], credits := credits, creditInit := credits } }

/-- The relative coordinates of a slot's cores. -/
def Slot.relCores (t : Slot) : List (Nat × Nat) :=
  (List.range (8 * t.h)).flatMap fun y => (List.range (8 * t.w)).map fun x => (x, y)

/-- R211: the code-delivery phase of a LOAD begins. DEDUCED (log 81). -/
def startDelivery (s : State) (w slot port : Nat) (img body : List Byte) : State :=
  let t := (s.module w).slot slot
  let s := t.relCores.foldl (fun s p => s.setCore (relCore w t p) (deliveryCore s w t body p)) s
  let s := s.modSlot w slot fun t => { t with st := .loading }
  s.modModule w fun m => { m with
    phase := some { delivery := true, slot := slot, port := port, px0 := 0, py0 := 0, width := 8 * t.w, height := 8 * t.h
                    sites := t.relCores.map (relCore w t), started := s.now, image := img } }

/-- R211: what the loader zeroes when the phase ends. -/
def Core.endDelivery (c : Core) (len : Nat) : Core :=
  let c := (c.zeroRange svcBase (svcStage - svcBase + len)).zeroRange 0 0x40000
  { c.leaveService with
    mem := { c.mem with full := [] }
    comm := {} }

/-- R211: the credits of a phase that are still on their way go with its route entries and declarations. -/
def dropCredits (s : State) (sites : List Node) : State :=
  { s with
    net := s.net.filter fun m => match m.kind with
      | .credit n _ => !sites.contains n
      | _ => true
    lots := s.lots.filter fun l => !sites.contains l.2.1 }

/-- R209, R211: the code-delivery phase ends, and LOAD goes on with the Tensors section. DEDUCED (log 81). -/
def endDelivery (s : State) (w : Nat) (p : Phase) : State :=
  let len := ((wholeCode p.image).map (·.length)).getD 0
  let s := dropCredits s p.sites
  let s := p.sites.foldl (fun s n => s.modCore n fun c => c.endDelivery len) s
  let s := s.modModule w fun m => { m with phase := none }
  p.finish (installImage s w p.slot p.image false) w 0x00

/-- R209: a service phase that ends in time ends once nothing that it started is left. -/
def execServicePhaseEnd (w : Fin 16) (s : State) : Out :=
  match (s.module w).phase with
  | some p =>
    .next (if !phaseDone s p || p.late s then s else if p.delivery then endDelivery s w p else endMapping s w p)
  | none => .next s

/-- R209: the loader zeroes what a code-delivery phase wrote in a core: the program and the staged body, the delivered
code, the spill area, the scratchpad, context 0 and the phase's route entry, channel and credits. What the phase has put off
performs no more. -/
def Core.dropDelivery (len : Nat) (c : Core) : Core :=
  let c := c.zeroRange svcBase (svcStage - svcBase + len)
  let c := ((c.zeroRange 0x40000000 len).zeroRange 0x41B00000 4096).zeroRange 0 0x40000
  let k : Ctx := { fires := (c.ctx 0).fires + 1 }
  { c.setCtx 0 k with
    mem := { c.mem with full := [], fills := [] }
    comm := { c.comm with chans := [], routes := [], credits := [], creditInit := [] }
    later := [] }

/-- R209: LOAD fails, and the region stays unloaded. -/
def failDelivery (s : State) (w : Nat) (p : Phase) : State :=
  let s := dropCredits (dropTraffic s fun n => p.sites.contains n) p.sites
  let len := ((wholeCode p.image).map (·.length)).getD 0
  let s := p.sites.foldl (fun s n => s.modCore n (Core.dropDelivery len)) s
  let s := s.modSlot w p.slot fun t => { t with st := .unloaded }
  p.finish (s.modModule w fun m => { m with phase := none }) w 0x09

/-- R209: a code-delivery phase that has not ended within 2^26 cycles. -/
def execCodeDeliveryTimeout (w : Fin 16) (slot : Fin 32) (s : State) : Out :=
  match (s.module w).phase with
  | some p => .next (if p.delivery ∧ p.slot = slot ∧ p.late s then failDelivery s w p else s)
  | none => .next s

/-! ### LOAD (R25, R26, R67) -/

/-- R356: Shelves of a rectangle are still being zeroed. DEDUCED (log 74). -/
def beingZeroed (m : Module) (t : Slot) : Bool :=
  m.slots.toList.any fun u => u.zeroing.any fun cl => t.holds cl

/-- R324: a domain is in a seal or a rollback, which a LOAD or a LAUNCH waits for. DEDUCED (log 74). -/
def domainBusy (s : State) (d : Nat) : Bool := (s.domain d).phase != .open_ || (s.domain d).rolling

/-- The image that LOAD names, as the bridge reads it. -/
def Cmd.image (c : Cmd) (s : State) : List Byte := hostRead s c.w c.port (c.arg 0) (c.arg 1)

/-- R357, R366: an available cluster of a rectangle has no power. DEDUCED (log 18). -/
def unpowered (s : State) (w : Nat) (t : Slot) : Bool :=
  t.clusters.any fun cl => clusterAvailable (s.module w) cl && !powered s (mkNode w (0xF000 + cl))

/-- R25: what a LOAD waits for: power, the zeroing of R356, another service phase, a seal of its domain.
DEDUCED (log 18). DEDUCED (log 74). -/
def Cmd.loadWaits (c : Cmd) (s : State) : Bool :=
  unpowered s c.w (c.theSlot s) || beingZeroed (s.module c.w) (c.theSlot s) || (s.module c.w).phase.isSome
    || domainBusy s (header (c.image s)).domain

/-- R25, R211: an image that passed every check is installed. -/
def loadImage (c : Cmd) (s : State) : State :=
  let img := c.image s
  match wholeCode img with
  | some body => startDelivery s c.w c.slot c.port img body
  | none => c.finish (installImage s c.w c.slot img true) 0x00

/-- R370 check 7: the bridge reads the header, then the image, and checks them. -/
def Cmd.loadChecks (c : Cmd) (s : State) : List (Bool × Nat) :=
  let img := c.image s
  let code := imageCode s c.w (c.theSlot s) img
  [(readFails s c.w c.port (c.arg 0) 128, 0x26), (badMagic img, 0x01), (fld img 8 4 != c.arg 1, 0x02),
   (readFails s c.w c.port (c.arg 0) (c.arg 1), 0x26), (code != 0, code)]

/-- R64, R67: LOAD; once every check has passed it is accepted, and the lease restarts. DEDUCED (log 74).
DEDUCED (log 75). -/
def runLoad (c : Cmd) (s : State) : State :=
  c.run s false
    [((c.theSlot s).st != .unloaded, 0x22),
     (c.arg 1 % 16 != 0 || c.arg 1 < 128 || 2 ^ 32 - 16 < c.arg 1, 0x27)]
    fun s =>
      if c.loadWaits s then s
      else c.run s true (c.loadChecks s) (loadImage c)

/-- R67, R370: LOAD. -/
def execLoad (w : Fin 16) (port : Fin 2) (slot : BitVec 8) (s : State) : Out :=
  .next (submit s w (port + 1) 0x02 slot.toNat false runLoad)

/-! ### LAUNCH (R69–R71) -/

/-- R70: PTR and EXTENT of the bindings of a table. -/
def bindingsOf (b : List Byte) : List (Nat × Nat × Nat) := (rowsOf 16 b).map fun e => (fld e 0 8, fld e 8 4, fld e 12 4)

/-- R70: a binding is valid. -/
def bindingOk (b : Nat × Nat × Nat) : Bool :=
  b.1 % 4096 == 0 && b.2.1 % 4096 == 0 && 4096 ≤ b.2.1 && b.2.1 ≤ 2 ^ 31 && b.2.2 == 0

/-- The binding table that LAUNCH names. -/
def Cmd.bindings (c : Cmd) (s : State) : List (Nat × Nat × Nat) :=
  bindingsOf (hostRead s c.w c.port (c.arg 2) (16 * (c.theSlot s).eps.length))

/-- R70, R71: an endpoint zeroed and bound. -/
def Endpoint.bind (x : Endpoint) (b : Nat × Nat × Nat) : Endpoint :=
  { name := x.name, egress := x.egress, stream := x.stream, core := x.core, chan := x.chan, tokens := x.tokens
    bound := true, ptr := b.1, extent := b.2.1, credits := if x.egress then 0 else x.tokens }

/-- R71 step 2: the argument block in a core. -/
def Core.takeArgs (c : Core) (bs : List Byte) : Core :=
  (c.pokeRaw (0x40000 - bs.length) bs).setFull (feWords (0x40000 - bs.length) bs.length) true

/-- R71 steps 2 to 6. The command finishes once every core has started its wake context, which a debug freeze of the
domain delays (R136). -/
def launch (c : Cmd) (s : State) : State :=
  let args := hostRead s c.w c.port (c.arg 0) (c.arg 1)
  let bs := c.bindings s
  let cores := slotCores s c.w c.slot
  let s := cores.foldl (fun s n => s.modCore n fun k => k.takeArgs args) s
  let s := s.modSlot c.w c.slot fun t =>
    { t with
      st := .launched, limErr := 0, wakes := true, joinedCkpt := t.joined
      eps := t.eps.mapIdx fun i x => x.bind (bs.getD i (0, 0, 0))
      epsCkpt := t.eps.mapIdx fun i x => (x.bind (bs.getD i (0, 0, 0))).covered }
  let s := cores.foldl (fun s n => s.modCore n fun k =>
    { k with comm := { k.comm with sent := [] } }.sealNow) s
  let s := (slotHubs s c.w c.slot).foldl (fun s h =>
    s.modHub h fun x => { x with dealer := x.dealer.save, barCkpt := x.bar }) s
  let s := emptyCaches s [(c.w, c.slot)]
  let s := wakeSlot (startSilent s c.w c.slot) c.w c.slot
  if (c.theSlot s).wakeHeld then s else c.finish s 0x00

/-- R370 check 7: the reads of a LAUNCH, its bindings, and the range of its argument block (R71). -/
def Cmd.launchChecks (c : Cmd) (s : State) : List (Bool × Nat) :=
  let t := c.theSlot s
  [(readFails s c.w c.port (c.arg 0) (c.arg 1) || readFails s c.w c.port (c.arg 2) (16 * t.eps.length), 0x26),
   (!(c.bindings s).all bindingOk || (t.image.map (·.argClash)).getD false, 0x25)]

/-- R71: LAUNCH. It waits for a seal or a rollback of its domain; once every check has passed it is accepted, and the
lease restarts (R64). DEDUCED (log 74). DEDUCED (log 75). -/
def runLaunch (c : Cmd) (s : State) : State :=
  let t := c.theSlot s
  c.run s false [(t.st != .loaded, 0x22), (some (c.arg 1) != t.image.map (·.argSize), 0x25)] fun s =>
    if (slotDomain s c.w c.slot).any (domainBusy s) then s else c.run s true (c.launchChecks s) (launch c)

/-- R71, R370: LAUNCH. -/
def execLaunch (w : Fin 16) (port : Fin 2) (slot : BitVec 8) (s : State) : Out :=
  .next (submit s w (port + 1) 0x03 slot.toNat false runLaunch)

/-! ### Commands that wait (R66) -/

/-- R66, R370: a LOAD, LAUNCH or REMAP that waits is tried again, its checks included; one that has been accepted goes
on, and finishes when what it awaits has come. DEDUCED (log 74). -/
def retryPort (s : State) (w p : Nat) : State :=
  match ((s.module w).port p).running with
  | some r =>
    let c : Cmd := { w := w, port := p, slot := r.slot, args := r.args }
    let again (k : Cmd → State → State) : State :=
      match firstCode [(!holdsSem s w p (opSem r.op r.slot), 0x21), (orphanBars s w r.op r.slot, 0x24)] with
      | some code => c.finish s code
      | none => k c s
    if (s.module w).phase.any fun q => q.port == p then s
    else if r.op = 2 then again runLoad
    else if r.op = 3 ∧ (c.theSlot s).st = .launched then (if (c.theSlot s).wakeHeld then s else c.finish s 0x00)
    else if r.op = 3 then again runLaunch
    else if r.op = 0x18 then again runRemap
    else s
  | none => s

/-- R356: the background zeroing of a stopped region's Shelves ends. -/
def execShelfZeroingDone (w : Fin 16) (slot : Fin 32) (s : State) : Out :=
  .next (s.modSlot w slot fun t => { t with zeroing := [] })

end Sys2Proof.Machine
end

