-- ==== Sys2Proof/Machine/Host.lean ====
section
/-! DEFINITION. Management commands (R354, R355, R362–R365), the registers of a host port (R60–R72), `VB_INJ` (R351),
and what follows every event at once. -/

namespace Sys2Proof.Machine

/-! ### ATTEST (R362) -/

/-- R362: bit py·264 + px of the dead-site map, as bytes. -/
def deadMap (m : Module) : List Byte :=
  (List.range 7920).map fun i => BitVec.ofNat 8 ((List.range 8).foldl (fun x j =>
    if siteDead m ((8 * i + j) % 264) ((8 * i + j) / 264) then x + 2 ^ j else x) 0)

/-- R362: the 1,920 RMAP entries. -/
def rmapBytes (m : Module) : List Byte := (List.range 1920).flatMap fun i => leBytes 4 (rmapEntry m i).toNat

/-- The number of a port's bridge (R60). -/
def bridgeNumber (port : Nat) : Nat := if port = 1 then 27 else 11

/-- R362: the bytes of a report that the signature covers. -/
def reportBody (m : Module) (port : Nat) (nonce : List Byte) : List Byte :=
  leBytes 4 0x4132574C ++ leBytes 2 1 ++ leBytes 2 (grade m) ++ leBytes 2 m.fieldRet ++ leBytes 2 (bridgeNumber port)
    ++ leBytes 4 0 ++ leBytes 16 m.serial.toNat ++ nonce ++ sha256 (deadMap m) ++ sha256 (rmapBytes m)
    ++ leBytes 32 m.fwDigest.toNat

/-- R362: a report with the signature that the key pair of the port's bridge gives at an index. -/
def report362 (m : Module) (port index : Nat) (nonce : List Byte) : List Byte :=
  let body := reportBody m port nonce
  body ++ leBytes 4 3604 ++ hssSign m.serial.toNat (bridgeNumber port) index body

/-- R362: the key index of a port's bridge. -/
def Module.key (m : Module) (p : Nat) : Nat := vget m.keyIndex 0 (p - 1)

/-- R362: ATTEST: the index advances before the report is written. -/
def attest (c : Cmd) (s : State) : State :=
  let m := s.module c.w
  let nonce := leBytes 8 (c.arg 1) ++ leBytes 8 (c.arg 2) ++ leBytes 8 (c.arg 3) ++ leBytes 8 (c.arg 4)
  let s := s.modModule c.w fun m => { m with keyIndex := vset m.keyIndex (c.port - 1) (m.key c.port + 1) }
  c.finish (hostPoke s c.w c.port (c.arg 0) (report362 m c.port (m.key c.port) nonce)) 0x00

/-- R362, R370: the checks of ATTEST. -/
def runAttest (c : Cmd) (s : State) : State :=
  c.run s false [(c.arg 0 % 8 != 0, 0x27), (2 ^ 40 ≤ (s.module c.w).key c.port, 0x28)] (attest c)

/-- R362: ATTEST. -/
def execAttest (w : Fin 16) (port : Fin 2) (slot : BitVec 8) (s : State) : Out :=
  .next (submit s w (port + 1) 0x10 slot.toNat false runAttest)

/-! ### MCREAD (R354) -/

/-- R343: a record as 32 bytes. -/
def McRecord.bytes (r : McRecord) : List Byte :=
  [r.cause, r.src, r.action, 0] ++ leBytes 4 r.loc.toNat ++ leBytes 4 r.rin.toNat ++ leBytes 4 r.rb.toNat
    ++ leBytes 8 r.detail.toNat ++ leBytes 8 r.cycle.toNat

/-- R354: 64 records, zero bytes in place of those the ring does not yet hold, and the count. -/
def Ring.bytes (r : Ring) : List Byte :=
  r.recs.flatMap McRecord.bytes ++ leBytes (32 * (64 - r.recs.length)) 0 ++ leBytes 8 r.count

/-- R354: MCREAD of a slot's ring, or of the module ring with SLOT 0xFF. -/
def runMcread (c : Cmd) (s : State) : State :=
  let ring := if c.slot = 0xFF then (s.module c.w).ring else (c.theSlot s).ring
  c.run s (c.slot != 0xFF) [(c.arg 0 % 8 != 0, 0x27)] fun s =>
    c.finish (hostPoke s c.w c.port (c.arg 0) ring.bytes) 0x00

/-- R354, R370: MCREAD. -/
def execMcread (w : Fin 16) (port : Fin 2) (slot : BitVec 8) (s : State) : Out :=
  .next (submit s w (port + 1) 0x11 slot.toNat false runMcread)

/-! ### READOUT, RESUME (R345, R355) -/

/-- R355: the oldest readout that the bridge holds goes to the buffer; otherwise the buffer is armed. -/
def armReadout (c : Cmd) (s : State) : State :=
  fillReadout (s.modSlot c.w c.slot fun t => { t with readout := some (c.arg 0, c.arg 1) }) c.w c.slot

/-- R354, R355: READOUT. -/
def runReadout (c : Cmd) (s : State) : State :=
  c.run s true [(c.arg 0 % 8 != 0 || c.arg 1 < 4096 || 2 ^ 32 < c.arg 1, 0x27)] fun s => c.finish (armReadout c s) 0x00

/-- R354, R370: READOUT. -/
def execReadout (w : Fin 16) (port : Fin 2) (slot : BitVec 8) (s : State) : Out :=
  .next (submit s w (port + 1) 0x12 slot.toNat false runReadout)

/-- R187, R351: on resume every record returns to its queue in order, read from the spill area. -/
def Core.refill (c : Core) : Core :=
  let c := c.comm.chans.foldl (fun c p =>
    if p.2.spill.isEmpty then c else c.touchRange p.2.spillLa (64 + 144 * p.2.spill.length) false) c
  { c with comm := { c.comm with
      chans := c.comm.chans.map fun p => (p.1, { p.2 with queue := p.2.spill ++ p.2.queue, spill := [] }) } }

/-- R136, R345: a debug freeze of a slot's domain ends: spilled words return to their queues, execution goes on, and a
wake flood that it held back comes. Where a read beat of a refill fails (R351), the domain that has resumed is
machine-checked. -/
def unfreeze (s : State) (d : Nat) : State :=
  let s := (domCores s d).foldl (fun s n => s.modCore n Core.refill)
    (s.modDomain d fun x => { x with frozen := false, reason := 0 })
  let s := settleBeats (clearBeats s) s none
  (memberSlots s d).foldl (fun s p => if ((s.module p.1).slot p.2).wakeHeld then wakeSlot s p.1 p.2 else s) s

/-- R355: the slot's domain is under a debug freeze. -/
def slotFrozen (s : State) (w slot : Nat) : Bool := (slotDomain s w slot).any fun d => (s.domain d).frozen

/-- R355: RESUME. -/
def runResume (c : Cmd) (s : State) : State :=
  c.run s true [(!slotFrozen s c.w c.slot, 0x22)] fun s =>
    c.finish (((slotDomain s c.w c.slot).map (unfreeze s)).getD s) 0x00

/-- R355, R370: RESUME. -/
def execResume (w : Fin 16) (port : Fin 2) (slot : BitVec 8) (s : State) : Out :=
  .next (submit s w (port + 1) 0x17 slot.toNat false runResume)

/-! ### POD (R363, R364) -/

/-- R364: a link-table entry that POD takes. -/
def linkOk (wafer members q e : Nat) : Bool :=
  !bitOf e 31 || (bits e 20 10 == 0 && bits e 13 3 == 0 && bits e 2 6 == 0 && bitOf members (bits e 16 4)
    && bits e 16 4 != wafer && bits e 0 2 == q)

/-- R364: the entries of a table. -/
def linkEntries (b : List Byte) : List Nat := (rowsOf 4 b).map fun e => fld e 0 4

/-- R363: the argument of POD, and the table's entries, are valid. DEDUCED (log 86). -/
def podOk (arg0 : Nat) (es : List Nat) : Bool :=
  let wafer := bits arg0 0 4
  let members := bits arg0 16 16
  arg0 == wafer + members * 2 ^ 16 && bitOf members wafer
    && ((List.range 128).all fun i => linkOk wafer members (i % 4) (es.getD i 0))

/-- R364: port `q` of bridge `b` of a module. -/
def opticalOf (s : State) (w b q : Nat) : Optical := vget (s.bridge (mkNode w (0xFF00 + b))).ports {} q

/-- The module of a wafer number. -/
def moduleOfWafer (s : State) (wafer : Nat) : Option Nat :=
  (s.modules.find? fun p => p.2.present && p.2.wafer == wafer).map (·.1)

/-- R364: the entries at both ends are valid and name each other. -/
def trained (s : State) (w b q : Nat) : Bool :=
  let e := (opticalOf s w b q).entry.toNat
  bitOf e 31 && (match moduleOfWafer s (bits e 16 4) with
    | some v =>
      let p := (opticalOf s v (bits e 8 5) q).entry.toNat
      v != w && bitOf p 31 && bits p 16 4 == (s.module w).wafer && bits p 8 5 == b && bits p 0 2 == q
    | none => false)

/-- R363: a bridge trains those of its ports that `this` says. -/
def trainBridge (s : State) (w b : Nat) (this : Optical → Bool) : State :=
  s.modBridge (mkNode w (0xFF00 + b)) fun x =>
    { x with ports := x.ports.mapFinIdx fun q o _ => if this o then { o with up := trained s w b q } else o }

/-- R363: every bridge of a module trains ports. -/
def trainModule (s : State) (w : Nat) (this : Optical → Bool) : State :=
  (List.range 32).foldl (fun s b => trainBridge s w b this) s

/-- R363: the new entries of the module's ports. -/
def takeLinks (s : State) (w : Nat) (es : List Nat) : State :=
  (List.range 32).foldl (fun s b =>
    s.modBridge (mkNode w (0xFF00 + b)) fun x =>
      { x with ports := x.ports.mapFinIdx fun q _ _ =>
          { entry := BitVec.ofNat 32 (es.getD (4 * b + q) 0) &&& ~~~(1#32 <<< 30), up := false } }) s

/-- R364: the table as POD writes it back. -/
def tableBack (s : State) (w : Nat) : List Byte :=
  (List.range 128).flatMap fun i =>
    let o := opticalOf s w (i / 4) (i % 4)
    leBytes 4 (o.entry ||| (if o.up then 1#32 <<< 30 else 0)).toNat

/-- R363: POD: the wafer number and the members, the link table, and training at both ends. DEDUCED (log 86). -/
def pod (c : Cmd) (s : State) (es : List Nat) : State :=
  let old := (s.module c.w).wafer
  let s := s.modModule c.w fun m =>
    { m with wafer := bits (c.arg 0) 0 4, members := BitVec.ofNat 16 (bits (c.arg 0) 16 16) }
  let s := takeLinks s c.w es
  let names (o : Optical) : Bool := bits o.entry.toNat 16 4 == bits (c.arg 0) 0 4 || bits o.entry.toNat 16 4 == old
  let s := ((s.modules.filter (·.2.present)).map (·.1)).foldl (fun s v => trainModule s v fun o => v == c.w || names o) s
  c.finish (hostPoke s c.w c.port (c.arg 1) (tableBack s c.w)) 0x00

/-- R363, R370: the checks of POD. A reserved bit of ARG0 gives 0x27, as R363 says. -/
def runPod (c : Cmd) (s : State) : State :=
  let es := linkEntries (hostRead s c.w c.port (c.arg 1) 512)
  c.run s false
    [((s.module c.w).slots.toList.any fun t => t.st != .empty, 0x22),
     (c.arg 1 % 8 != 0 || !podOk (c.arg 0) [], 0x27),
     (readFails s c.w c.port (c.arg 1) 512, 0x26),
     (!podOk (c.arg 0) es, 0x27)]
    fun s => pod c s es

/-- R363, R370: POD. -/
def execPod (w : Fin 16) (port : Fin 2) (slot : BitVec 8) (s : State) : Out :=
  .next (submit s w (port + 1) 0x19 slot.toNat false runPod)

/-! ### The registers of a port (R60–R72) -/

/-- R67, R370: an OP that no table lists; every OP and SLOT goes through check 1. -/
def submitOp (s : State) (w port op slot : Nat) (reserved : Bool) : State :=
  let run : Cmd → State → State :=
    match op with
    | 0x01 => runClaim
    | 0x02 => runLoad
    | 0x03 => runLaunch
    | 0x04 => runUnload
    | 0x05 => runUnclaim
    | 0x06 => runRebind
    | 0x10 => runAttest
    | 0x11 => runMcread
    | 0x12 => runReadout
    | 0x13 => runTherm
    | 0x14 => runRetire
    | 0x15 => runColmove
    | 0x16 => runWake
    | 0x17 => runResume
    | 0x18 => runRemap
    | 0x19 => runPod
    | _ => fun c s => c.finish s 0x20
  submit s w port op slot reserved run

/-- R67: an OP that neither R67 nor R354 lists. -/
def opKnown (op : Nat) : Bool := (1 ≤ op && op ≤ 6) || (0x10 ≤ op && op ≤ 0x19)

/-- R67: a command with an OP that no table lists. -/
def execUnknownOp (w : Fin 16) (port : Fin 2) (slot op : BitVec 8) (s : State) : Out :=
  .next (if opKnown op.toNat then s else submitOp s w (port + 1) op.toNat slot.toNat false)

/-- R72: the port that owns a slot: the former owner while the slot holds a rectangle, otherwise its semaphore's. -/
def ownsSlot (s : State) (w port slot : Nat) : Bool :=
  let t := (s.module w).slot slot
  if t.st = .empty then holdsSem s w port (slot + 2) else t.owner == port && !t.orphaned

/-- R72: what a write of `EP_LIMIT` does to an endpoint, if it is not ignored. DEDUCED (log 83). -/
def limitTaken (x : Endpoint) (v : Nat) : Bool :=
  x.bound && x.limit ≤ v && v ≤ x.pos + x.extent && v % 128 == 0

/-- R72: LIM_ERR of an endpoint. DEDUCED (log 83). -/
def setLimErr (s : State) (w slot e : Nat) : State :=
  s.modSlot w slot fun t => { t with limErr := t.limErr ||| (1#64 <<< e) }

/-- R72, R73: a write of `EP_LIMIT`; bytes that it releases go to the host. -/
def writeLimit (s : State) (w port slot e v : Nat) : State :=
  if !ownsSlot s w port slot || 30 ≤ slot then s
  else
    match endpoint s w slot e with
    | some x =>
      if limitTaken x v then deliverEgress (modEndpoint s w slot e fun x => { x with limit := v }) w slot e
      else setLimErr s w slot e
    | none => setLimErr s w slot e

/-- R72: EP_LIMIT. -/
def execEpLimitWrite (w : Fin 16) (port : Fin 2) (slot : Fin 32) (ep : Fin 64) (v : Word) (s : State) : Out :=
  .next (writeLimit s w (port + 1) slot ep v.toNat)

/-- R72: a write of `EP_CTL` clears LIM_ERR where bit 2 is set. -/
def writeEpCtl (s : State) (w port slot e v : Nat) : State :=
  if ownsSlot s w port slot && bitOf v 2 then
    s.modSlot w slot fun t => { t with limErr := t.limErr &&& ~~~(1#64 <<< e) }
  else s

/-- R60, R72: a write of an endpoint register. -/
def writeEndpoint (s : State) (w port off v : Nat) : State :=
  let slot := (off - 0x1000) / 0x800
  let e := off % 0x800 / 0x20
  if 30 ≤ slot then s
  else if off % 0x20 = 0x08 then writeLimit s w port slot e v
  else if off % 0x20 = 0x18 then writeEpCtl s w port slot e v
  else s

/-- R62: a write of a semaphore; RELEASE wins over RENEW. -/
def writeSem (s : State) (w port n v : Nat) : State :=
  if bitOf v 1 then releaseSem s w port n else if bitOf v 2 then renewSem s w port n else s

/-- R6, R66: a write of `CMD_OP`; its reserved bits read as zero. -/
def writeCmdOp (s : State) (w port v : Nat) : State :=
  if bitOf v 31 then submitOp s w port (bits v 0 8) (bits v 8 8) (bits v 16 15 != 0)
  else modPort s w port fun p => { p with cmdOp := BitVec.ofNat 32 (v % 2 ^ 16) }

/-- R60: a write of a register of BAR0; what the table does not name ignores it. -/
def writeRegister (s : State) (w port off : Nat) (v : Word) : State :=
  if off < 0x80 then (if off % 4 = 0 then writeSem s w port (off / 4) v.toNat else s)
  else if off = 0x80 then
    (if holdsSem s w port 0 then s.modModule w fun m => { m with lease := v.setWidth 16 } else s)
  else if off = 0x100 then writeCmdOp s w port (v.toNat % 2 ^ 32)
  else if 0x108 ≤ off ∧ off ≤ 0x130 ∧ off % 8 = 0 then
    modPort s w port fun p => { p with args := vset p.args ((off - 0x108) / 8) v }
  else if off = 0x140 then
    (if bitOf v.toNat 30 then modPort s w port fun p => { p with ovr := false } else s)
  else if 0x1000 ≤ off then writeEndpoint s w port off v.toNat
  else s

/-- R60: REGISTER_WRITE. -/
def execRegisterWrite (w : Fin 16) (port : Fin 2) (off : Nat) (v : Word) (s : State) : Out :=
  .next (if (s.module w).present then writeRegister s w (port + 1) off v else s)

/-! ### What the host reads (R60, R62, R66, R72) -/

/-- R62, R64: LEASE_LEFT: the lease units that are left, a unit that has begun included; 0 while free. Of a lease that
never expires it is a free value. DEDUCED (log 85). -/
def leaseLeft (s : State) (h : Hsem) : Nat :=
  if h.owner = 0 then 0
  else match h.expires with
    | some t => (t - s.now + (2 ^ 20 - 1)) / 2 ^ 20
    | none => chosen s (2 ^ 16)

/-- R62: the value of a semaphore. -/
def semValue (s : State) (w n : Nat) : Nat :=
  let h := (s.module w).sem n
  if h.owner = 0 then 0 else leaseLeft s h * 2 ^ 16 + h.owner * 2 ^ 4 + 1

/-- R62, R63: what a read of a semaphore answers its port: 0 where it acquires; the one that loses a tie finds the
winner. DEDUCED (log 85). -/
def semAnswer (s : State) (w port n : Nat) : Nat :=
  if ((s.module w).sem n).owner ≠ 0 ∧ !leaseOver s w n then semValue s w n
  else if tiedRead s w port n ∧ (s.module w).tieTo ≠ port then
    (match leaseEnd s w with
      | some _ => (s.module w).lease.toNat
      | none => chosen s (2 ^ 16)) * 2 ^ 16 + (3 - port) * 2 ^ 4 + 1
  else 0

/-- R66: `CMD_STS`. -/
def Port.sts (p : Port) : Nat := p.busy.toNat * 2 ^ 31 + p.ovr.toNat * 2 ^ 30 + p.code.toNat

/-- R72: a register of an endpoint; DIR reads 0 until the endpoint is bound. DEDUCED (log 85). -/
def endpointValue (s : State) (w slot e k : Nat) : Nat :=
  let err := if ((s.module w).slot slot).limErr.getLsbD e then 4 else 0
  match endpoint s w slot e, k with
  | some x, 0 => x.pos
  | some x, 1 => x.limit
  | some x, 2 => 128 * x.held.length
  | some x, 3 => err + (if x.bound then x.egress.toNat * 2 + 1 else 0)
  | none, 3 => err
  | _, _ => 0

/-- R60: what a read of BAR0 answers a port; an offset that the table does not name reads as zero. Only the read that
acquires a semaphore changes anything (R62). DEDUCED (log 85). -/
def registerRead (s : State) (w port off : Nat) : Nat :=
  let p := (s.module w).port port
  if off < 0x80 then (if off % 4 = 0 then semAnswer s w port (off / 4) else 0)
  else if off = 0x80 then (s.module w).lease.toNat
  else if off = 0x84 then port
  else if off = 0x100 then p.cmdOp.toNat
  else if 0x108 ≤ off ∧ off ≤ 0x130 ∧ off % 8 = 0 then (vget p.args 0 ((off - 0x108) / 8)).toNat
  else if off = 0x140 then p.sts
  else if 0x1000 ≤ off ∧ off < 0x1000 + 0x800 * 30 ∧ off % 8 = 0 then
    endpointValue s w ((off - 0x1000) / 0x800) (off % 0x800 / 0x20) (off % 0x20 / 8)
  else 0

/-! ### The beat-fault injection register (R351) -/

/-- R351: the bridge controller whose injection register stands for a module. -/
def injBridge (w : Nat) : Node := portBridge w 1

/-- R351: a value of `VB_INJ` without its reserved bits. -/
def vbFields (v : Word) : Word := v &&& 0x8000FFFFFFFFFFFF#64

/-- R351: VB_INJ. DEDUCED (log 73). -/
def execVbInjWrite (w : Fin 16) (v : Word) (s : State) : Out :=
  .next (s.modBridge (injBridge w) fun b => { b with vbInj := vbFields v })

/-! ### What follows every event at once -/

/-- R357: a requested retirement of a core that no loaded region holds any more. -/
def settleRetire (s : State) (w : Nat) : State :=
  ((s.module w).retireReqs ++ (s.module w).retireNext).foldl (fun s n =>
    if (domainOf s (mkNode w n)).isNone then retireCore s w n else s) s

/-- R360: a requested move whose field no domain that has yet to seal holds. -/
def settleColumn (s : State) (w : Nat) (q : Nat × Nat × Nat × List Nat) : State :=
  let ds := fieldDomains s w q.1 q.2.1
  if ds.all q.2.2.2.contains then
    let s := moveColumn s w q.1 q.2.1 q.2.2.1 ds
    let s := s.modModule w fun m => { m with colmoves := m.colmoves.filter (· ≠ q) }
    finishWaiting s w 0x15 fun a =>
      let x := (vget a 0 0).toNat
      bits x 0 3 == q.1 && bits x 8 3 == q.2.1 && bits x 16 6 == q.2.2.1
  else s

/-- R345: an UNLOAD that awaits a seal takes effect at once under a debug freeze. -/
def settleUnload (s : State) (w slot : Nat) : State :=
  if ((s.module w).slot slot).unloading
      && (slotDomain s w slot).any fun d => (s.domain d).frozen && !(s.domain d).rolling then
    stopRegion s w slot
  else s

/-- R66, R345, R357, R360: what waits in a module. -/
def settleModule (s : State) (w : Nat) : State :=
  let m := s.module w
  let s := if m.retireReqs.isEmpty && m.retireNext.isEmpty then s else settleRetire s w
  let s := m.colmoves.foldl (fun s q => settleColumn s w q) s
  let s := if m.slots.toList.any (·.unloading) then (List.range 32).foldl (fun s i => settleUnload s w i) s else s
  if m.ports.toList.any fun p => p.running.isSome then retryPort (retryPort s w 1) w 2 else s

/-- R315: a domain without a loaded region is no more. -/
def settleDomains (s : State) : State :=
  { s with domains := s.domains.filter fun d => !(memberSlots s d.1).isEmpty }

/-- What follows every event at once. -/
def settle (s : State) : State :=
  let s := settleWide s
  let s := (s.modules.map (·.1)).foldl settleModule s
  settleDomains s

end Sys2Proof.Machine
end

