-- ==== Sys2Proof/Machine/Scalar.lean ====
section
/-! DEFINITION. Scalar instructions (R139, R143–R148). -/

namespace Sys2Proof.Machine

/-- R139: an instruction whose only effect is the result in `sd`. -/
def alu (s : State) (i : Instr) (sd : SReg) (f : State → Word) : State :=
  guarded s i fun s => advance (s.setS sd (f s))

/-- R143: shift left; only bits [5:0] of the amount count. -/
def shiftL (a : Word) (n : Nat) : Word := a <<< (n % 64)
/-- R143: shift right with zeros. -/
def shiftR (a : Word) (n : Nat) : Word := a >>> (n % 64)
/-- R143: shift right with copies of bit 63. -/
def shiftA (a : Word) (n : Nat) : Word := a.sshiftRight (n % 64)

/-- R146: the position above the highest set bit. -/
def bitLength (n : Nat) : Nat := if n = 0 then 0 else Nat.log2 n + 1

/-- R146: the zero bits below the lowest set bit among the low `n` bits. -/
def trailingZeros (x : Word) (n : Nat) : Nat :=
  ((List.range n).find? fun i => x.getLsbD i).getD n

/-- R144: the quotient or the remainder, truncated toward zero. A zero divisor gives all ones. -/
def divResult (a b : Word) (signed rem : Bool) : Word :=
  if b = 0 then BitVec.allOnes 64
  else
    match signed, rem with
    | true, false => BitVec.ofInt 64 (a.toInt.tdiv b.toInt)
    | true, true => BitVec.ofInt 64 (a.toInt.tmod b.toInt)
    | false, false => a / b
    | false, true => a % b

/-- R144, R140: a division sets DZ for a zero divisor and keeps the core's divider for at most 66 cycles.
DESIGN CHOICE (log 10). DESIGN CHOICE (log 11). -/
def divide (s : State) (sd : SReg) (a b : Word) (signed rem : Bool) : State :=
  let s := (s.setS sd (divResult a b signed rem)).modCc fun k => k.raiseFlag stsDZ (b = 0)
  advance (s.modCn fun c => { c with divFree := s.cycle + chosen s 67 })

/-- R143: `add`. -/
def execAdd (sd sa sb : SReg) (s : State) : Out :=
  .next (alu s (.add sd sa sb) sd fun s => let a := s.sr sa; let b := s.sr sb; a + b)

/-- R143: `sub`. -/
def execSub (sd sa sb : SReg) (s : State) : Out :=
  .next (alu s (.sub sd sa sb) sd fun s => let a := s.sr sa; let b := s.sr sb; a - b)

/-- R143: the low 64 bits of the product. -/
def execMul (sd sa sb : SReg) (s : State) : Out :=
  .next (alu s (.mul sd sa sb) sd fun s => let a := s.sr sa; let b := s.sr sb; a * b)

/-- R143: the high half of the signed product. -/
def execMulh (sd sa sb : SReg) (s : State) : Out :=
  .next (alu s (.mulh sd sa sb) sd fun s => let a := s.sr sa; let b := s.sr sb; (a.signExtend 128 * b.signExtend 128).extractLsb' 64 64)

/-- R143: the high half of the unsigned product. -/
def execMulhn (sd sa sb : SReg) (s : State) : Out :=
  .next (alu s (.mulhn sd sa sb) sd fun s => let a := s.sr sa; let b := s.sr sb; (a.setWidth 128 * b.setWidth 128).extractLsb' 64 64)

/-- R143: `and`. -/
def execAnd (sd sa sb : SReg) (s : State) : Out :=
  .next (alu s (.and sd sa sb) sd fun s => let a := s.sr sa; let b := s.sr sb; a &&& b)

/-- R143: `or`. -/
def execOr (sd sa sb : SReg) (s : State) : Out :=
  .next (alu s (.or sd sa sb) sd fun s => let a := s.sr sa; let b := s.sr sb; a ||| b)

/-- R143: `xor`. -/
def execXor (sd sa sb : SReg) (s : State) : Out :=
  .next (alu s (.xor sd sa sb) sd fun s => let a := s.sr sa; let b := s.sr sb; a ^^^ b)

/-- R143: `andn`. -/
def execAndn (sd sa sb : SReg) (s : State) : Out :=
  .next (alu s (.andn sd sa sb) sd fun s => let a := s.sr sa; let b := s.sr sb; a &&& ~~~b)

/-- R143: `shl`. -/
def execShl (sd sa sb : SReg) (s : State) : Out :=
  .next (alu s (.shl sd sa sb) sd fun s => let a := s.sr sa; let b := s.sr sb; shiftL a b.toNat)

/-- R143: `shr`. -/
def execShr (sd sa sb : SReg) (s : State) : Out :=
  .next (alu s (.shr sd sa sb) sd fun s => let a := s.sr sa; let b := s.sr sb; shiftR a b.toNat)

/-- R143: `sra`. -/
def execSra (sd sa sb : SReg) (s : State) : Out :=
  .next (alu s (.sra sd sa sb) sd fun s => let a := s.sr sa; let b := s.sr sb; shiftA a b.toNat)

/-- R143: signed minimum. -/
def execMin (sd sa sb : SReg) (s : State) : Out :=
  .next (alu s (.min sd sa sb) sd fun s => let a := s.sr sa; let b := s.sr sb; if b.slt a then b else a)

/-- R143: signed maximum. -/
def execMax (sd sa sb : SReg) (s : State) : Out :=
  .next (alu s (.max sd sa sb) sd fun s => let a := s.sr sa; let b := s.sr sb; if a.slt b then b else a)

/-- R143: unsigned minimum. -/
def execMinn (sd sa sb : SReg) (s : State) : Out :=
  .next (alu s (.minn sd sa sb) sd fun s => let a := s.sr sa; let b := s.sr sb; if b.ult a then b else a)

/-- R143: unsigned maximum. -/
def execMaxn (sd sa sb : SReg) (s : State) : Out :=
  .next (alu s (.maxn sd sa sb) sd fun s => let a := s.sr sa; let b := s.sr sb; if a.ult b then b else a)

/-- R143: signed less-than. -/
def execSlt (sd sa sb : SReg) (s : State) : Out :=
  .next (alu s (.slt sd sa sb) sd fun s => let a := s.sr sa; let b := s.sr sb; if a.slt b then 1 else 0)

/-- R143: unsigned less-than. -/
def execSltn (sd sa sb : SReg) (s : State) : Out :=
  .next (alu s (.sltn sd sa sb) sd fun s => let a := s.sr sa; let b := s.sr sb; if a.ult b then 1 else 0)

/-- R144: `div`. -/
def execDiv (sd sa sb : SReg) (s : State) : Out :=
  .next (guarded s (.div sd sa sb) fun s => divide s sd (s.sr sa) (s.sr sb) true false)

/-- R144: `divn`. -/
def execDivn (sd sa sb : SReg) (s : State) : Out :=
  .next (guarded s (.divn sd sa sb) fun s => divide s sd (s.sr sa) (s.sr sb) false false)

/-- R144: `rem`. -/
def execRem (sd sa sb : SReg) (s : State) : Out :=
  .next (guarded s (.rem sd sa sb) fun s => divide s sd (s.sr sa) (s.sr sb) true true)

/-- R144: `remn`. -/
def execRemn (sd sa sb : SReg) (s : State) : Out :=
  .next (guarded s (.remn sd sa sb) fun s => divide s sd (s.sr sa) (s.sr sb) false true)

/-- R145: `sel` picks by one bit of `sc`. -/
def execSel (sd sa sb sc : SReg) (bit : Fin 64) (s : State) : Out :=
  .next (alu s (.sel sd sa sb sc bit) sd fun s => if (s.sr sc).getLsbD bit then s.sr sa else s.sr sb)

/-- R146: `popc`. -/
def execPopc (sd sa : SReg) (s : State) : Out :=
  .next (alu s (.popc sd sa) sd fun s => BitVec.ofNat 64 (popcount (s.sr sa)))

/-- R146: `clz`. -/
def execClz (sd sa : SReg) (s : State) : Out :=
  .next (alu s (.clz sd sa) sd fun s => BitVec.ofNat 64 (64 - bitLength (s.sr sa).toNat))

/-- R146: `ctz`. -/
def execCtz (sd sa : SReg) (s : State) : Out :=
  .next (alu s (.ctz sd sa) sd fun s => BitVec.ofNat 64 (trailingZeros (s.sr sa) 64))

/-- R147: `addi`, the immediate sign-extended. -/
def execAddi (sd sa : SReg) (imm : BitVec 16) (s : State) : Out :=
  .next (alu s (.addi sd sa imm) sd fun s => s.sr sa + imm.signExtend 64)

/-- R147: `andi`, the immediate zero-extended. -/
def execAndi (sd sa : SReg) (imm : BitVec 16) (s : State) : Out :=
  .next (alu s (.andi sd sa imm) sd fun s => s.sr sa &&& imm.setWidth 64)

/-- R147: `ori`, the immediate zero-extended. -/
def execOri (sd sa : SReg) (imm : BitVec 16) (s : State) : Out :=
  .next (alu s (.ori sd sa imm) sd fun s => s.sr sa ||| imm.setWidth 64)

/-- R147: `xori`, the immediate zero-extended. -/
def execXori (sd sa : SReg) (imm : BitVec 16) (s : State) : Out :=
  .next (alu s (.xori sd sa imm) sd fun s => s.sr sa ^^^ imm.setWidth 64)

/-- R147: `shli`. -/
def execShli (sd sa : SReg) (amt : Fin 64) (s : State) : Out :=
  .next (alu s (.shli sd sa amt) sd fun s => shiftL (s.sr sa) amt)

/-- R147: `shri`. -/
def execShri (sd sa : SReg) (amt : Fin 64) (s : State) : Out :=
  .next (alu s (.shri sd sa amt) sd fun s => shiftR (s.sr sa) amt)

/-- R147: `srai`. -/
def execSrai (sd sa : SReg) (amt : Fin 64) (s : State) : Out :=
  .next (alu s (.srai sd sa amt) sd fun s => shiftA (s.sr sa) amt)

/-- R148: `movi`, the immediate sign-extended. -/
def execMovi (sd : SReg) (imm : BitVec 32) (s : State) : Out :=
  .next (alu s (.movi sd imm) sd fun _ => imm.signExtend 64)

/-- R148: `movk` replaces one 16-bit quarter and reads `sd`. -/
def execMovk (sd : SReg) (imm : BitVec 16) (q : Fin 4) (s : State) : Out :=
  .next (alu s (.movk sd imm q) sd fun s =>
    (s.sr sd &&& ~~~(0xFFFF#64 <<< (16 * q.val))) ||| (imm.setWidth 64 <<< (16 * q.val)))

end Sys2Proof.Machine
end

