-- ==== Sys2Proof/Machine/Wake.lean ====
section
/-! DEFINITION. Waking a blocked context (R131–R133). -/

namespace Sys2Proof.Machine

/-- R132: a blocked instruction is tried again with the registers that it read when it issued. A wait that another
event ends (a matrix unit's words, the seal) gives none. -/
def tryBlocked (s : State) (b : Blocked) : Option Try :=
  let g := b.regs
  match b.instr with
  | .stN8 sb sa off => some (tryStore g s sb sa off 1)
  | .stN16 sb sa off => some (tryStore g s sb sa off 2)
  | .stN32 sb sa off => some (tryStore g s sb sa off 4)
  | .stN64 sb sa off => some (tryStore g s sb sa off 8)
  | .ldWf sd sa off => some (tryLdWf g s sd sa off)
  | .ldWfe sd sa off => some (tryLdWfe g s sd sa off)
  | .stWef sb sa off => some (tryStWef g s sb sa off)
  | .stSf sb sa off => some (tryStSf g s sb sa off)
  | .feSet sa off => some (tryFeBit g s sa off true)
  | .feClr sa off => some (tryFeBit g s sa off false)
  | .amoAdd sd sb sa off uns wide _ => some (tryAmo g s .add sd sb 0 sa off uns wide)
  | .amoMin sd sb sa off uns wide _ => some (tryAmo g s .min sd sb 0 sa off uns wide)
  | .amoMax sd sb sa off uns wide _ => some (tryAmo g s .max sd sb 0 sa off uns wide)
  | .amoAnd sd sb sa off uns wide _ => some (tryAmo g s .and sd sb 0 sa off uns wide)
  | .amoOr sd sb sa off uns wide _ => some (tryAmo g s .or sd sb 0 sa off uns wide)
  | .amoXchg sd sb sa off uns wide _ => some (tryAmo g s .xchg sd sb 0 sa off uns wide)
  | .amoCas sd sb sc sa off uns wide _ => some (tryAmo g s .cas sd sb sc sa off uns wide)
  | .chrecv vd sd ch => some (tryChrecv s vd sd ch)
  | .chsend va sa st => some (tryChsend g s va sa st)
  | .chmark sa st => some (tryChmark g s sa st)
  | .nbPut va d => some (tryNbPut g s va d)
  | .nbGet vd d => some (tryNbGet s vd d)
  | .cntWait sd k x eq => some (tryCntWait g s sd k x eq)
  | .barWait sa b => some (tryBarWait g s sa b)
  | .vaddc vd va vb pq cin cout => some (tryCarry g s false vd va vb pq cin cout)
  | .vsubc vd va vb pq cin cout => some (tryCarry g s true vd va vb pq cin cout)
  | .vscanAdd vd va pm ty cin cout => some (tryScan g s .add vd va pm ty cin cout)
  | .vscanMax vd va pm ty cin cout => some (tryScan g s .max vd va pm ty cin cout)
  | .vscanMul vd va pm ty cin cout => some (tryScan g s .mul vd va pm ty cin cout)
  | .vlrec vd va vb vc hi cin cout => some (tryVlrec g s vd va vb vc hi cin cout)
  | .vst va sa off pm => some (tryVst g s va sa off pm)
  | .vsct va vb sa off pm => some (tryVsct g s va vb sa off pm b.arg)
  | .mxSync => some (trySync s b.arg)
  | .collWait sd sa m => some (tryCollWait g s sd sa m)
  | .egrNow sd st => some (tryEgrNow s sd st b.arg)
  | _ => none

/-- R131, R168: a wait goes on, possibly for another condition of the same instruction. -/
def keepWaiting (s : State) (n : Node) (x : Fin 8) (b : Blocked) (st : CtxState) (arg : Nat) : State :=
  if (s.ctx n x).st = st ∧ b.arg = arg then s
  else
    let s := s.modCtx n x fun k => { k with st := st, blocked := some { b with arg := arg } }
    let s := if st = .waitFe then takeWatch s arg else s
    s.modCore n Core.refreshWatch

/-- R132: a blocked instruction takes a precise trap. -/
def trapBlocked (s : State) (n : Node) (x : Fin 8) (b : Blocked) (t : TrapOf) : State :=
  (takeTrap s n x
    { code := t.code, reported := false, orphan := false, pc := b.pc, val := t.val, rpc := b.pc, ctx := some x,
      stamp := cycleOf s n }).modCore n Core.refreshWatch

/-- R132: a context is blocked, its region is not frozen, and no seal holds it (R323). DEDUCED (log 69). -/
def mayWake (s : State) (n : Node) (x : Fin 8) : Option Blocked :=
  let k := s.ctx n x
  if k.st.blocked && !isFrozen s n && (x == 7 || !isHeld s n) then k.blocked else none

/-- R132: the executing instruction is the one that the context is blocked on. -/
def asBlocked (s : State) (n : Node) (x : Fin 8) (b : Blocked) : State :=
  { s with cur := { s.cur with core := n, ctx := x, pc := b.pc, succ := b.succ, value := b.value, late := false } }

/-- R132: what a blocked instruction comes to now. -/
def wakeEffect (s : State) (n : Node) (x : Fin 8) (b : Blocked) : State :=
  match tryBlocked (asBlocked s n x b) b with
  | some (.done t) => resumeBlocked t n x
  | some (.wait st arg) => keepWaiting (asBlocked s n x b) n x b st arg
  | some (.part t st arg) => keepWaiting t n x b st arg
  | some (.trap t) => trapBlocked s n x b t
  | none => s

/-- R132: a blocked context whose condition holds completes its instruction and becomes READY. -/
def execContextWake (n : Node) (x : Fin 8) (s : State) : Out :=
  match mayWake s n x with
  | some b => .next (wakeEffect s n x b)
  | none => .next s

/-! ### Waits at the start of a cycle (R132, R133) -/

/-- R133: the waits that consume nothing, which all complete together. -/
def Blocked.consumesNothing (b : Blocked) : Bool :=
  match b.instr with
  | .ldWf .. | .cntWait .. | .barWait .. | .collWait .. | .mxSync => true
  | _ => false

/-- R133: the blocked contexts of a core that are of a kind, in the order in which they blocked. -/
def waitersOf (c : Core) (kind : Blocked → Bool) : List (Fin 8) :=
  let key (x : Nat) : Option Nat := ((c.ctx (Fin.ofNat 8 x)).blocked.filter kind).map fun b => b.since * 8 + x
  (((List.range 8).filterMap key).foldl insertNat []).map (Fin.ofNat 8)

/-- R133: the blocked contexts of a core, in the order in which their waits are looked at: first those that consume
nothing. DEDUCED (log 23). -/
def waiters (c : Core) : List (Fin 8) :=
  waitersOf c Blocked.consumesNothing ++ waitersOf c fun b => !b.consumesNothing

/-- R162, R350: a context that is still blocked takes a report that has come in the cycle before, and its wait is abandoned.
DEDUCED (log 117). -/
def abandonWait (s : State) (n : Node) (x : Fin 8) : State :=
  let k := s.ctx n x
  if k.st.blocked && !isFrozen s n && (ldwcTaken (s.core n) x).getD 0 == 0 then takeWaiting s n x else s

end Sys2Proof.Machine
end

