-- ==== Sys2Proof/Machine/Dispatch.lean ====
section
/-! DEFINITION. What each instruction, Deck word and event of the opcode table does: one arm each. -/

namespace Sys2Proof.Machine

/-- R5: the meaning of every row of the opcode table. -/
def exec (i : Instr) (s : State) : Host.Outcome State Fault Refusal :=
  match i with
  | .nop => Sys2Proof.Machine.execNop s
  | .endHandler => Sys2Proof.Machine.execEndHandler s
  | .yield => Sys2Proof.Machine.execYield s
  | .ret => Sys2Proof.Machine.execRet s
  | .br t => Sys2Proof.Machine.execBr t s
  | .call t => Sys2Proof.Machine.execCall t s
  | .bEq sa sb t => Sys2Proof.Machine.execBEq sa sb t s
  | .bNe sa sb t => Sys2Proof.Machine.execBNe sa sb t s
  | .bLt sa sb t => Sys2Proof.Machine.execBLt sa sb t s
  | .bGe sa sb t => Sys2Proof.Machine.execBGe sa sb t s
  | .bLtn sa sb t => Sys2Proof.Machine.execBLtn sa sb t s
  | .bGen sa sb t => Sys2Proof.Machine.execBGen sa sb t s
  | .bpAny pm t => Sys2Proof.Machine.execBpAny pm t s
  | .bpAll pm t => Sys2Proof.Machine.execBpAll pm t s
  | .bpNone pm t => Sys2Proof.Machine.execBpNone pm t s
  | .loop sa t => Sys2Proof.Machine.execLoop sa t s
  | .add sd sa sb => Sys2Proof.Machine.execAdd sd sa sb s
  | .sub sd sa sb => Sys2Proof.Machine.execSub sd sa sb s
  | .mul sd sa sb => Sys2Proof.Machine.execMul sd sa sb s
  | .mulh sd sa sb => Sys2Proof.Machine.execMulh sd sa sb s
  | .mulhn sd sa sb => Sys2Proof.Machine.execMulhn sd sa sb s
  | .div sd sa sb => Sys2Proof.Machine.execDiv sd sa sb s
  | .divn sd sa sb => Sys2Proof.Machine.execDivn sd sa sb s
  | .rem sd sa sb => Sys2Proof.Machine.execRem sd sa sb s
  | .remn sd sa sb => Sys2Proof.Machine.execRemn sd sa sb s
  | .and sd sa sb => Sys2Proof.Machine.execAnd sd sa sb s
  | .or sd sa sb => Sys2Proof.Machine.execOr sd sa sb s
  | .xor sd sa sb => Sys2Proof.Machine.execXor sd sa sb s
  | .andn sd sa sb => Sys2Proof.Machine.execAndn sd sa sb s
  | .shl sd sa sb => Sys2Proof.Machine.execShl sd sa sb s
  | .shr sd sa sb => Sys2Proof.Machine.execShr sd sa sb s
  | .sra sd sa sb => Sys2Proof.Machine.execSra sd sa sb s
  | .min sd sa sb => Sys2Proof.Machine.execMin sd sa sb s
  | .max sd sa sb => Sys2Proof.Machine.execMax sd sa sb s
  | .minn sd sa sb => Sys2Proof.Machine.execMinn sd sa sb s
  | .maxn sd sa sb => Sys2Proof.Machine.execMaxn sd sa sb s
  | .slt sd sa sb => Sys2Proof.Machine.execSlt sd sa sb s
  | .sltn sd sa sb => Sys2Proof.Machine.execSltn sd sa sb s
  | .sel sd sa sb sc bit => Sys2Proof.Machine.execSel sd sa sb sc bit s
  | .popc sd sa => Sys2Proof.Machine.execPopc sd sa s
  | .clz sd sa => Sys2Proof.Machine.execClz sd sa s
  | .ctz sd sa => Sys2Proof.Machine.execCtz sd sa s
  | .addi sd sa imm => Sys2Proof.Machine.execAddi sd sa imm s
  | .andi sd sa imm => Sys2Proof.Machine.execAndi sd sa imm s
  | .ori sd sa imm => Sys2Proof.Machine.execOri sd sa imm s
  | .xori sd sa imm => Sys2Proof.Machine.execXori sd sa imm s
  | .shli sd sa amt => Sys2Proof.Machine.execShli sd sa amt s
  | .shri sd sa amt => Sys2Proof.Machine.execShri sd sa amt s
  | .srai sd sa amt => Sys2Proof.Machine.execSrai sd sa amt s
  | .movi sd imm => Sys2Proof.Machine.execMovi sd imm s
  | .movk sd imm q => Sys2Proof.Machine.execMovk sd imm q s
  | .ldS8 sd sa off => Sys2Proof.Machine.execLdS8 sd sa off s
  | .ldS16 sd sa off => Sys2Proof.Machine.execLdS16 sd sa off s
  | .ldS32 sd sa off => Sys2Proof.Machine.execLdS32 sd sa off s
  | .ldS64 sd sa off => Sys2Proof.Machine.execLdS64 sd sa off s
  | .ldN8 sd sa off => Sys2Proof.Machine.execLdN8 sd sa off s
  | .ldN16 sd sa off => Sys2Proof.Machine.execLdN16 sd sa off s
  | .ldN32 sd sa off => Sys2Proof.Machine.execLdN32 sd sa off s
  | .stN8 sb sa off => Sys2Proof.Machine.execStN8 sb sa off s
  | .stN16 sb sa off => Sys2Proof.Machine.execStN16 sb sa off s
  | .stN32 sb sa off => Sys2Proof.Machine.execStN32 sb sa off s
  | .stN64 sb sa off => Sys2Proof.Machine.execStN64 sb sa off s
  | .pf sa off => Sys2Proof.Machine.execPf sa off s
  | .ldWf sd sa off => Sys2Proof.Machine.execLdWf sd sa off s
  | .ldWfe sd sa off => Sys2Proof.Machine.execLdWfe sd sa off s
  | .stWef sb sa off => Sys2Proof.Machine.execStWef sb sa off s
  | .stSf sb sa off => Sys2Proof.Machine.execStSf sb sa off s
  | .feSet sa off => Sys2Proof.Machine.execFeSet sa off s
  | .feClr sa off => Sys2Proof.Machine.execFeClr sa off s
  | .feTst sd sa off => Sys2Proof.Machine.execFeTst sd sa off s
  | .amoAdd sd sb sa off uns wide remote => Sys2Proof.Machine.execAmoAdd sd sb sa off uns wide remote s
  | .amoMin sd sb sa off uns wide remote => Sys2Proof.Machine.execAmoMin sd sb sa off uns wide remote s
  | .amoMax sd sb sa off uns wide remote => Sys2Proof.Machine.execAmoMax sd sb sa off uns wide remote s
  | .amoAnd sd sb sa off uns wide remote => Sys2Proof.Machine.execAmoAnd sd sb sa off uns wide remote s
  | .amoOr sd sb sa off uns wide remote => Sys2Proof.Machine.execAmoOr sd sb sa off uns wide remote s
  | .amoXchg sd sb sa off uns wide remote => Sys2Proof.Machine.execAmoXchg sd sb sa off uns wide remote s
  | .amoCas sd sb sc sa off uns wide remote => Sys2Proof.Machine.execAmoCas sd sb sc sa off uns wide remote s
  | .get sd sa off wide => Sys2Proof.Machine.execGet sd sa off wide s
  | .getv vd sa off => Sys2Proof.Machine.execGetv vd sa off s
  | .put sb sa off wide sf => Sys2Proof.Machine.execPut sb sa off wide sf s
  | .putv va sa off sf => Sys2Proof.Machine.execPutv va sa off sf s
  | .putH sb sa sc h => Sys2Proof.Machine.execPutH sb sa sc h s
  | .putK sb sa sc k => Sys2Proof.Machine.execPutK sb sa sc k s
  | .cpStart sa sb sc k => Sys2Proof.Machine.execCpStart sa sb sc k s
  | .fence kind scope => Sys2Proof.Machine.execFence kind scope s
  | .l1Wb sa sb => Sys2Proof.Machine.execL1Wb sa sb s
  | .l1Inv sa sb => Sys2Proof.Machine.execL1Inv sa sb s
  | .l2Inv sa sb => Sys2Proof.Machine.execL2Inv sa sb s
  | .chrecv vd sd ch => Sys2Proof.Machine.execChrecv vd sd ch s
  | .chsend va sa st => Sys2Proof.Machine.execChsend va sa st s
  | .chpeek vd sd ch => Sys2Proof.Machine.execChpeek vd sd ch s
  | .chtag sd ch => Sys2Proof.Machine.execChtag sd ch s
  | .chmark sa st => Sys2Proof.Machine.execChmark sa st s
  | .chskip sd ch => Sys2Proof.Machine.execChskip sd ch s
  | .nbPut va d => Sys2Proof.Machine.execNbPut va d s
  | .nbGet vd d => Sys2Proof.Machine.execNbGet vd d s
  | .nbTst sd d => Sys2Proof.Machine.execNbTst sd d s
  | .trgArm x => Sys2Proof.Machine.execTrgArm x s
  | .trgOff x => Sys2Proof.Machine.execTrgOff x s
  | .flgSet x => Sys2Proof.Machine.execFlgSet x s
  | .flgClr x => Sys2Proof.Machine.execFlgClr x s
  | .cntAdd k x => Sys2Proof.Machine.execCntAdd k x s
  | .cntSet k x => Sys2Proof.Machine.execCntSet k x s
  | .cntWait sd k x eq => Sys2Proof.Machine.execCntWait sd k x eq s
  | .cntRd sd k => Sys2Proof.Machine.execCntRd sd k s
  | .barArr sd b cp => Sys2Proof.Machine.execBarArr sd b cp s
  | .barWait sa b => Sys2Proof.Machine.execBarWait sa b s
  | .vadd vd va vb pm ty rnd sat => Sys2Proof.Machine.execVadd vd va vb pm ty rnd sat s
  | .vsub vd va vb pm ty rnd sat => Sys2Proof.Machine.execVsub vd va vb pm ty rnd sat s
  | .vmul vd va vb pm ty rnd sat => Sys2Proof.Machine.execVmul vd va vb pm ty rnd sat s
  | .vfma vd va vb vc pm ty rnd sat => Sys2Proof.Machine.execVfma vd va vb vc pm ty rnd sat s
  | .vfms vd va vb vc pm ty rnd sat => Sys2Proof.Machine.execVfms vd va vb vc pm ty rnd sat s
  | .vfnma vd va vb vc pm ty rnd sat => Sys2Proof.Machine.execVfnma vd va vb vc pm ty rnd sat s
  | .vmin vd va vb pm ty rnd sat => Sys2Proof.Machine.execVmin vd va vb pm ty rnd sat s
  | .vmax vd va vb pm ty rnd sat => Sys2Proof.Machine.execVmax vd va vb pm ty rnd sat s
  | .vabs vd va pm ty rnd sat => Sys2Proof.Machine.execVabs vd va pm ty rnd sat s
  | .vneg vd va pm ty rnd sat => Sys2Proof.Machine.execVneg vd va pm ty rnd sat s
  | .vaddImm vd va pm ty rnd sat imm => Sys2Proof.Machine.execVaddImm vd va pm ty rnd sat imm s
  | .vsubImm vd va pm ty rnd sat imm => Sys2Proof.Machine.execVsubImm vd va pm ty rnd sat imm s
  | .vmulImm vd va pm ty rnd sat imm => Sys2Proof.Machine.execVmulImm vd va pm ty rnd sat imm s
  | .vminImm vd va pm ty rnd sat imm => Sys2Proof.Machine.execVminImm vd va pm ty rnd sat imm s
  | .vmaxImm vd va pm ty rnd sat imm => Sys2Proof.Machine.execVmaxImm vd va pm ty rnd sat imm s
  | .vrcp vd va pm ty sat => Sys2Proof.Machine.execVrcp vd va pm ty sat s
  | .vrsqrt vd va pm ty sat => Sys2Proof.Machine.execVrsqrt vd va pm ty sat s
  | .vsqrt vd va pm ty rnd => Sys2Proof.Machine.execVsqrt vd va pm ty rnd s
  | .vexp2 vd va pm ty sat => Sys2Proof.Machine.execVexp2 vd va pm ty sat s
  | .vlog2 vd va pm ty sat => Sys2Proof.Machine.execVlog2 vd va pm ty sat s
  | .vtanh vd va pm ty sat => Sys2Proof.Machine.execVtanh vd va pm ty sat s
  | .vsgm vd va pm ty sat => Sys2Proof.Machine.execVsgm vd va pm ty sat s
  | .vand vd va vb pm => Sys2Proof.Machine.execVand vd va vb pm s
  | .vor vd va vb pm => Sys2Proof.Machine.execVor vd va vb pm s
  | .vxor vd va vb pm => Sys2Proof.Machine.execVxor vd va vb pm s
  | .vshl vd va by_ pm ty => Sys2Proof.Machine.execVshl vd va by_ pm ty s
  | .vshr vd va by_ pm ty => Sys2Proof.Machine.execVshr vd va by_ pm ty s
  | .vsra vd va by_ pm ty => Sys2Proof.Machine.execVsra vd va by_ pm ty s
  | .vmulh vd va vb pm ty => Sys2Proof.Machine.execVmulh vd va vb pm ty s
  | .vaddc vd va vb pq cin cout => Sys2Proof.Machine.execVaddc vd va vb pq cin cout s
  | .vsubc vd va vb pq cin cout => Sys2Proof.Machine.execVsubc vd va vb pq cin cout s
  | .vcmp pd va vb pm ty cond half => Sys2Proof.Machine.execVcmp pd va vb pm ty cond half s
  | .vsel vd va vb pm => Sys2Proof.Machine.execVsel vd va vb pm s
  | .pand pd pa pb => Sys2Proof.Machine.execPand pd pa pb s
  | .por pd pa pb => Sys2Proof.Machine.execPor pd pa pb s
  | .pxor pd pa pb => Sys2Proof.Machine.execPxor pd pa pb s
  | .pnot pd pa => Sys2Proof.Machine.execPnot pd pa s
  | .pcnt sd pa => Sys2Proof.Machine.execPcnt sd pa s
  | .pfirst sd pa => Sys2Proof.Machine.execPfirst sd pa s
  | .vmov vd va pm => Sys2Proof.Machine.execVmov vd va pm s
  | .vbcast vd src pm => Sys2Proof.Machine.execVbcast vd src pm s
  | .vbcastImm vd pm ty rnd sat imm => Sys2Proof.Machine.execVbcastImm vd pm ty rnd sat imm s
  | .vins vd sa place => Sys2Proof.Machine.execVins vd sa place s
  | .vext sd va place => Sys2Proof.Machine.execVext sd va place s
  | .vperm vd va vb pm => Sys2Proof.Machine.execVperm vd va vb pm s
  | .vrot vd va n pm => Sys2Proof.Machine.execVrot vd va n pm s
  | .vshf vd va vb n pm => Sys2Proof.Machine.execVshf vd va vb n pm s
  | .vredAdd vd va pm ty => Sys2Proof.Machine.execVredAdd vd va pm ty s
  | .vredMax vd va pm ty => Sys2Proof.Machine.execVredMax vd va pm ty s
  | .vredMin vd va pm ty => Sys2Proof.Machine.execVredMin vd va pm ty s
  | .vscanAdd vd va pm ty cin cout => Sys2Proof.Machine.execVscanAdd vd va pm ty cin cout s
  | .vscanMax vd va pm ty cin cout => Sys2Proof.Machine.execVscanMax vd va pm ty cin cout s
  | .vscanMul vd va pm ty cin cout => Sys2Proof.Machine.execVscanMul vd va pm ty cin cout s
  | .vlrec vd va vb vc hi cin cout => Sys2Proof.Machine.execVlrec vd va vb vc hi cin cout s
  | .vcvt vd va dst src part rnd sat => Sys2Proof.Machine.execVcvt vd va dst src part rnd sat s
  | .vqnt vd va vc dst src part rnd => Sys2Proof.Machine.execVqnt vd va vc dst src part rnd s
  | .vdq vd va dst src part rnd sat => Sys2Proof.Machine.execVdq vd va dst src part rnd sat s
  | .vlut vd va dst src part => Sys2Proof.Machine.execVlut vd va dst src part s
  | .ctabWr va => Sys2Proof.Machine.execCtabWr va s
  | .vld vd sa off pm ty => Sys2Proof.Machine.execVld vd sa off pm ty s
  | .vst va sa off pm => Sys2Proof.Machine.execVst va sa off pm s
  | .vgat vd vb sa off pm ty => Sys2Proof.Machine.execVgat vd vb sa off pm ty s
  | .vsct va vb sa off pm => Sys2Proof.Machine.execVsct va vb sa off pm s
  | .vtagRd sd va side => Sys2Proof.Machine.execVtagRd sd va side s
  | .vtagSet vd sa fmt sp keep => Sys2Proof.Machine.execVtagSet vd sa fmt sp keep s
  | .mxLdw wn sa off ty sc => Sys2Proof.Machine.execMxLdw wn sa off ty sc s
  | .mxLdwc wn ch ty sc => Sys2Proof.Machine.execMxLdwc wn ch ty sc s
  | .mxScw wn va part => Sys2Proof.Machine.execMxScw wn va part s
  | .mxCfg sd sa => Sys2Proof.Machine.execMxCfg sd sa s
  | .mxClr row n => Sys2Proof.Machine.execMxClr row n s
  | .mxMac wn va row ty sc => Sys2Proof.Machine.execMxMac wn va row ty sc s
  | .mxMacp wn va row ty sc cin cout => Sys2Proof.Machine.execMxMacp wn va row ty sc cin cout s
  | .mxRun ty sc n k => Sys2Proof.Machine.execMxRun ty sc n k s
  | .mxRd vd row clr => Sys2Proof.Machine.execMxRd vd row clr s
  | .mxSync => Sys2Proof.Machine.execMxSync s
  | .collKick sa sb sc vec => Sys2Proof.Machine.execCollKick sa sb sc vec s
  | .collWait sd sa m => Sys2Proof.Machine.execCollWait sd sa m s
  | .collRng sd sa => Sys2Proof.Machine.execCollRng sd sa s
  | .sealArr sd => Sys2Proof.Machine.execSealArr sd s
  | .sealWait sd => Sys2Proof.Machine.execSealWait sd s
  | .sealReq => Sys2Proof.Machine.execSealReq s
  | .egrNow sd st => Sys2Proof.Machine.execEgrNow sd st s
  | .csrRd sd n => Sys2Proof.Machine.execCsrRd sd n s
  | .csrWr sd sa n => Sys2Proof.Machine.execCsrWr sd sa n s
  | .csrSet sd sa n => Sys2Proof.Machine.execCsrSet sd sa n s
  | .csrClr sd sa n => Sys2Proof.Machine.execCsrClr sd sa n s
  | .trap imm => Sys2Proof.Machine.execTrap imm s
  | .eret => Sys2Proof.Machine.execEret s
  | .idle => Sys2Proof.Machine.execIdle s
  | .brk => Sys2Proof.Machine.execBrk s
  | .frz sa => Sys2Proof.Machine.execFrz sa s
  | .dkSend ra rb rc sz stream ctag g off => Sys2Proof.Machine.execDkSend ra rb rc sz stream ctag g off s
  | .dkRecv ra rc sz stream ctag off => Sys2Proof.Machine.execDkRecv ra rc sz stream ctag off s
  | .dkRred ra rc sz stream ctag rop bf16 off => Sys2Proof.Machine.execDkRred ra rc sz stream ctag rop bf16 off s
  | .dkCopy ra rb sz rop widen acc off => Sys2Proof.Machine.execDkCopy ra rb sz rop widen acc off s
  | .dkPut ra rb sz k dis ent bf16 off => Sys2Proof.Machine.execDkPut ra rb sz k dis ent bf16 off s
  | .dkWait ra g => Sys2Proof.Machine.execDkWait ra g s
  | .dkSig rb g => Sys2Proof.Machine.execDkSig rb g s
  | .dkStep rc stream => Sys2Proof.Machine.execDkStep rc stream s
  | .dkLoop ra last => Sys2Proof.Machine.execDkLoop ra last s
  | .dkJmp target => Sys2Proof.Machine.execDkJmp target s
  | .dkBnz ra target => Sys2Proof.Machine.execDkBnz ra target s
  | .dkSet ra hi imm => Sys2Proof.Machine.execDkSet ra hi imm s
  | .dkAdd ra rb rc fn imm => Sys2Proof.Machine.execDkAdd ra rb rc fn imm s
  | .dkArm rb rc ent => Sys2Proof.Machine.execDkArm rb rc ent s
  | .dkDisarm rb ent => Sys2Proof.Machine.execDkDisarm rb ent s
  | .dkSealpt => Sys2Proof.Machine.execDkSealpt s
  | .dkDone ra rb m => Sys2Proof.Machine.execDkDone ra rb m s
  | .dealerInstanceStart d => Sys2Proof.Machine.execDealerInstanceStart d s
  | .kickArrive m => Sys2Proof.Machine.execKickArrive m s
  | .chunkWordArrive m => Sys2Proof.Machine.execChunkWordArrive m s
  | .dealerDataWordComplete d k => Sys2Proof.Machine.execDealerDataWordComplete d k s
  | .dkPutArrive m => Sys2Proof.Machine.execDkPutArrive m s
  | .rangeArmArrive m => Sys2Proof.Machine.execRangeArmArrive m s
  | .signalArrive m => Sys2Proof.Machine.execSignalArrive m s
  | .mailboxWriteArrive m => Sys2Proof.Machine.execMailboxWriteArrive m s
  | .triggerFire c => Sys2Proof.Machine.execTriggerFire c s
  | .pseudoTriggerFire c => Sys2Proof.Machine.execPseudoTriggerFire c s
  | .contextWake c x => Sys2Proof.Machine.execContextWake c x s
  | .sectorFillArrive c sector => Sys2Proof.Machine.execSectorFillArrive c sector s
  | .remoteReadArrive m => Sys2Proof.Machine.execRemoteReadArrive m s
  | .remoteWriteArrive m => Sys2Proof.Machine.execRemoteWriteArrive m s
  | .remoteAtomicArrive m => Sys2Proof.Machine.execRemoteAtomicArrive m s
  | .payloadPieceArrive m => Sys2Proof.Machine.execPayloadPieceArrive m s
  | .copyPiece c id => Sys2Proof.Machine.execCopyPiece c id s
  | .remoteResponseArrive m => Sys2Proof.Machine.execRemoteResponseArrive m s
  | .routerWordArrive m => Sys2Proof.Machine.execRouterWordArrive m s
  | .ingressWordArrive m => Sys2Proof.Machine.execIngressWordArrive m s
  | .creditReturn m => Sys2Proof.Machine.execCreditReturn m s
  | .nbWordLand m => Sys2Proof.Machine.execNbWordLand m s
  | .mxOpPerform c => Sys2Proof.Machine.execMxOpPerform c s
  | .mxLdwcWordTake c => Sys2Proof.Machine.execMxLdwcWordTake c s
  | .mxRunRow c => Sys2Proof.Machine.execMxRunRow c s
  | .barrierArrivalToken m => Sys2Proof.Machine.execBarrierArrivalToken m s
  | .barrierChildReport m => Sys2Proof.Machine.execBarrierChildReport m s
  | .barrierReleaseArrive m => Sys2Proof.Machine.execBarrierReleaseArrive m s
  | .wideBarrierReport m => Sys2Proof.Machine.execWideBarrierReport m s
  | .retentionDeadline c granule => Sys2Proof.Machine.execRetentionDeadline c granule s
  | .sealRequestArrive m => Sys2Proof.Machine.execSealRequestArrive m s
  | .sealHold d => Sys2Proof.Machine.execSealHold d s
  | .sealCheck d => Sys2Proof.Machine.execSealCheck d s
  | .sealCkpt d => Sys2Proof.Machine.execSealCkpt d s
  | .sealPoint d => Sys2Proof.Machine.execSealPoint d s
  | .sealFlip d => Sys2Proof.Machine.execSealFlip d s
  | .sealChange d => Sys2Proof.Machine.execSealChange d s
  | .sealRelease d => Sys2Proof.Machine.execSealRelease d s
  | .machineCheck n src detail => Sys2Proof.Machine.execMachineCheck n src detail s
  | .rollback d => Sys2Proof.Machine.execRollback d s
  | .rollbackResume d => Sys2Proof.Machine.execRollbackResume d s
  | .trapDeliver c => Sys2Proof.Machine.execTrapDeliver c s
  | .debugFreeze d reason => Sys2Proof.Machine.execDebugFreeze d reason s
  | .thermalSample w cluster temp => Sys2Proof.Machine.execThermalSample w cluster temp s
  | .coolantFlowLow w => Sys2Proof.Machine.execCoolantFlowLow w s
  | .inrushTokenGrant w => Sys2Proof.Machine.execInrushTokenGrant w s
  | .powerGood w cluster => Sys2Proof.Machine.execPowerGood w cluster s
  | .inrushTimeout w cluster => Sys2Proof.Machine.execInrushTimeout w cluster s
  | .powerOnReset w => Sys2Proof.Machine.execPowerOnReset w s
  | .servicePhaseEnd w => Sys2Proof.Machine.execServicePhaseEnd w s
  | .mappingTimeout w => Sys2Proof.Machine.execMappingTimeout w s
  | .codeDeliveryTimeout w slot => Sys2Proof.Machine.execCodeDeliveryTimeout w slot s
  | .shelfZeroingDone w slot => Sys2Proof.Machine.execShelfZeroingDone w slot s
  | .hsemAcquireRead w port n => Sys2Proof.Machine.execHsemAcquireRead w port n s
  | .hsemRenew w port n => Sys2Proof.Machine.execHsemRenew w port n s
  | .hsemRelease w port n => Sys2Proof.Machine.execHsemRelease w port n s
  | .leaseExpiry w n => Sys2Proof.Machine.execLeaseExpiry w n s
  | .epLimitWrite w port slot ep v => Sys2Proof.Machine.execEpLimitWrite w port slot ep v s
  | .registerWrite w port off v => Sys2Proof.Machine.execRegisterWrite w port off v s
  | .claim w port slot => Sys2Proof.Machine.execClaim w port slot s
  | .load w port slot => Sys2Proof.Machine.execLoad w port slot s
  | .launch w port slot => Sys2Proof.Machine.execLaunch w port slot s
  | .unload w port slot => Sys2Proof.Machine.execUnload w port slot s
  | .unclaim w port slot => Sys2Proof.Machine.execUnclaim w port slot s
  | .rebind w port slot => Sys2Proof.Machine.execRebind w port slot s
  | .attest w port slot => Sys2Proof.Machine.execAttest w port slot s
  | .mcread w port slot => Sys2Proof.Machine.execMcread w port slot s
  | .readout w port slot => Sys2Proof.Machine.execReadout w port slot s
  | .therm w port slot => Sys2Proof.Machine.execTherm w port slot s
  | .retire w port slot => Sys2Proof.Machine.execRetire w port slot s
  | .colmove w port slot => Sys2Proof.Machine.execColmove w port slot s
  | .wake w port slot => Sys2Proof.Machine.execWake w port slot s
  | .resume w port slot => Sys2Proof.Machine.execResume w port slot s
  | .remap w port slot => Sys2Proof.Machine.execRemap w port slot s
  | .pod w port slot => Sys2Proof.Machine.execPod w port slot s
  | .ingressRead w slot ep => Sys2Proof.Machine.execIngressRead w slot ep s
  | .egressWordAccept m => Sys2Proof.Machine.execEgressWordAccept m s
  | .vbInjWrite w v => Sys2Proof.Machine.execVbInjWrite w v s
  | .unknownOp w port slot op => Sys2Proof.Machine.execUnknownOp w port slot op s
  | .illegalHead v => Sys2Proof.Machine.execIllegalHead v s
  | .powerLoss w => Sys2Proof.Machine.execPowerLoss w s
  | .windowBringUp w px py width height => Sys2Proof.Machine.execWindowBringUp w px py width height s

end Sys2Proof.Machine
end

