-- ==== Sys2Proof/Machine/Schedule.lean ====
section
/-! DEFINITION. How one step comes about: fetching and running the next instruction of a context or word of a Dealer,
the events that the agenda names, and, where it names none, the first move that changes anything. -/

namespace Sys2Proof.Machine

/-! ### Running the next instruction (R99–R108, R135, R297) -/

/-- R99, R101: the executing instruction is the one at the PC of a context. -/
def atPc (s : State) (n : Node) (x : Fin 8) : State :=
  let pc := (s.ctx n x).pc
  { s with cur := { s.cur with core := n, ctx := x, pc := pc, succ := succOf s n pc
                               value := BitVec.ofNat 64 (fetchValue s n pc) } }

/-- R103: the instruction cache fills a code line from the L1, whose sector becomes present. It holds 1,024 lines.
DEDUCED (log 19). -/
def Core.fillLine (c : Core) (line : Nat) : Core :=
  if laRange line ≠ some .shelf ∨ c.mem.icache.contains line then c
  else
    let c := c.touch line false
    { c with mem := { c.mem with icache := (line :: c.mem.icache).take 1024 } }

/-- R103, R135: a context that is READY, in a region that is not frozen, has its line in the instruction cache. -/
def fillCache (s : State) : State :=
  if s.cc.st = .ready ∧ !isFrozen s s.cur.core then
    s.modCn fun c => c.fillLine (s.cur.pc.toNat / 64 * 64)
  else s

/-- R5: a node that executes instructions. -/
def hasCore (n : Node) : Bool := isCore n || isSite n

/-- R103, R108: what is fetched runs: a fetch that faults is a precise trap, a value that decodes to nothing an
illegal head. -/
def runFetched (s : State) : Out :=
  match fetchFault s s.cur.core s.cur.pc with
  | some t => .next (guarded s .nop fun s => precise s t)
  | none =>
    match decodeValue (fetchValue s s.cur.core s.cur.pc) with
    | .ok i => exec i s
    | .error _ => execIllegalHead s.cur.value s

/-- R135: a context that is READY runs its next instruction, if that can start. -/
def runCtx (n : Node) (x : Fin 8) (s : State) : Out := runFetched (fillCache (atPc s n x))

/-- R135: the core may issue in this cycle: its own cycle begins now, it has not issued in it, and nothing that the cycle
brings has begun to arrive (R123). -/
def issueOpen (s : State) (n : Node) : Bool :=
  !s.arriving && cycleStart s n == s.now && (s.core n).issueFrom ≤ cycleOf s n

/-- R135: what a context issues in this cycle, if it is issuable. -/
def issueOf (s : State) (n : Node) (x : Fin 8) : Option State :=
  match runCtx n x s with
  | .next t => if (s.core n).issueFrom < (t.core n).issueFrom then some t else none
  | .fault _ | .refused _ => none

/-- R103: the line at the PC of a context is in the instruction cache. -/
def lineReady (s : State) (n : Node) (x : Fin 8) : Bool :=
  (s.core n).mem.icache.contains ((s.ctx n x).pc.toNat / 64 * 64)

/-- R135: the context is issuable in this cycle. -/
def issuable (s : State) (n : Node) (x : Fin 8) : Bool :=
  (s.ctx n x).st == .ready && lineReady s n x && (issueOf s n x).isSome

/-- R135: the order in which a core looks for an issuable context: context 7, then the others from the one after the
last that issued. -/
def searchOrder (c : Core) : List (Fin 8) :=
  (7 :: (List.range 7).map fun i => (c.lastIssued + 1 + i) % 7).map (Fin.ofNat 8)

/-- R135: a context that yielded is passed over while one of those that were issuable then, and has not issued since,
still is. -/
def passedOver (s : State) (n : Node) (x : Fin 8) : Bool :=
  (s.core n).yielded.any fun y => y.1 == x.val && y.2.any fun j => issuable s n (Fin.ofNat 8 j)

/-- R135: the contexts that the core may take before the one named. -/
def ahead (s : State) (n : Node) (x : Fin 8) : List (Fin 8) :=
  let order := (searchOrder (s.core n)).filter fun y => (s.ctx n y).st == .ready
  if passedOver s n x then order.filter (· ≠ x) else order.takeWhile (· ≠ x)

/-- R135: the context that the core issues from where one is named: the first issuable one ahead of it, or itself. -/
def picked (s : State) (n : Node) (x : Fin 8) : Fin 8 :=
  ((ahead s n x).find? fun y => issuable s n y && !passedOver s n y).getD x

/-- R135: the other contexts of the executing core that could issue in this cycle. -/
def otherIssuable (s : State) : List Nat :=
  ((List.range 8).filter fun j => j ≠ s.cur.ctx.val && issuable s s.cur.core (Fin.ofNat 8 j))

/-- R135, R157: a `yield` finds the contexts that it waits for. -/
def withOthers (s : State) : State :=
  match decodeValue (fetchValue s s.cur.core s.cur.pc) with
  | .ok .yield => { s with cur := { s.cur with others := otherIssuable s } }
  | _ => s

/-- R140, R165, R171, R217, R240: the results of an instruction that issued on `f` and has completed in `t` can be read
after its latency, and a form that holds the load and store port does so for 8 cycles. DESIGN CHOICE (log 10). -/
def withLatency (f t : State) (i : Instr) : State :=
  let n := f.cur.core
  if (t.core n).issueFrom ≤ (f.core n).issueFrom ∨ (t.ctx n f.cur.ctx).st ≠ .ready then t
  else
    let div := (t.core n).divFree - f.cycle
    let t := t.modCtx n f.cur.ctx fun k => k.lag f.cycle (latency (loadsAt f i) div i)
    if holdsPort i then t.modCore n fun c => { c with portFree := f.cycle + 8 } else t

/-- A function of the next state of an outcome. -/
def mapNext (f : State → State) : Out → Out
  | .next s => .next (f s)
  | .fault x => .fault x
  | .refused x => .refused x

/-- The instruction that a state fetches. -/
def fetched (s : State) : Option Instr :=
  match decodeValue (fetchValue s s.cur.core s.cur.pc) with
  | .ok i => some i
  | .error _ => none

/-- R135, R193: a core issues from a context; `late` where the accesses of the instruction through the local alias port
perform later. -/
def runPicked (n : Node) (x : Fin 8) (late : Bool) (s : State) : Out :=
  let f := fillCache (atPc s n x)
  let f := withOthers { f with cur := { f.cur with late := late, others := [] } }
  mapNext (fun t => ((fetched f).map (withLatency f t)).getD t) (runFetched f)

/-- R290: a node with a Dealer. -/
def hasDealer (n : Node) : Bool := isHub n || isBridge n

/-- R297, R298: the word at `DK_PC` runs; a word that decodes to nothing, and a `DK_PC` past the Deck, are faults. -/
def runWord (s : State) : Out :=
  let d := s.dealer s.cur.dealer
  match (d.deck.map (·.words)).getD [] |>.drop d.pc with
  | [] => .next (dealing s fun s _ => dealFault s 7)
  | w :: _ =>
    match decodeDeck w.toNat with
    | .ok i => exec i s
    | .error _ => .next (dealing s fun s _ => dealFault s 1)

/-- R299: a Dealer issues its next word, if it can. -/
def runDeal (n : Node) (s : State) : Out := runWord { s with cur := { s.cur with dealer := n } }

/-- R299: the Dealer may issue in this cycle, which begins now. -/
def dealOpen (s : State) (n : Node) : Bool :=
  !s.arriving && (isBridge n || cycleStart s n == s.now) && (s.dealer n).issueFrom ≤ dealerCycle s n

/-! ### Events -/

/-- The rows of the table that are events: no context and no Dealer issues them. -/
def isEvent : Instr → Bool
  | .dealerInstanceStart .. | .kickArrive .. | .chunkWordArrive .. | .dealerDataWordComplete .. | .dkPutArrive ..
  | .rangeArmArrive .. | .signalArrive .. | .mailboxWriteArrive .. | .triggerFire .. | .pseudoTriggerFire ..
  | .contextWake .. | .sectorFillArrive .. | .remoteReadArrive .. | .remoteWriteArrive .. | .remoteAtomicArrive ..
  | .payloadPieceArrive .. | .copyPiece .. | .remoteResponseArrive .. | .routerWordArrive .. | .ingressWordArrive ..
  | .creditReturn .. | .nbWordLand .. | .mxOpPerform .. | .mxLdwcWordTake .. | .mxRunRow ..
  | .barrierArrivalToken .. | .barrierChildReport .. | .barrierReleaseArrive .. | .wideBarrierReport ..
  | .retentionDeadline .. | .sealRequestArrive .. | .sealHold .. | .sealCheck .. | .sealCkpt .. | .sealPoint ..
  | .sealFlip .. | .sealChange .. | .sealRelease .. | .machineCheck .. | .rollback .. | .rollbackResume ..
  | .trapDeliver .. | .debugFreeze .. | .thermalSample .. | .coolantFlowLow .. | .inrushTokenGrant ..
  | .powerGood .. | .inrushTimeout .. | .powerOnReset .. | .servicePhaseEnd .. | .mappingTimeout ..
  | .codeDeliveryTimeout .. | .shelfZeroingDone .. | .hsemAcquireRead .. | .hsemRenew .. | .hsemRelease ..
  | .leaseExpiry .. | .epLimitWrite .. | .registerWrite .. | .claim .. | .load .. | .launch .. | .unload ..
  | .unclaim .. | .rebind .. | .attest .. | .mcread .. | .readout .. | .therm .. | .retire .. | .colmove ..
  | .wake .. | .resume .. | .remap .. | .pod .. | .ingressRead .. | .egressWordAccept .. | .vbInjWrite ..
  | .unknownOp .. | .powerLoss .. | .windowBringUp .. => true
  | _ => false

/-- The events that come at the start of a cycle, and there alone: firings, the ends of waits, the words that an `mx.ldwc`
takes, the delivery of traps. -/
def atCycleStart : Instr → Bool
  | .triggerFire .. | .pseudoTriggerFire .. | .contextWake .. | .trapDeliver .. | .mxLdwcWordTake .. => true
  | _ => false

/-- What the agenda names happens: an instruction of the table that is no event is not run without a fetch. -/
def runEvent (i : Instr) (s : State) : Out := if isEvent i && !atCycleStart i then exec i s else .next s

/-! ### What follows every move -/

/-- What every move is followed by: a read beat that it took may fail (R351), and free values go on to the next draw. -/
def endMove (before : State) (issuer : Option (Node × Fin 8)) (after : State) : State :=
  drawn (settleBeats before after issuer)

/-- What a move that the agenda names is followed by; what waits in a module is tried too. -/
def finishMove (before : State) (issuer : Option (Node × Fin 8)) (after : State) : State :=
  settle (endMove before issuer after)

/-- The state that a move leaves; one that stops changes nothing. -/
def nextOr (s : State) : Out → State
  | .next t => t
  | .fault _ | .refused _ => s

/-! ### Accesses that perform after their issue (R91, R193) -/

/-- R342, R351: an access of a core that has issued performs, unless a read beat of it fails. DEDUCED (log 72). -/
def performSettled (s : State) (n : Node) (id : Nat) : State :=
  settleBeats s (performLater s n id) (((s.core n).later.find? (·.id == id)).map fun l => (n, l.ctx))

/-- R91, R193: every access of a core that has issued performs, in the order of issue. DEDUCED (log 12). -/
def drainLater (s : State) (n : Node) : State :=
  ((s.core n).later.map (·.id)).foldl (fun t id =>
    match (t.core n).later.find? (·.id == id) with
    | some l => settleBeats t (performNow t n l) (some (n, l.ctx))
    | none => t) s

/-! ### The start of a cycle (R123, R128, R132, R136, R209, R336, R366) -/

/-- R132, R133: the waits of a core whose condition holds at the start of its cycle end. -/
def endWaits (s : State) (n : Node) : State :=
  (waiters (s.core n)).foldl (fun s x => settleBeats s (nextOr s (execContextWake n x s)) (some (n, x))) s

/-- R252: the matrix unit takes what words its channel holds for the `mx.ldwc` at the head of its queue. -/
def takeWords (s : State) (n : Node) : State :=
  match (s.core n).mx.queue with
  | .ldwc .. :: _ => (List.range 34).foldl (fun s _ => nextOr s (execMxLdwcWordTake n s)) s
  | _ => s

/-- R296, R304, R306: the cycle that ends has changed its core's range table, and the queries of that cycle see it. -/
def endRanges (s : State) (n : Node) : State :=
  let s := if (s.core n).comm.rangeNext.isEmpty then s else s.modCore n Core.takeRange
  if (s.core n).comm.rangeAsk.isEmpty then s else answerRanges s n

/-- R162: waits that have not ended are abandoned where a report has come. -/
def abandonWaits (s : State) (n : Node) : State :=
  (List.range 8).foldl (fun s x => abandonWait s n (Fin.ofNat 8 x)) s

/-- The start of a cycle of a core: the range entries of the cycle before have changed, and then, on the state as it
stands, it fires (R123), delivers a trap (R336), and waits end (R132). -/
def startCycle (s : State) (n : Node) : State :=
  let s := endRanges s n
  let s := nextOr s (if (fires s n).any (·.isSome) then execTriggerFire n s else execPseudoTriggerFire n s)
  abandonWaits (takeWords (endWaits (nextOr s (execTrapDeliver n s)) n) n) n

/-- R64, R209, R366: what runs out in a module does so at once, and tokens that are free are taken. -/
def runOut (s : State) (w : Nat) : State :=
  let m := s.module w
  let v := Fin.ofNat 16 w
  let s := (List.range 32).foldl (fun s i => if leaseOver s w i then expireLease s w i else s) s
  let s := match m.phase with
    | some p => nextOr s (if p.delivery then execCodeDeliveryTimeout v (Fin.ofNat 32 p.slot) s else execMappingTimeout v s)
    | none => s
  let s := (s.hubs.filter fun h => nodeWafer h.1 == w && h.2.power.ramping?).foldl (fun s h =>
    nextOr s (execInrushTimeout v (clusterOf h.1) s)) s
  (List.range 16).foldl (fun s _ => nextOr s (execInrushTokenGrant v s)) s

/-- R91: a read that has issued and not performed reaches a granule whose deadline comes with the next cycle. -/
def meetsDeadline (s : State) (n : Node) : Bool :=
  (s.core n).later.any fun l => l.isLoad && anyExpired { s with now := s.now + 1 } n l.la l.len

/-- R91: a read that issued before the deadline of a granule performs before it. DEDUCED (log 12). -/
def beatDeadlines (s : State) : State :=
  (s.cores.map (·.1)).foldl (fun s n => if meetsDeadline s n then drainLater s n else s) s

/-- R1, R123: the reference clock goes on to the next cycle, and the cores whose own cycle ends with it start theirs.
DESIGN CHOICE (log 10). -/
def nextCycle (s : State) : State :=
  let s := beatDeadlines s
  let t := { s with now := s.now + 1, arriving := false }
  let t := (t.modules.map (·.1)).foldl runOut t
  drawn (settle ((s.cores.map (·.1)).foldl (fun t n => if cycleOf t n = cycleOf s n then t else startCycle t n) t))

/-! ### Moves without an agenda -/

/-- R198: what the arrival of a message is. -/
def arrivalOf (m : Msg) : State → Out :=
  match m.kind with
  | .read .. => execRemoteReadArrive m.id
  | .write .. => execRemoteWriteArrive m.id
  | .atomic .. => execRemoteAtomicArrive m.id
  | .piece .. => execPayloadPieceArrive m.id
  | .response .. => execRemoteResponseArrive m.id
  | .word .. => execRouterWordArrive m.id
  | .ingress .. => execIngressWordArrive m.id
  | .egress .. => execEgressWordAccept m.id
  | .credit .. | .epCredit .. => execCreditReturn m.id
  | .nbWord .. => execNbWordLand m.id
  | .token .. => execBarrierArrivalToken m.id
  | .report .. => execBarrierChildReport m.id
  | .relHub .. | .relCore .. => execBarrierReleaseArrive m.id
  | .wide .. => execWideBarrierReport m.id
  | .kick .. => execKickArrive m.id
  | .chunk .. => execChunkWordArrive m.id
  | .dkPiece .. => execDkPutArrive m.id
  | .arm .. => execRangeArmArrive m.id
  | .signal .. => execSignalArrive m.id
  | .mailbox .. => execMailboxWriteArrive m.id
  | .sealReq .. => execSealRequestArrive m.id

/-- R176, R198: the next move of a message: its bytes are read, or it arrives. -/
def messageMove (m : Msg) : State → Out :=
  if m.unread.isSome then fun s => .next (readPiece s m.id) else arrivalOf m

/-- The moves of a domain. -/
def domainMoves (s : State) : List (State → Out) :=
  s.domains.flatMap fun d =>
    [execRollback d.1, execRollbackResume d.1, execSealHold d.1, execSealCheck d.1, execSealCkpt d.1,
     execSealPoint d.1, execSealFlip d.1, execSealChange d.1, execSealRelease d.1]

/-- The moves of the units of a core, apart from issue. -/
def unitMoves (n : Node) (c : Core) : List (State → Out) :=
  c.later.map (fun l s => .next (performSettled s n l.id))
    ++ c.mem.fills.map (fun f => execSectorFillArrive n f)
    ++ c.comm.copies.map (fun p => execCopyPiece n p.id)
    ++ (if c.mx.queue.isEmpty then [] else [execMxOpPerform n, execMxRunRow n])
    ++ c.mem.written.map fun g => execRetentionDeadline n g.1

/-- The moves of a Dealer. -/
def dealerMoves (s : State) (n : Node) : List (State → Out) :=
  [execDealerInstanceStart n] ++ (s.dealer n).engine.map (fun o => execDealerDataWordComplete n o.id)

/-- The nodes whose Dealer holds a Deck. -/
def deckNodes (s : State) : List Node :=
  (s.hubs.filter fun h => h.2.dealer.deck.isSome).map (·.1)
    ++ (s.bridges.filter fun b => b.2.dealer.deck.isSome).map (·.1)

/-- The moves of a module's bridge controller and of its host ports' bridges. -/
def moduleMoves (s : State) (p : Nat × Module) : List (State → Out) :=
  let w := Fin.ofNat 16 p.1
  [execServicePhaseEnd w]
    ++ (List.range 32).flatMap (fun i =>
      let t := (s.module p.1).slot i
      (List.range t.eps.length).map (fun e => execIngressRead w (Fin.ofNat 32 i) (Fin.ofNat 64 e))
        ++ (if t.zeroing.isEmpty then [] else [execShelfZeroingDone w (Fin.ofNat 32 i)]))
    ++ [execInrushTokenGrant w]
    ++ ((s.hubs.filter fun h => nodeWafer h.1 == p.1 && h.2.power.ramping?).map fun h =>
      execPowerGood w (clusterOf h.1))

/-- The moves that need no outside event and that nothing issues, in the order in which they happen.
DESIGN CHOICE (log 7). -/
def moves (s : State) : List (State → Out) :=
  domainMoves s ++ s.net.map messageMove ++ s.cores.flatMap (fun p => unitMoves p.1 p.2)
    ++ (deckNodes s).flatMap (dealerMoves s) ++ s.modules.flatMap (moduleMoves s)

/-- Each move of a list happens, if it can. -/
def eachMove (ms : List (State → Out)) (s : State) : State :=
  ms.foldl (fun s m => endMove s none (nextOr s (m s))) s

/-- R135: a core issues in this cycle from the first issuable context. -/
def coreIssues (s : State) (n : Node) : State :=
  if !issueOpen s n then s
  else
    let order := (searchOrder (s.core n)).filter fun x => (s.ctx n x).st == .ready && !passedOver s n x
    match order.find? fun x => (issueOf s n x).isSome with
    | some x => endMove s (some (n, x)) (nextOr s (runPicked n x false s))
    | none => s

/-- R299: a Dealer issues in this cycle. -/
def dealerIssues (s : State) (n : Node) : State :=
  if dealOpen s n ∧ (s.dealer n).st ≠ .idle then endMove s none (nextOr s (runDeal n s)) else s

/-- R135, R299: every core and every Dealer that can issue in this cycle does. -/
def allIssue (s : State) : State :=
  let s := (s.cores.map (·.1)).foldl coreIssues s
  (deckNodes s).foldl dealerIssues s

/-- R135, R299: those that can still issue in this cycle do. -/
def lastIssues (s : State) : State := if s.arriving then s else allIssue s

/-- A cycle of the machine where the agenda names nothing for it: cores and Dealers issue, each other thing that can
happen does, and the clock goes on. DESIGN CHOICE (log 7). -/
def autoMove (s : State) : State :=
  let t := lastIssues s
  nextCycle (eachMove (moves t) t)

/-! ### What the agenda names -/

/-- R123, R135: an event, or the effect of an earlier issue, comes after what the cores and Dealers issue in its cycle. -/
def arrivals (s : State) : State := { lastIssues s with arriving := true }

/-- The Act is put back for the cycle after this one; those that can still issue in this one do. -/
def later (a : Act) (s : State) : Out :=
  let t := lastIssues s
  .next (nextCycle { t with agenda := (0, a) :: t.agenda })

/-- R135: an issue of a core that the agenda names: from the context named where none that the core could take is ahead. -/
def actIssue (n : Node) (x : Fin 8) (lateAccess : Bool) (a : Act) (s : State) : Out :=
  if !hasCore n then .fault .noSuchAgent
  else if issueOpen s n then
    let y := picked s n x
    mapNext (finishMove s (some (n, y))) (runPicked n y lateAccess s)
  else later a s

/-- An event, or the effect of an earlier issue, happens. -/
def happens (s : State) (m : State → Out) : Out := mapNext (finishMove (arrivals s) none) (m (arrivals s))

/-- What the agenda names next. A core or Dealer that has issued in this cycle does so in its next. DESIGN CHOICE (log 6). -/
def runAct (a : Act) (s : State) : Out :=
  match a with
  | .issue n x => actIssue n x false a s
  | .issueLate n x => actIssue n x true a s
  | .deal n =>
    if !hasDealer n then .fault .noSuchAgent
    else if dealOpen s n then mapNext (finishMove s none) (runDeal n s)
    else later a s
  | .perform n id => happens s fun t => .next (performSettled t n id)
  | .readPiece m => happens s fun t => .next (readPiece t m)
  | .readRow n la => happens s fun t => .next (readRow t n la)
  | .event i => happens s (runEvent i)
  | .hostWrite w p a bs => .next (finishMove s none (hostPoke s w (p + 1) a bs))

end Sys2Proof.Machine
end

