-- ==== Sys2Proof/Machine/Step.lean ====
section
/-! DEFINITION. The step of the machine, and placing an instruction where the next step fetches it. -/

namespace Sys2Proof.Machine

/-- One step: what the agenda names for now, or the machine's own next move. DESIGN CHOICE (log 6). -/
def step (s : State) : Host.Outcome State Fault Refusal :=
  match s.agenda with
  | [] => .next (autoMove s)
  | (0, a) :: rest => runAct a { s with agenda := rest }
  | (d + 1, a) :: rest => .next (autoMove { s with agenda := (d, a) :: rest })

/-- The code line that holds one instruction value of up to 64 bits: the line's header, its head and, from the far
end, its tail bytes. DESIGN CHOICE (log 5). -/
def oneLine (w : Nat) : List Byte :=
  let k := tailBytes (w % 2 ^ 16)
  leBytes 2 1 ++ leBytes 2 w ++ leBytes (60 - k) 0 ++ leBytes k (w / 2 ^ 16)

/-- What the slot of a placed instruction says of its image: one cluster, domain 0, no log, no barrier.
DESIGN CHOICE (log 5). -/
def placedImage : ImageInfo :=
  { regW := 1, regH := 1, domain := 0, wafers := 1, barUsed := 0, logSize := 0, argSize := 0, minBanks := 0
    readoutMask := 0, trgRot := false, logFull := false }

/-- `s` with one instruction at the first head of core 0's code, context 0 about to issue it. DESIGN CHOICE (log 5). -/
def State.withFetchWord (s : State) (nbits w : Nat) : State :=
  let s := s.modSlot 0 0 fun t => { t with st := .launched, w := 1, h := 1, owner := 1, image := some placedImage }
  let s := s.modDomain 0 id
  let s := s.modHub 0xF000 fun h => { h with power := .good }
  let s := s.modCore 0 fun c => { c.pokeRaw 0x40000000 (oneLine (w % 2 ^ nbits)) with issueFrom := 0 }
  let s := s.modCtx 0 0 fun k => { k with st := .ready, pc := 0x40000002, blocked := none, notBefore := 0 }
  { s with agenda := [(0, .issue 0 0)], arriving := false }

end Sys2Proof.Machine
end

