-- ==== Sys2Proof/Safety.lean ====
section
/-! DEFINITION. What counts as a safe run: a run of next states; and the canonical form of every memory. -/

namespace Sys2Proof.Machine

/-- A step from `s` gives the next state `t`. -/
def StepsTo (s t : State) : Prop := step s = .next t

/-- A run of `n` steps from `s` to `t`, none of which stops. -/
inductive Runs : Nat → State → State → Prop where
  | refl (s : State) : Runs 0 s s
  | step {n : Nat} {s t u : State} (first : StepsTo s t) (rest : Runs n t u) : Runs (n + 1) s u

/-- The agents that the agenda names exist (R5, R290): an issue by a core or site, a word by a hub or bridge. -/
def actNamed : Act → Bool
  | .issue n _ | .issueLate n _ => hasCore n
  | .deal n => hasDealer n
  | .perform .. | .readPiece _ | .readRow .. | .event _ | .hostWrite .. => true

/-- The next thing that the agenda names can happen. -/
def State.agentsNamed (s : State) : Bool := s.agenda.all fun p => actNamed p.2

/-- A safe state: no run from it, of any length, comes to a step that stops. -/
def Safe (s : State) : Prop := ∀ n t, Runs n s t → ∃ u, step t = .next u

/-- R84, R325: the accumulator rows that a checkpoint holds are a memory in canonical form, of those rows only. -/
def Ckpt.wf (k : Ckpt) : Prop := memWf k.acc = true ∧ ∀ x ∈ k.acc, inRange x.1 0x100000 0x10000 = true

/-- Every memory of a core is in canonical form. -/
def Core.wf (c : Core) : Prop :=
  memWf c.mem.mem = true ∧ (∀ k, c.rcv.slot0 = some k → k.wf) ∧ ∀ k, c.rcv.slot1 = some k → k.wf

/-- The host memories that a module's ports see are in canonical form. -/
def Module.wf (m : Module) : Prop := ∀ p ∈ m.ports.toList, memWf p.hostMem = true

/-- Every memory of the machine is in canonical form: addresses strictly rising, and no byte listed that reads as an
unlisted one does. -/
def State.wf (s : State) : Prop :=
  (∀ p ∈ s.cores, p.2.wf) ∧ (∀ p ∈ s.hubs, memWf p.2.dealer.area = true)
    ∧ (∀ p ∈ s.bridges, memWf p.2.dealer.area = true) ∧ ∀ p ∈ s.modules, p.2.wf

end Sys2Proof.Machine
end

