-- ==== Sys2Proof/Certificates/Slice0/Obligations.lean ====
section
/-! DEFINITION. The statements about the machine: one `Obligations.<Name>` each, with the frames that they share. -/

open Sys2Proof.Machine

namespace Sys2Proof.Claims

/-! ### Frames -/

/-- The parts of the machine that a frame speaks of, as seen from one context of one core: together they are all of
its state. -/
inductive Part where
  /-- The time. -/
  | now
  /-- Every hub, with its Dealer. -/
  | hubs
  /-- Every bridge, with its Dealer. -/
  | bridges
  /-- Every module. -/
  | modules
  /-- Every recovery domain. -/
  | domains
  /-- The messages in flight. -/
  | net
  /-- The names given. -/
  | names
  /-- The free values drawn. -/
  | draws
  /-- The words that credits pay for. -/
  | lots
  /-- What is to happen next. -/
  | agenda
  /-- What reaches the cores in this cycle has begun to. -/
  | arriving
  /-- Who executes. -/
  | cur
  /-- Every other core. -/
  | otherCores
  /-- Every other context of the core. -/
  | otherContexts
  /-- The context. -/
  | own
  /-- The order in which contexts issue, and the cycle from which the core may issue again. -/
  | order
  /-- The divider. -/
  | divider
  /-- The load and store port. -/
  | port
  /-- `CYCLE`. -/
  | cycles
  /-- Accesses through the local alias ports that have issued and not performed. -/
  | later
  /-- Every byte of scratchpad, accumulator rows and Shelf. -/
  | bytes
  /-- Full/empty bits. -/
  | full
  /-- Logged bits. -/
  | logged
  /-- The lines of the L1. -/
  | l1
  /-- The copies of remote lines. -/
  | copiesShr
  /-- When transient granules were written. -/
  | written
  /-- The classes of ranges. -/
  | classes
  /-- Earlier contents of code lines. -/
  | history
  /-- The instruction cache. -/
  | icache
  /-- `BANKMAP`. -/
  | banks
  /-- The sectors that loads await. -/
  | fills
  /-- The first beat over the vertical bus. -/
  | beat
  /-- Trigger entries. -/
  | entries
  /-- Pending pseudo-triggers. -/
  | pseudo
  /-- `TRG_CTL`. -/
  | trgCtl
  /-- LAST_ENTRY and LAST_PSEUDO. -/
  | lastFired
  /-- Channels. -/
  | chans
  /-- Routes. -/
  | routes
  /-- Credit counts. -/
  | credits
  /-- The incoming registers N, E, S, W. -/
  | ports
  /-- The put tracker. -/
  | tracker
  /-- The copy queue. -/
  | copies
  /-- Windows. -/
  | windows
  /-- `PROT`. -/
  | prot
  /-- The range table, with the changes and the queries that come at the end of the cycle. -/
  | ranges
  /-- Words sent per stream. -/
  | sent
  /-- The names of the words that contexts have sent. -/
  | out
  /-- The flag register. -/
  | flags
  /-- `K0`–`K63`. -/
  | counters
  /-- Mailboxes. -/
  | mailboxes
  /-- REL and PEND of barriers. -/
  | barriers
  /-- Watched words. -/
  | watch
  /-- Weight registers. -/
  | weights
  /-- `MX_CFG`. -/
  | mxCfg
  /-- The matrix operation queue. -/
  | queue
  /-- The count of operations that left the queue. -/
  | mxDone
  /-- `CTAB`. -/
  | ctab
  /-- `RIN`, `RIN_SEALED`, `RB_COUNT`. -/
  | rin
  /-- The undo log registers. -/
  | log
  /-- The arrival at a seal point, and the sequence number. -/
  | arrival
  /-- The declared seal points, and the length of the code. -/
  | sealPoints
  /-- The checkpoint slots. -/
  | ckpt
  /-- The trap CSRs. -/
  | trapRegs
  /-- The pending set of traps. -/
  | traps
  deriving DecidableEq, Repr

/-- A part is the same in two states, as seen from context `x` of core `n`. -/
def Part.same (n : Node) (x : Fin 8) (s t : State) : Part → Prop
  | .now => t.now = s.now
  | .hubs => t.hubs = s.hubs
  | .bridges => t.bridges = s.bridges
  | .modules => t.modules = s.modules
  | .domains => t.domains = s.domains
  | .net => t.net = s.net
  | .names => t.nextId = s.nextId
  | .draws => t.draws = s.draws
  | .lots => t.lots = s.lots
  | .agenda => t.agenda = s.agenda
  | .arriving => t.arriving = s.arriving
  | .cur => t.cur = s.cur
  | .otherCores => ∀ m, m ≠ n → t.core m = s.core m
  | .otherContexts => ∀ y, y ≠ x → t.ctx n y = s.ctx n y
  | .own => t.ctx n x = s.ctx n x
  | .order => (t.core n).lastIssued = (s.core n).lastIssued ∧ (t.core n).yielded = (s.core n).yielded ∧
      (t.core n).issueFrom = (s.core n).issueFrom
  | .divider => (t.core n).divFree = (s.core n).divFree
  | .port => (t.core n).portFree = (s.core n).portFree
  | .cycles => (t.core n).cycBase = (s.core n).cycBase ∧ (t.core n).cycAt = (s.core n).cycAt
  | .later => (t.core n).later = (s.core n).later
  | .bytes => (t.core n).mem.mem = (s.core n).mem.mem ∧ (t.core n).mem.undef = (s.core n).mem.undef
  | .full => (t.core n).mem.full = (s.core n).mem.full
  | .logged => (t.core n).mem.logged = (s.core n).mem.logged
  | .l1 => (t.core n).mem.l1 = (s.core n).mem.l1
  | .copiesShr => (t.core n).mem.shr = (s.core n).mem.shr
  | .written => (t.core n).mem.written = (s.core n).mem.written
  | .classes => (t.core n).mem.classes = (s.core n).mem.classes
  | .history => (t.core n).mem.lineHist = (s.core n).mem.lineHist
  | .icache => (t.core n).mem.icache = (s.core n).mem.icache
  | .banks => (t.core n).mem.bankLive = (s.core n).mem.bankLive ∧ (t.core n).mem.bankNext = (s.core
      n).mem.bankNext
  | .fills => (t.core n).mem.fills = (s.core n).mem.fills
  | .beat => (t.core n).mem.beat = (s.core n).mem.beat
  | .entries => (t.core n).trg.entries = (s.core n).trg.entries
  | .pseudo => (t.core n).trg.pseudo = (s.core n).trg.pseudo
  | .trgCtl => (t.core n).trg.ctl = (s.core n).trg.ctl
  | .lastFired => (t.core n).trg.lastPseudo = (s.core n).trg.lastPseudo ∧ (t.core n).trg.lastEntry = (s.core
      n).trg.lastEntry
  | .chans => (t.core n).comm.chans = (s.core n).comm.chans
  | .routes => (t.core n).comm.routes = (s.core n).comm.routes
  | .credits => (t.core n).comm.credits = (s.core n).comm.credits ∧ (t.core n).comm.creditInit = (s.core
      n).comm.creditInit
  | .ports => (t.core n).comm.nb = (s.core n).comm.nb
  | .tracker => (t.core n).comm.tracker = (s.core n).comm.tracker
  | .copies => (t.core n).comm.copies = (s.core n).comm.copies
  | .windows => (t.core n).comm.win = (s.core n).comm.win
  | .prot => (t.core n).comm.prot = (s.core n).comm.prot
  | .ranges => (t.core n).comm.range = (s.core n).comm.range ∧ (t.core n).comm.rangeNext = (s.core n).comm.rangeNext ∧
      (t.core n).comm.rangeAsk = (s.core n).comm.rangeAsk
  | .sent => (t.core n).comm.sent = (s.core n).comm.sent
  | .out => (t.core n).comm.out = (s.core n).comm.out
  | .flags => (t.core n).sync.flags = (s.core n).sync.flags
  | .counters => (t.core n).sync.k = (s.core n).sync.k
  | .mailboxes => (t.core n).sync.mb = (s.core n).sync.mb
  | .barriers => (t.core n).sync.bar = (s.core n).sync.bar
  | .watch => (t.core n).sync.watch = (s.core n).sync.watch
  | .weights => (t.core n).mx.w = (s.core n).mx.w
  | .mxCfg => (t.core n).mx.cfg = (s.core n).mx.cfg
  | .queue => (t.core n).mx.queue = (s.core n).mx.queue
  | .mxDone => (t.core n).mx.done = (s.core n).mx.done
  | .ctab => (t.core n).mx.ctab = (s.core n).mx.ctab
  | .rin => (t.core n).rcv.rin = (s.core n).rcv.rin ∧ (t.core n).rcv.rinSealed = (s.core n).rcv.rinSealed ∧
      (t.core n).rcv.rbCount = (s.core n).rcv.rbCount
  | .log => (t.core n).rcv.logBase = (s.core n).rcv.logBase ∧ (t.core n).rcv.logSize = (s.core n).rcv.logSize
      ∧ (t.core n).rcv.logFill = (s.core n).rcv.logFill ∧ (t.core n).rcv.logCtl = (s.core n).rcv.logCtl ∧
      (t.core n).rcv.stagedBase = (s.core n).rcv.stagedBase ∧ (t.core n).rcv.stagedSize = (s.core
      n).rcv.stagedSize
  | .arrival => (t.core n).rcv.arrival = (s.core n).rcv.arrival ∧ (t.core n).rcv.sealSeq = (s.core
      n).rcv.sealSeq
  | .sealPoints => (t.core n).rcv.sealPoints = (s.core n).rcv.sealPoints ∧
      (t.core n).rcv.codeLen = (s.core n).rcv.codeLen
  | .ckpt => (t.core n).rcv.slot0 = (s.core n).rcv.slot0 ∧ (t.core n).rcv.slot1 = (s.core n).rcv.slot1 ∧
      (t.core n).rcv.active = (s.core n).rcv.active
  | .trapRegs => (t.core n).rcv.trapCause = (s.core n).rcv.trapCause ∧ (t.core n).rcv.trapPc = (s.core
      n).rcv.trapPc ∧ (t.core n).rcv.trapVal = (s.core n).rcv.trapVal ∧ (t.core n).rcv.trapVec = (s.core
      n).rcv.trapVec ∧ (t.core n).rcv.trapCtx = (s.core n).rcv.trapCtx
  | .traps => (t.core n).rcv.traps = (s.core n).rcv.traps

/-- Every part is unchanged but the listed ones. -/
def KeptAt (n : Node) (x : Fin 8) (but : List Part) (s t : State) : Prop := ∀ p, p ∉ but → p.same n x s t

/-- An instruction changes nothing besides the issuing context, the issue order of its core, and the listed parts. -/
def Kept (but : List Part) (s t : State) : Prop := KeptAt s.cur.core s.cur.ctx (.own :: .order :: but) s t

/-- R101, R154: the context `k` goes on past the executing instruction. -/
def goneOn (s : State) (k : Ctx) : Ctx := k.goOn s.cur.pc s.cur.succ s.cycle

/-- R149, R140: the context `k` goes to `pc`, where it issues two cycles of its core later at the earliest. -/
def gone (s : State) (k : Ctx) (pc : BitVec 32) : Ctx := { k with pc := pc, notBefore := s.cycle + 2 }

/-- The instruction completes from `s`: the issuing context becomes `k`, and nothing else changes but the listed parts,
of which `q` holds. -/
def CompletesAt (s : State) (i : Instr) (k : Ctx) (but : List Part) (q : State → Prop) : Prop :=
  ∃ t, exec i s = .next t ∧ Kept but s t ∧ t.cc = k ∧ q t

/-- The instruction completes wherever it can start: the issuing context becomes `k`, a function of the state, and
nothing else changes. -/
def Completes (i : Instr) (k : State → Ctx) : Prop :=
  ∀ s, canStart s i = true → CompletesAt s i (k s) [] fun _ => True

/-- R139: the instruction writes `v` to the scalar register `sd` and goes on; nothing else changes. -/
def WritesS (i : Instr) (sd : SReg) (v : State → Word) : Prop :=
  Completes i fun s => goneOn s (s.cc.setSreg sd (v s))

/-- R334: a precise or after trap of the issuing context in the pending set, not reported by a remote agent. -/
def ownTrap (s : State) (code : BitVec 8) (pc rpc : BitVec 32) (val : Word) : PTrap :=
  { code := code, reported := false, orphan := false, pc := pc, val := val, rpc := rpc, ctx := some s.cur.ctx
    stamp := s.cycle }

/-- R334: the instruction takes a precise trap: it changes nothing but that its context is TRAPPED, and the trap waits
in the pending set, with the PC of the instruction as PC and RPC. -/
def TrapsAt (s : State) (i : Instr) (code : BitVec 8) (val : Word) : Prop :=
  ∃ t, exec i s = .next t ∧ Kept [.traps] s t ∧ t.cc = { s.cc with st := .trapped, blocked := none }
    ∧ t.cn.rcv.traps = s.cn.rcv.traps ++ [ownTrap s code s.cur.pc s.cur.pc val]

/-- R149, R150: the branch goes to its target when the condition holds, and otherwise the context goes on. -/
def BranchesOn (i : Instr) (t : Target) (c : State → Bool) : Prop :=
  Completes i fun s => if c s then gone s s.cc (targetPc s.cur.pc t) else goneOn s s.cc

end Sys2Proof.Claims

open Sys2Proof Sys2Proof.Claims

/-! ### Encoding and stepping -/

/-- R104–R110, R163, R213, R246, R268, R293–R297, R339: every well-formed instruction that a core or a Dealer issues
has an encoding, which decodes to it, with every operand at every value that the encoding admits. -/
def Obligations.EncodingRoundTrip : Prop :=
  (∀ i v, wellFormed i = true → encode i = some v → decodeValue v = .ok i)
    ∧ (∀ i v, wellFormed i = true → encodeDeck i = some v → decodeDeck v = .ok i)
    ∧ ∀ i, wellFormed i = true →
        (encode i).isSome = true ∨ (encodeDeck i).isSome = true ∨ isEvent i = true ∨ ∃ v, i = .illegalHead v

/-- R142, R163, R297, R339: words written out from the encoding tables of the spec decode to the instructions that
they stand for. -/
def Obligations.SampleWords : Prop :=
  decodeValue 0x0000 = .ok .nop
    ∧ decodeValue 0x23004803 = .ok (.add 3 2 3)
    ∧ decodeValue 0x2000FFFF9003 = .ok (.addi 3 2 0xFFFF)
    ∧ decodeValue 0x700000089435 = .ok (.ldS64 5 7 8)
    ∧ decodeDeck 0x4C40000000001234 = .ok (.dkSet 1 false 0x1234)

/-- R135, R299: when the agenda names a context of a core, the core issues from it unless an issuable context that it
takes first is ahead (`picked`), and if the bytes at the PC decode to an instruction, the step is that instruction,
executed where the context stands, with its line in the instruction cache; `late` lets the accesses of the instruction
through the local alias port perform later (R193). From when on the results of the instruction can be read is
`withLatency` (R140). A core that has issued in this cycle issues in its next, after the others have issued in this one.
What follows the instruction, whether a beat of it fails (R351) and what waits in the modules, is `finishMove`. -/
def Sys2Proof.Claims.StepRunsDecoded : Prop :=
  ∀ (s : State) (n : Node) (x : Fin 8) (late : Bool) (rest : List (Nat × Act)) (i : Instr),
    let a : State := { s with agenda := rest }
    let act : Act := if late then .issueLate n x else .issue n x
    let y := picked a n x
    let f := fillCache (atPc a n y)
    let f := withOthers { f with cur := { f.cur with late := late, others := [] } }
    s.agenda = (0, act) :: rest → hasCore n = true →
      (issueOpen a n = false → step s = .next (nextCycle { lastIssues a with agenda := (0, act) :: rest }))
      ∧ (issueOpen a n = true → fetchFault f n f.cur.pc = none → decodeValue (fetchValue f n f.cur.pc) = .ok i →
          f.cur.core = n ∧ f.cur.ctx = y ∧ f.cur.pc = (s.ctx n y).pc
            ∧ step s = mapNext (finishMove a (some (n, y))) (mapNext (fun t => withLatency f t i) (exec i f)))

/-- R123, R135: when the agenda names an event, every core and Dealer that can still issue in the cycle does, and then the
step is the event; those at the start of a cycle come of themselves. -/
def Sys2Proof.Claims.StepRunsEvent : Prop :=
  ∀ (s : State) (rest : List (Nat × Act)) (i : Instr),
    let a : State := { s with agenda := rest }
    s.agenda = (0, .event i) :: rest → isEvent i = true → atCycleStart i = false →
      step s = mapNext (finishMove (arrivals a) none) (exec i (arrivals a))

/-- R290, R299: when the agenda names a Dealer whose Deck word at `DK_PC` decodes, the step is that word, executed
there; a `DK_PC` past the Deck and a word that decodes to nothing are faults 7 and 1 of R298. A Dealer that has issued
in this cycle issues in its next, after the others have issued in this one. -/
def Sys2Proof.Claims.StepRunsDeckWord : Prop :=
  ∀ (s : State) (n : Node) (rest : List (Nat × Act)),
    let a : State := { s with agenda := rest }
    let f : State := { a with cur := { s.cur with dealer := n } }
    let words := (((s.dealer n).deck.map (·.words)).getD []).drop (s.dealer n).pc
    s.agenda = (0, .deal n) :: rest → hasDealer n = true →
      (dealOpen a n = false → step s = .next (nextCycle { lastIssues a with agenda := (0, .deal n) :: rest }))
      ∧ (dealOpen a n = true →
        (∀ w tail i, words = w :: tail → decodeDeck w.toNat = .ok i →
          step s = mapNext (finishMove a none) (exec i f))
        ∧ (words = [] → step s = .next (finishMove a none (dealing f fun s _ => dealFault s 7)))
        ∧ (∀ w tail e, words = w :: tail → decodeDeck w.toNat = .error e →
          step s = .next (finishMove a none (dealing f fun s _ => dealFault s 1))))

/-- R108, R334: a head that stands for no instruction, or has a reserved bit set, takes a precise `E_ILLEGAL` whose
TRAP_VAL is the instruction value; the context enters TRAPPED and nothing else of it changes. -/
def Sys2Proof.Claims.IllegalHead : Prop :=
  ∀ (s : State) (v : Word), canStart s .nop = true → s.cur.ctx ≠ 7 →
    TrapsAt s (.illegalHead v) 0x01 v

/-- R100, R101: what a fetch checks, in order: the PC lies in the Shelf range, below the live capacity, and names a
head of a well-formed line. -/
def Sys2Proof.Claims.FetchChecks : Prop :=
  ∀ (s : State) (n : Node) (pc : BitVec 32),
    let line := pc.toNat / 64 * 64
    (laRange pc.toNat ≠ some .shelf → fetchFault s n pc = some ⟨0x04, pc.setWidth 64⟩)
      ∧ (laRange pc.toNat = some .shelf → shelfTop (s.core n) ≤ pc.toNat →
          fetchFault s n pc = some ⟨0x0B, pc.setWidth 64⟩)
      ∧ (laRange pc.toNat = some .shelf → pc.toNat < shelfTop (s.core n) →
          namesHead (fetchLine s n line) pc.toNat = false → fetchFault s n pc = some ⟨0x02, BitVec.ofNat 64 line⟩)
      ∧ (laRange pc.toNat = some .shelf → pc.toNat < shelfTop (s.core n) →
          namesHead (fetchLine s n line) pc.toNat = true → fetchFault s n pc = none)

/-- R7: the values after module power-on reset that the spec gives: of the contexts (R29, R114, R131, R155); of the
cores' triggers, channels, windows, ranges, flags and counters (R93, R96, R121, R122, R188, R271, R275, R305); of the matrix
unit and the code table (R36, R243); of recovery and traps (R316, R321, R335); of hubs and bridges (R292, R348, R351,
R366); of the module (R62, R63, R64, R66, R81, R366); and every memory is in canonical form. -/
def Obligations.ResetState : Prop :=
  let r := State.reset
  (∀ n x, let k := r.ctx n x
    k.st = .free ∧ (∀ v : VReg, k.vreg v = { data := 0, tag := 8, sp := false, side := 0 })
      ∧ k.sts = 0 ∧ k.lpCnt = 0 ∧ k.lpBeg = 0 ∧ k.lpEnd = 0)
    ∧ (∀ n, let c := r.core n
      cycleOf r n = 0 ∧ c.trg.ctl = 0 ∧ trgSts r n = 0x7F00000000
        ∧ (∀ d : Fin 4, c.comm.nb[d] = none)
        ∧ (∀ w : Fin 8, (c.comm.win[w]).w0 = 0 ∧ (c.comm.win[w]).param = 0) ∧ c.comm.prot = 0
        ∧ (∀ e : Fin 8, c.comm.range[e] = 0)
        ∧ c.sync.flags = 0 ∧ (∀ k : Fin 64, c.sync.k[k] = 0))
    ∧ (∀ n, let c := r.core n
      (∀ w : Fin 4, c.mx.w[w] = { tile := Vector.replicate 32 0, wfmt := 8, wsp := false, scale0 := 0, scale1 := 0 })
        ∧ (∀ a, 0x100000 ≤ a → a < 0x110000 → laByte c a = 0)
        ∧ c.mx.cfg = 0 ∧ c.mx.queue = [] ∧ ∀ e : Fin 16, c.mx.ctab[e] = 0)
    ∧ (∀ n, let q := (r.core n).rcv
      q.rin = 0 ∧ q.rinSealed = 0 ∧ q.rbCount = 0
        ∧ q.logBase = 0 ∧ q.logSize = 0 ∧ q.logFill = 0 ∧ logCap (r.core n) = 0 ∧ q.logCtl = 0
        ∧ q.trapCause = 0 ∧ q.trapPc = 0 ∧ q.trapVal = 0 ∧ q.trapVec = 0 ∧ q.trapCtx = 0x700000000)
    ∧ (∀ n, (r.hub n).thermCfg = 0x05695F5500 ∧ (r.hub n).thermSts = 0 ∧ (r.hub n).power = .off
      ∧ dkSts (r.hub n).dealer = 0)
    ∧ (∀ n, (r.bridge n).vbInj = 0 ∧ dkSts (r.bridge n).dealer = 0)
    ∧ (let m := r.module 0
      m.present = true ∧ m.lease = 0x0400 ∧ m.tieTo = 1 ∧ (∀ i : Fin 32, (m.hsem[i]).owner = 0)
        ∧ (∀ p : Fin 2, (m.ports[p]).busy = false ∧ (m.ports[p]).ovr = false ∧ (m.ports[p]).code = 0)
        ∧ (∀ i, rmapEntry m i = 0x00000FFF) ∧ m.inrush = List.range 960)
    ∧ r.wf

/-- R84, R325: every step keeps every memory in canonical form: core memories, the rows that checkpoints hold, Deck
areas and the host memories of the ports. -/
def Obligations.MemoryStaysCanonical : Prop :=
  ∀ s t : State, s.wf → step s = .next t → t.wf

/-- Every step completes while the agenda names agents that exist: no instruction and no event ever stops. -/
def Obligations.MachineNeverStops : Prop :=
  ∀ s : State, s.agentsNamed = true → Safe s

/-- R76, R357: a site that wafer test fused off, or that has been retired, stays dead through every step, power loss
and power-on reset among them. -/
def Obligations.DeadSitesStayDead : Prop :=
  ∀ (s t : State) (w px py : Nat), siteDead (s.module w) px py = true → step s = .next t →
    siteDead (t.module w) px py = true

/-! ### Scalar instructions -/

/-- R111: `s0` reads as zero whatever it holds, a write to it is discarded, and a write to another register is what a
read of that register gives and changes no other; vector and predicate registers behave likewise. -/
def Obligations.RegistersHold : Prop :=
  (∀ k : Ctx, k.sreg 0 = 0)
    ∧ (∀ (k : Ctx) (x : Word), k.setSreg 0 x = k)
    ∧ (∀ (k : Ctx) (r q : SReg) (x : Word), r ≠ 0 → (k.setSreg r x).sreg q = if q = r then x else k.sreg q)
    ∧ (∀ (k : Ctx) (r q : VReg) (x : VVal), (k.setVreg r x).vreg q = if q = r then x else k.vreg q)
    ∧ ∀ (k : Ctx) (r q : PReg) (x : Pred), (k.setPreg r x).preg q = if q = r then x else k.preg q

/-- R139, R143: the three-register forms write their result to `sd` and change nothing else. -/
def Sys2Proof.Claims.ScalarResults : Prop :=
  ∀ d a b : SReg,
    WritesS (.add d a b) d (fun s => s.sr a + s.sr b)
    ∧ WritesS (.sub d a b) d (fun s => s.sr a - s.sr b)
    ∧ WritesS (.mul d a b) d (fun s => BitVec.ofInt 64 ((s.sr a).toInt * (s.sr b).toInt))
    ∧ WritesS (.mulh d a b) d (fun s => BitVec.ofInt 64 ((s.sr a).toInt * (s.sr b).toInt / 2 ^ 64))
    ∧ WritesS (.mulhn d a b) d (fun s => BitVec.ofNat 64 ((s.sr a).toNat * (s.sr b).toNat / 2 ^ 64))
    ∧ WritesS (.and d a b) d (fun s => s.sr a &&& s.sr b)
    ∧ WritesS (.or d a b) d (fun s => s.sr a ||| s.sr b)
    ∧ WritesS (.xor d a b) d (fun s => s.sr a ^^^ s.sr b)
    ∧ WritesS (.andn d a b) d (fun s => s.sr a &&& ~~~s.sr b)
    ∧ WritesS (.shl d a b) d (fun s => s.sr a <<< ((s.sr b).toNat % 64))
    ∧ WritesS (.shr d a b) d (fun s => s.sr a >>> ((s.sr b).toNat % 64))
    ∧ WritesS (.sra d a b) d (fun s => BitVec.ofInt 64 ((s.sr a).toInt / 2 ^ ((s.sr b).toNat % 64)))
    ∧ WritesS (.min d a b) d (fun s => BitVec.ofInt 64 (min (s.sr a).toInt (s.sr b).toInt))
    ∧ WritesS (.max d a b) d (fun s => BitVec.ofInt 64 (max (s.sr a).toInt (s.sr b).toInt))
    ∧ WritesS (.minn d a b) d (fun s => BitVec.ofNat 64 (min (s.sr a).toNat (s.sr b).toNat))
    ∧ WritesS (.maxn d a b) d (fun s => BitVec.ofNat 64 (max (s.sr a).toNat (s.sr b).toNat))
    ∧ WritesS (.slt d a b) d (fun s => if (s.sr a).toInt < (s.sr b).toInt then 1 else 0)
    ∧ WritesS (.sltn d a b) d (fun s => if (s.sr a).toNat < (s.sr b).toNat then 1 else 0)

/-- R144: the divisions truncate toward zero and set `STS.DZ` for a zero divisor, whose result is all ones; besides,
only the divider of the core is taken, for a time that the spec leaves open. -/
def Sys2Proof.Claims.ScalarDivision : Prop :=
  ∀ d a b : SReg,
    let divides (i : Instr) (q : Word → Word → Word) : Prop :=
      ∀ s, canStart s i = true → CompletesAt s i
        (goneOn s (if s.sr b = 0 then { s.cc.setSreg d (BitVec.allOnes 64) with sts := s.cc.sts ||| 1 }
          else s.cc.setSreg d (q (s.sr a) (s.sr b)))) [.divider] fun _ => True
    divides (.div d a b) (fun x y => BitVec.ofInt 64 (x.toInt.tdiv y.toInt))
    ∧ divides (.divn d a b) (fun x y => BitVec.ofNat 64 (x.toNat / y.toNat))
    ∧ divides (.rem d a b) (fun x y => BitVec.ofInt 64 (x.toInt.tmod y.toInt))
    ∧ divides (.remn d a b) (fun x y => BitVec.ofNat 64 (x.toNat % y.toNat))

/-- R145, R146: select by one bit, and the three bit counts: the number of set bits, of zero bits above the highest
set bit, and of zero bits below the lowest. -/
def Sys2Proof.Claims.ScalarSelectAndCount : Prop :=
  ∀ d a b c : SReg,
    (∀ bit : Fin 64, WritesS (.sel d a b c bit) d (fun s => if (s.sr c).getLsbD bit then s.sr a else s.sr b))
    ∧ WritesS (.popc d a) d (fun s => BitVec.ofNat 64 ((List.range 64).countP fun i => (s.sr a).getLsbD i))
    ∧ (∀ s, canStart s (.clz d a) = true → ∃ n, CompletesAt s (.clz d a)
        (goneOn s (s.cc.setSreg d (BitVec.ofNat 64 n))) [] (fun _ => True) ∧ n ≤ 64
        ∧ (∀ i, 64 - n ≤ i → (s.sr a).getLsbD i = false) ∧ (n < 64 → (s.sr a).getLsbD (63 - n) = true))
    ∧ ∀ s, canStart s (.ctz d a) = true → ∃ n, CompletesAt s (.ctz d a)
        (goneOn s (s.cc.setSreg d (BitVec.ofNat 64 n))) [] (fun _ => True) ∧ n ≤ 64
        ∧ (∀ i, i < n → (s.sr a).getLsbD i = false) ∧ (n < 64 → (s.sr a).getLsbD n = true)

/-- R147, R148: the immediate forms: `addi` and `movi` sign-extend, the bitwise forms zero-extend, a shift takes its
amount from the encoding, and `movk` replaces one 16-bit quarter and keeps the others. -/
def Sys2Proof.Claims.ScalarImmediates : Prop :=
  ∀ d a : SReg,
    (∀ imm : BitVec 16,
      WritesS (.addi d a imm) d (fun s => s.sr a + imm.signExtend 64)
      ∧ WritesS (.andi d a imm) d (fun s => s.sr a &&& imm.setWidth 64)
      ∧ WritesS (.ori d a imm) d (fun s => s.sr a ||| imm.setWidth 64)
      ∧ WritesS (.xori d a imm) d (fun s => s.sr a ^^^ imm.setWidth 64))
    ∧ (∀ n : Fin 64,
      WritesS (.shli d a n) d (fun s => s.sr a <<< n.val)
      ∧ WritesS (.shri d a n) d (fun s => s.sr a >>> n.val)
      ∧ WritesS (.srai d a n) d (fun s => (s.sr a).sshiftRight n.val))
    ∧ (∀ imm : BitVec 32, WritesS (.movi d imm) d (fun _ => imm.signExtend 64))
    ∧ ∀ (imm : BitVec 16) (q : Fin 4) (s : State), canStart s (.movk d imm q) = true →
        ∃ v, CompletesAt s (.movk d imm q) (goneOn s (s.cc.setSreg d v)) [] (fun _ => True)
          ∧ ∀ j : Fin 4, v.extractLsb' (16 * j.val) 16 = if j = q then imm else (s.sr d).extractLsb' (16 * j.val) 16

/-! ### Control -/

/-- R102, R149: a target names a line by its distance from the line of the branch, and a slot of that line; slot k
stands at byte 2 + 2 k. -/
def Sys2Proof.Claims.BranchTargets : Prop :=
  ∀ (pc : BitVec 32) (loff : BitVec 19) (slot : BitVec 5),
    ((targetPc pc ⟨loff, slot⟩).toNat : Int)
      = (((pc.toNat / 64 * 64 : Nat) : Int) + 64 * loff.toInt + 2 + 2 * (slot.toNat : Int)) % 2 ^ 32

/-- R150–R152: the branches, and `br`; a branch that is not taken goes on. -/
def Sys2Proof.Claims.Branches : Prop :=
  ∀ t : Target,
    BranchesOn (.br t) t (fun _ => true)
    ∧ (∀ a b : SReg,
      BranchesOn (.bEq a b t) t (fun s => decide (s.sr a = s.sr b))
      ∧ BranchesOn (.bNe a b t) t (fun s => decide (s.sr a ≠ s.sr b))
      ∧ BranchesOn (.bLt a b t) t (fun s => decide ((s.sr a).toInt < (s.sr b).toInt))
      ∧ BranchesOn (.bGe a b t) t (fun s => decide ((s.sr b).toInt ≤ (s.sr a).toInt))
      ∧ BranchesOn (.bLtn a b t) t (fun s => decide ((s.sr a).toNat < (s.sr b).toNat))
      ∧ BranchesOn (.bGen a b t) t (fun s => decide ((s.sr b).toNat ≤ (s.sr a).toNat)))
    ∧ ∀ p : PReg,
      BranchesOn (.bpAny p t) t (fun s => decide (∃ i : Fin 32, (s.pr p).getLsbD i = true))
      ∧ BranchesOn (.bpAll p t) t (fun s => decide (∀ i : Fin 32, (s.pr p).getLsbD i = true))
      ∧ BranchesOn (.bpNone p t) t (fun s => decide (∀ i : Fin 32, (s.pr p).getLsbD i = false))

/-- R152, R157: `call` saves the successor in `s15` and goes to its target, `ret` goes to `s15`[31:0], `nop` and
`yield` only go on. -/
def Sys2Proof.Claims.CallReturnNop : Prop :=
  (∀ t : Target, Completes (.call t) fun s => gone s (s.cc.setSreg 15 (s.cur.succ.setWidth 64)) (targetPc s.cur.pc t))
    ∧ (Completes .ret fun s => gone s s.cc ((s.sr 15).extractLsb' 0 32))
    ∧ (Completes .nop fun s => goneOn s s.cc)
    ∧ Completes .yield fun s => goneOn s s.cc

/-- R153, R154: `loop` sets the loop registers and enters the body when its count is not zero, and otherwise goes to
the successor of the last instruction, or takes `E_LINE` there when the line of that instruction is malformed. At
the end of the body the context goes back while two or more rounds are left, and past the body in the last one. -/
def Sys2Proof.Claims.HardwareLoop : Prop :=
  (∀ (a : SReg) (t : Target) (s : State), canStart s (.loop a t) = true →
    let n : BitVec 32 := (s.sr a).extractLsb' 0 32
    let last := targetPc s.cur.pc t
    let looping : Ctx := { s.cc with lpBeg := s.cur.succ, lpEnd := last, lpCnt := n }
    let line := last.toNat / 64 * 64
    (n ≠ 0 → CompletesAt s (.loop a t) { looping with pc := s.cur.succ } [] fun _ => True)
    ∧ (n = 0 → namesHead (fetchLine s s.cur.core line) last.toNat = true →
        CompletesAt s (.loop a t) (gone s looping (succOf s s.cur.core last)) [] fun _ => True)
    ∧ (n = 0 → namesHead (fetchLine s s.cur.core line) last.toNat = false → s.cur.ctx ≠ 7 →
        CompletesAt s (.loop a t) { looping with st := .trapped, blocked := none } [.traps] fun u =>
          u.cn.rcv.traps = s.cn.rcv.traps ++ [ownTrap s 0x02 last last (BitVec.ofNat 64 line)]))
    ∧ ∀ (k : Ctx) (pc succ : BitVec 32) (cycle : Nat),
      (pc ≠ k.lpEnd ∨ k.lpCnt = 0 → k.goOn pc succ cycle = { k with pc := succ })
      ∧ (pc = k.lpEnd → k.lpCnt = 1 → k.goOn pc succ cycle = { k with pc := succ, lpCnt := 0 })
      ∧ (pc = k.lpEnd → 2 ≤ k.lpCnt.toNat →
          k.goOn pc succ cycle = { k with pc := k.lpBeg, lpCnt := k.lpCnt - 1, notBefore := cycle + 2 })

/-- R134, R156: `end` in a handler's context makes the context FREE and ends its claims; reports that wait for it
become orphans. By context 7 it is the return of R341 that ends the trapped context. -/
def Sys2Proof.Claims.EndOfHandler : Prop :=
  ∀ s : State, canStart s .endHandler = true →
    (s.cur.ctx ≠ 7 → CompletesAt s .endHandler
      { s.cc with st := .free, blocked := none, bind0 := 0, bind1 := 0, reports := [], fences := [] }
      [.traps, .arrival] fun t => t.cn.rcv.arrival ≠ some s.cur.ctx
        ∧ t.cn.rcv.traps.length = s.cn.rcv.traps.length + s.cc.reports.length)
    ∧ (s.cur.ctx = 7 → ∃ t, exec .endHandler s = .next t
      ∧ Kept [.otherContexts, .traps, .arrival, .trapRegs] s t
      ∧ t.cc.st = .free ∧ t.cn.rcv.trapCtx = s.cn.rcv.trapCtx &&& ~~~(1#64 <<< 40)
      ∧ ∀ c : Fin 8, c ≠ 7 → bits s.cn.rcv.trapCtx.toNat 32 3 = c.val → (t.ctx s.cur.core c).st = .free)

/-- R123, R135, R290, R299: one step of the machine that the agenda leaves to a context or to a Dealer is the
instruction that its bytes decode to, executed where it stands, and one that it leaves to an event is that event. -/
def Obligations.StepRuns : Prop :=
  Sys2Proof.Claims.StepRunsDecoded
    ∧ Sys2Proof.Claims.StepRunsEvent
    ∧ Sys2Proof.Claims.StepRunsDeckWord

/-- R100, R101, R108, R334: what a fetch checks, in order, and the trap of a head that stands for no instruction. -/
def Obligations.FetchTraps : Prop :=
  Sys2Proof.Claims.IllegalHead
    ∧ Sys2Proof.Claims.FetchChecks

/-- R139, R143, R144: the three-register forms, and the divisions. -/
def Obligations.ScalarArithmetic : Prop :=
  Sys2Proof.Claims.ScalarResults
    ∧ Sys2Proof.Claims.ScalarDivision

/-- R145–R148: selection, bit counts and the immediate forms. -/
def Obligations.ScalarForms : Prop :=
  Sys2Proof.Claims.ScalarSelectAndCount
    ∧ Sys2Proof.Claims.ScalarImmediates

/-- R102, R149–R154, R157: branches, calls and hardware loops. -/
def Obligations.ControlTransfers : Prop :=
  Sys2Proof.Claims.BranchTargets
    ∧ Sys2Proof.Claims.Branches
    ∧ Sys2Proof.Claims.CallReturnNop
    ∧ Sys2Proof.Claims.HardwareLoop


/-! ### Local memory -/

namespace Sys2Proof.Claims

/-- What a write may change in its core besides the written bytes: the L1 lines and logged bits of the sectors that it
reaches, with the copies in a line that makes room, the beat that brought one, when transient granules were written, and
earlier contents of code lines (R91, R97, R103, R318). -/
def writeParts : List Part := [.bytes, .logged, .l1, .copiesShr, .written, .history, .beat]

/-- R202: a store of the core's own may have a queued `mx.ldw` read its rows first. -/
def storeParts : List Part := .queue :: writeParts

/-- What first-store logging changes besides: the log's registers, and the seal request that it may raise with its
messages (R318, R320, R322). -/
def logParts : List Part := [.log, .net, .names, .domains]

/-- The bytes at an address of core `n`. -/
def BytesAt (t : State) (n : Node) (a : Nat) (bs : List Byte) : Prop :=
  ∀ i (h : i < bs.length), laByte (t.core n) (a + i) = bs[i]

/-- Every byte of the memory of core `n` outside a range reads as before, but for the undo log, which a logged write
extends. Register windows show registers and are no memory. -/
def OtherBytesKept (n : Node) (a len : Nat) (s t : State) : Prop :=
  ∀ c, inRange c a len = false → laRange c ≠ some .regs → inLog (s.core n) c 1 = false →
    laByte (t.core n) c = laByte (s.core n) c

/-- No granule of the range needs an undo-log record (R318). -/
def Unlogged (s : State) (a len : Nat) : Prop := ∀ g ∈ granules a len, needsRecord s.cn g = false

/-- The instruction, which accesses `len` bytes at `a` of its core, stores `bs` there: these bytes, and no others but
in the undo log, change. Where no record is needed, the log and the domain do not change either. -/
def StoresAt (s : State) (i : Instr) (k : Ctx) (a len : Nat) (bs : List Byte) (more : List Part) (q : State → Prop) :
    Prop :=
  ∃ t, exec i s = .next t ∧ Kept (storeParts ++ logParts ++ more) s t ∧ t.cc = k ∧ q t
    ∧ BytesAt t s.cur.core a bs ∧ OtherBytesKept s.cur.core a bs.length s t
    ∧ (Unlogged s a len → Kept (storeParts ++ more) s t)

/-- A local form can start, and its address passes the checks of R160. -/
structure Ready (s : State) (i : Instr) (use : LocalUse) (a : Word) (size : Nat) : Prop where
  starts : canStart s i = true
  allowed : localFault s s.cur.core s.cur.ctx use a size = none

/-- What holds back a write: a copy or queued operation has yet to read those bytes (R176, R202), or the log stalls
(R320). -/
structure Clear (s : State) (a : Word) (size : Nat) : Prop where
  idle : sourceBusy s a.toNat size = false
  room : logStalls s.cn a.toNat size = false

/-- The byte that a local load reads (R113, R115, R164). -/
def loadByte (s : State) (a : Nat) : Byte :=
  if laRange a = some .csr then csrWinByte s s.cur.core s.cur.ctx a else laByte s.cn a

/-- `v` is the `size`-byte value at `a`, sign- or zero-extended to 64 bits. -/
def Loaded (s : State) (a size : Nat) (signed : Bool) (v : Word) : Prop :=
  (∀ i, i < size → v.extractLsb' (8 * i) 8 = loadByte s (a + i))
    ∧ ∀ j, 8 * size ≤ j → j < 64 → v.getLsbD j = (signed && v.getLsbD (8 * size - 1))

/-- R160 step 2, R96, R90, R113: the access is permitted. -/
def Permitted (s : State) (use : LocalUse) (a size : Nat) : Prop :=
  let store : Prop := use = .store ∨ use = .atomic
  (laRangeOf a size).isSome = true
    ∧ (use = .fe → laRangeOf a size = some .scratch)
    ∧ (use = .atomic → laRangeOf a size = some .scratch ∨ laRangeOf a size = some .shelf)
    ∧ (laRangeOf a size = some .acc → s.cur.ctx = 7 ∨ s.cn.comm.prot.getLsbD 2 = true)
    ∧ (laRangeOf a size = some .regs → ¬store ∧ (s.cur.ctx = 7 ∨ s.cn.comm.prot.getLsbD 1 = true))
    ∧ (laRangeOf a size = some .csr → ¬store ∧ (s.cur.ctx = 7 ∨ s.cn.comm.prot.getLsbD 0 = true))
    ∧ (store → inLog s.cn a size = false ∧ inSpill s.cn a size = false)
    ∧ (store → laRangeOf a size = some .shelf → codeRoTop s.cn ≤ a)
    ∧ (laRangeOf a size = some .csr → csrMissing s s.cur.core s.cur.ctx a size = none)

/-- R171: the new value of an atomic. -/
def amoValue (op : AmoOp) (uns : Bool) {w : Nat} (old b c : BitVec w) : BitVec w :=
  let less : Bool := if uns then old.ult b else old.slt b
  match op with
  | .add => old + b
  | .min => if less then old else b
  | .max => if less then b else old
  | .and => old &&& b
  | .or => old ||| b
  | .xchg => b
  | .cas => if old = c then b else old

/-- The form of an atomic operation. -/
def amoForm (op : AmoOp) (sd sb sc sa : SReg) (off : BitVec 16) (uns wide remote : Bool) : Instr :=
  match op with
  | .add => .amoAdd sd sb sa off uns wide remote
  | .min => .amoMin sd sb sa off uns wide remote
  | .max => .amoMax sd sb sa off uns wide remote
  | .and => .amoAnd sd sb sa off uns wide remote
  | .or => .amoOr sd sb sa off uns wide remote
  | .xchg => .amoXchg sd sb sa off uns wide remote
  | .cas => .amoCas sd sb sc sa off uns wide remote

/-- `w` bytes of memory as a number. -/
def oldValue (c : Core) (a w : Nat) : BitVec (8 * w) := BitVec.ofNat (8 * w) (leNat (laBytes c a w))

/-- R193: an access of the issuing context that performs later, under the next name. -/
def laterOf (s : State) (a len : Nat) (what : LaterKind) : Later :=
  { id := s.nextId, ctx := s.cur.ctx, fires := s.cc.fires, la := a, len := len, what := what }

/-- R193: the instruction's access to `len` bytes at `a` performs later, under a name of its own; what its first write of
a granule logs is logged now (R318). The issuing context becomes `k` of that name. -/
def DefersAt (s : State) (i : Instr) (a len : Nat) (what : LaterKind) (k : Nat → Ctx) : Prop :=
  ∃ t id, exec i s = .next t ∧ Kept ([.later, .names] ++ writeParts ++ logParts) s t ∧ t.cc = k id ∧ s.nextId ≤ id
    ∧ t.cn.later = s.cn.later ++ [{ laterOf s a len what with id := id }]
    ∧ OtherBytesKept s.cur.core 0 0 s t ∧ (Unlogged s a len → id = s.nextId ∧ Kept [.later, .names, .l1, .copiesShr, .logged, .beat] s t)

/-- R140, R193: the issuing context goes on with `d` awaiting the access of a name, and nothing earlier. -/
def pendingOn (s : State) (d : SReg) (id : Nat) : Ctx :=
  goneOn s (if d = 0 then s.cc else (s.cc.forget (.s d)).await (.s d) (.request id))

/-- R158, R240: bytes of a result enter a vector register, but for those that a remote write has replaced since; it awaits
that result no more. -/
def LanesFilled (k u : Ctx) (id : Nat) (r : VReg) (new : Nat → Option Byte) (wait : List (RegName × Await)) : Prop :=
  ∃ d : VData,
    u = { k with
      v := k.v.set r { k.vreg r with data := d }
      pending := k.pending.filter (fun p => p.2 ≠ .request id) ++ wait
      poked := k.poked.filter (·.1 ≠ id) }
    ∧ ∀ j, j < 128 →
        d.extractLsb' (8 * j) 8 = (if k.poked.contains (id, j) then none else new j).getD ((k.vreg r).data.extractLsb' (8 * j) 8)

/-- A blocked context, which tries its instruction again (R131–R133). -/
def blockedAs (s : State) (i : Instr) (st : CtxState) (arg : Nat) : Ctx :=
  { s.cc with
    st := st
    blocked := some { instr := i, pc := s.cur.pc, succ := s.cur.succ, value := s.cur.value, since := s.nextId
                      arg := arg, regs := s.cc.regs } }

end Sys2Proof.Claims

/-- R108, R159, R160, R334: what a local access of the issuing context is checked for, in order, and the trap that each
failure takes; nothing else is refused. -/
def Sys2Proof.Claims.LocalAccessChecks : Prop :=
  ∀ (s : State) (use : LocalUse) (ea : Word) (size : Nat),
    let a := ea.toNat
    let fault := localFault s s.cur.core s.cur.ctx use ea size
    (a % size ≠ 0 → fault = some ⟨0x03, ea⟩)
      ∧ (2 ^ 32 ≤ a → a % size = 0 → fault = some ⟨0x04, ea⟩)
      ∧ (a < 2 ^ 32 → a % size = 0 → ¬Permitted s use a size →
          fault = some ⟨0x04, ea⟩ ∨ ∃ k, csrMissing s s.cur.core s.cur.ctx a size = some k
            ∧ fault = some ⟨0x04, BitVec.ofNat 64 k⟩)
      ∧ (a < 2 ^ 32 → a % size = 0 → Permitted s use a size →
          (laRangeOf a size = some .shelf ∧ shelfTop s.cn < a + size → fault = some ⟨0x0B, ea⟩)
          ∧ (¬(laRangeOf a size = some .shelf ∧ shelfTop s.cn < a + size) →
              (anyArmed s.cn a size = true → fault = some ⟨0x07, ea⟩)
              ∧ (anyArmed s.cn a size = false → use ≠ .store ∧ anyExpired s s.cur.core a size = true →
                  fault = some ⟨0x0A, ea⟩)
              ∧ (anyArmed s.cn a size = false → use = .store ∨ anyExpired s s.cur.core a size = false → fault = none)))

/-- R160, R162, R334: a local scalar form whose address fails a check takes that trap precisely. -/
def Sys2Proof.Claims.LocalAccessTraps : Prop :=
  ∀ (d b c a : SReg) (off : BitVec 16),
    (∀ p ∈ [(Instr.ldS8 d a off, LocalUse.load, 1), (.ldS16 d a off, .load, 2), (.ldS32 d a off, .load, 4),
        (.ldS64 d a off, .load, 8), (.ldN8 d a off, .load, 1), (.ldN16 d a off, .load, 2),
        (.ldN32 d a off, .load, 4), (.stN8 b a off, .store, 1), (.stN16 b a off, .store, 2),
        (.stN32 b a off, .store, 4), (.stN64 b a off, .store, 8), (.ldWf d a off, .fe, 4), (.ldWfe d a off, .fe, 4),
        (.stWef b a off, .fe, 4), (.stSf b a off, .fe, 4), (.feSet a off, .fe, 4), (.feClr a off, .fe, 4),
        (.feTst d a off, .fe, 4)],
      ∀ (s : State) (t : TrapOf), canStart s p.1 = true → s.cur.ctx ≠ 7 →
        (isWrite p.1 = true → sourceBusy s (s.sr a + off.signExtend 64).toNat p.2.2 = false) →
        localFault s s.cur.core s.cur.ctx p.2.1 (s.sr a + off.signExtend 64) p.2.2 = some t →
        TrapsAt s p.1 t.code t.val)
    ∧ ∀ (op : AmoOp) (uns wide : Bool) (s : State) (t : TrapOf),
        canStart s (amoForm op d b c a off uns wide false) = true → s.cur.ctx ≠ 7 →
        sourceBusy s (s.sr a + off.signExtend 64).toNat (if wide then 8 else 4) = false →
        localFault s s.cur.core s.cur.ctx .atomic (s.sr a + off.signExtend 64) (if wide then 8 else 4) = some t →
        TrapsAt s (amoForm op d b c a off uns wide false) t.code t.val

/-- R164, R165, R193, R194: a load extends the bytes at its address into `sd`. A load from a Shelf sector that is not in
the L1 completes too: its register awaits that sector, which is asked for over the vertical bus. A load that performs
after its issue leaves its register waiting for it, under the next name. -/
def Obligations.Loads : Prop :=
  ∀ (d a : SReg) (off : BitVec 16),
    ∀ p ∈ [(Instr.ldS8 d a off, 1, true), (.ldS16 d a off, 2, true), (.ldS32 d a off, 4, true),
        (.ldS64 d a off, 8, true), (.ldN8 d a off, 1, false), (.ldN16 d a off, 2, false), (.ldN32 d a off, 4, false)],
      ∀ s : State, canStart s p.1 = true →
        let ea := s.sr a + off.signExtend 64
        let sector := ea.toNat / 128 * 128
        let waits : Prop := laRange ea.toNat = some .shelf ∧ s.cn.hasSector ea.toNat = false
        localFault s s.cur.core s.cur.ctx .load ea p.2.1 = none →
        (d = 0 ∨ defers s ea.toNat p.2.1 = false →
          ∃ v, Loaded s ea.toNat p.2.1 p.2.2 v
            ∧ (¬waits → CompletesAt s p.1 (goneOn s (s.cc.setSreg d v)) [.l1, .logged, .beat] fun _ => True)
            ∧ (waits → d ≠ 0 →
                CompletesAt s p.1 (goneOn s ((s.cc.setSreg d v).await (.s d) (.sector sector))) [.fills] fun t =>
                  sector ∈ t.cn.mem.fills)
            ∧ (waits → d = 0 → CompletesAt s p.1 (goneOn s s.cc) [.fills] fun t => sector ∈ t.cn.mem.fills))
        ∧ (d ≠ 0 → defers s ea.toNat p.2.1 = true →
            CompletesAt s p.1 (pendingOn s d s.nextId) [.later, .names] fun t =>
              t.cn.later = s.cn.later ++ [laterOf s ea.toNat p.2.1 (.load d p.2.2)])

/-- R164, R193, R194, R318: a store writes the low bytes of its register at its address, and no other byte but in the undo
log; or it performs after its issue, with what it logs logged as it issues. -/
def Sys2Proof.Claims.Stores : Prop :=
  ∀ (b a : SReg) (off : BitVec 16),
    ∀ p ∈ [(Instr.stN8 b a off, 1), (.stN16 b a off, 2), (.stN32 b a off, 4), (.stN64 b a off, 8)],
      ∀ s : State, memWf s.cn.mem.mem = true → Ready s p.1 .store (s.sr a + off.signExtend 64) p.2 →
        Clear s (s.sr a + off.signExtend 64) p.2 →
        let w := (s.sr a + off.signExtend 64).toNat
        let bs := leBytes p.2 (s.sr b).toNat
        (defers s w p.2 = false → StoresAt s p.1 (goneOn s s.cc) w p.2 bs [] fun _ => True)
        ∧ (defers s w p.2 = true → DefersAt s p.1 w p.2 (.store bs (BitVec.allOnes 32)) fun _ => goneOn s s.cc)

/-- R165, R167, R171, R193, R194, R239, R240: an access that has issued and not performed does so at its core, unless that
is frozen, or an earlier access of its context to one of its bytes has not performed. A store writes its bytes in the lanes
of its mask, and no other byte but in the undo log; a `st.sf` fills its word, and a change of a full/empty bit is that bit's
alone; an atomic writes the operation's value and returns the old one. A result reaches its register if that still awaits
it: a scalar word, the row of a `vld` in the lanes of its mask, a lane of a `vgat`, the bit of a `fe.tst`; what lies in an
absent sector of the Shelf comes with that sector. -/
def Sys2Proof.Claims.AccessesPerform : Prop :=
  ∀ (s : State) (n : Node) (l : Later),
    (s.core n).later.find? (·.id == l.id) = some l →
    let c := s.core n
    let t := performLater s n l.id
    let k := s.ctx n l.ctx
    let u := t.ctx n l.ctx
    let waits : Bool := isFrozen s n || c.later.any fun e =>
      e.ctx == l.ctx && decide (e.id < l.id) && overlaps l.la l.len e.la e.len
    let bs := loadBytes s n l.ctx l.la l.len
    let wanted : Prop := k.fires = l.fires ∧ k.pending.any (fun p => p.2 == .request l.id) = true
    let plain : Prop := memWf c.mem.mem = true ∧ ∀ i, i < l.len → inLog c (l.la + i) 1 = false
      ∧ (laRange (l.la + i) = some .scratch ∨ laRange (l.la + i) = some .acc ∨ laRange (l.la + i) = some .shelf)
    let absent : Prop := laRange l.la = some .shelf ∧ c.hasSector l.la = false
    let sector := l.la / 128 * 128
    let kept (but : List Part) : Prop := KeptAt n l.ctx (.cur :: .later :: but) s t
    let writes : List Part := storeParts ++ logParts
    let reads : List Part := [.own, .l1, .logged, .beat, .fills]
    let bitIs (on : Bool) : Prop := (t.core n).mem.full.contains l.la = on
      ∧ ∀ x, x ≠ l.la → (t.core n).mem.full.contains x = c.mem.full.contains x
    (waits = true → t = s)
      ∧ (waits = false → (t.core n).later = c.later.filter (·.id ≠ l.id)
        ∧ (∀ new p, l.what = .store new p → l.len = new.length → new.length ≤ 128 → plain →
            kept writes ∧ OtherBytesKept n l.la new.length s t
            ∧ ∀ i (h : i < new.length),
                laByte (t.core n) (l.la + i) = if p.getLsbD (i / 4) then new[i] else laByte c (l.la + i))
        ∧ (∀ w, l.what = .fill w → l.len = 4 → plain →
            kept (.full :: writes) ∧ OtherBytesKept n l.la 4 s t ∧ BytesAt t n l.la (leBytes 4 w.toNat) ∧ bitIs true)
        ∧ (∀ on, l.what = .bit on → l.len = 4 → plain →
            kept (.full :: writes) ∧ OtherBytesKept n 0 0 s t ∧ bitIs on)
        ∧ (∀ r op uns sb sc, l.what = .amo r (AmoOp.code op) uns sb sc → l.len = 4 ∨ l.len = 8 → plain →
            let w := l.len
            let old := oldValue c l.la w
            let new := amoValue op uns old (sb.setWidth (8 * w)) (sc.setWidth (8 * w))
            let result := if uns then old.setWidth 64 else old.signExtend 64
            kept (.own :: writes)
            ∧ (op ≠ .cas ∨ new ≠ old → OtherBytesKept n l.la w s t ∧ BytesAt t n l.la (leBytes w new.toNat))
            ∧ (op = .cas → new = old → OtherBytesKept n 0 0 s t)
            ∧ (¬wanted → u = k) ∧ (wanted → u = (k.fillS l.id r result).arrived l.id))
        ∧ (∀ r, l.what = .test r → kept [.own] ∧ (¬wanted → u = k)
            ∧ (wanted → u = (k.fillS l.id r (if c.mem.full.contains l.la then 1 else 0)).arrived l.id))
        ∧ (∀ d signed, l.what = .load d signed → 0 < l.len → l.la % 128 + l.len ≤ 128 →
            let v := extendBytes bs signed
            kept reads ∧ (absent → sector ∈ (t.core n).mem.fills) ∧ (¬wanted → u = k)
            ∧ (wanted → ¬absent → u = (k.fillS l.id d v).arrived l.id)
            ∧ (wanted → absent → d ≠ 0 → u = ((k.fillS l.id d v).arrived l.id).await (.s d) (.sector sector)))
        ∧ (∀ r p, l.what = .row r p → l.len = 128 → l.la % 128 = 0 →
            let new (j : Nat) : Option Byte := if p.getLsbD (j / 4) then bs[j]? else none
            kept reads ∧ (absent → sector ∈ (t.core n).mem.fills) ∧ (¬wanted → u = k)
            ∧ (wanted → ¬absent → LanesFilled k u l.id r new [])
            ∧ (wanted → absent → LanesFilled k u l.id r new [(.v r, .sector sector)]))
        ∧ (∀ r i, l.what = .lane r i → i < 32 → l.len = 4 → l.la % 4 = 0 →
            let new (j : Nat) : Option Byte := if j / 4 = i then bs[j % 4]? else none
            kept reads ∧ (absent → sector ∈ (t.core n).mem.fills) ∧ (¬wanted → u = k)
            ∧ (wanted → ¬absent → LanesFilled k u l.id r new [])
            ∧ (wanted → absent → LanesFilled k u l.id r new [(.v r, .sector sector)])))

/-- R320, R164: a store that needs a record blocks its context in WAIT_LOG while the log stalls, and writes nothing. -/
def Sys2Proof.Claims.StoresWaitForTheLog : Prop :=
  ∀ (b a : SReg) (off : BitVec 16),
    ∀ p ∈ [(Instr.stN8 b a off, 1), (.stN16 b a off, 2), (.stN32 b a off, 4), (.stN64 b a off, 8)],
      ∀ s : State, canStart s p.1 = true →
        localFault s s.cur.core s.cur.ctx .store (s.sr a + off.signExtend 64) p.2 = none →
        sourceBusy s (s.sr a + off.signExtend 64).toNat p.2 = false →
        logStalls s.cn (s.sr a + off.signExtend 64).toNat p.2 = true →
        ∃ t, exec p.1 s = .next t ∧ Kept [.names] s t ∧ t.cc = blockedAs s p.1 .waitLog 0

/-- R318–R320: the first write of an interval to a resident granule writes the record of R319 before the write, raises
FILL, and raises a seal request when FILL reaches the request point. UNREC is set once FILL has reached CAP, or the stall
point under DEGRADE, and from then on no record is written. -/
def Obligations.FirstStoreLogging : Prop :=
  ∀ (s : State) (n : Node) (g : Nat),
    let c := s.core n
    let at_ := c.rcv.logBase.toNat + 0x40000 + 144 * c.rcv.logFill
    let t := logGranule s n g
    let full : Prop := logUnrec c = true ∨ logCap c ≤ c.rcv.logFill
      ∨ logDegrades c = true ∧ logStallPoint c ≤ c.rcv.logFill
    memWf c.mem.mem = true → needsRecord c g = true → laRange at_ = some .shelf → laRange (at_ + 143) = some .shelf →
    (full → (t.core n).rcv = { c.rcv with logCtl := c.rcv.logCtl ||| 0x8000 } ∧ (t.core n).mem.mem = c.mem.mem
      ∧ t.net = s.net)
    ∧ (¬full →
      BytesAt t n at_ (leBytes 4 c.rcv.rin.toNat ++ leBytes 4 g)
      ∧ (laRange g = some .shelf → BytesAt t n (at_ + 8) (leBytes 4 0))
      ∧ (laRange g = some .scratch → ∀ j : Fin 32,
          (BitVec.ofNat 32 (leNat (laBytes (t.core n) (at_ + 8) 4))).getLsbD j = c.mem.full.contains (g + 4 * j.val))
      ∧ BytesAt t n (at_ + 12) (leBytes 2 c.rcv.logFill ++ [if laRange g = some .scratch then 0 else 1, 0])
      ∧ BytesAt t n (at_ + 16) (laBytes c g 128)
      ∧ (t.core n).rcv = { c.rcv with
          logFill := c.rcv.logFill + 1
          logCtl := if logCap c ≤ c.rcv.logFill + 1 ∨ logDegrades c = true ∧ logStallPoint c ≤ c.rcv.logFill + 1 then
            c.rcv.logCtl ||| 0x8000 else c.rcv.logCtl }
      ∧ g ∈ (t.core n).mem.logged
      ∧ (c.rcv.logFill + 1 ≠ logRequestPoint c → t.net = s.net)
      ∧ ∀ d, c.rcv.logFill + 1 = logRequestPoint c → domainOf s n = some d →
          (t.domain d).req = true ∧ t.net.length = s.net.length + (domCores s d).length)

/-- R166: `pf` brings the own-Shelf line of its address into the L1, where that line lies in the live Shelf and touches
neither an armed range nor an expired granule; otherwise it only goes on. It never traps. -/
def Sys2Proof.Claims.Prefetch : Prop :=
  ∀ (a : SReg) (off : BitVec 16) (s : State), canStart s (.pf a off) = true →
    let ea := (s.sr a + off.signExtend 64).toNat
    let line := ea / 512 * 512
    let fills : Prop := laRange ea = some .shelf ∧ ea < shelfTop s.cn ∧ anyArmed s.cn line 512 = false
      ∧ anyExpired s s.cur.core line 512 = false
    (¬fills → CompletesAt s (.pf a off) (goneOn s s.cc) [] fun _ => True)
      ∧ (fills → CompletesAt s (.pf a off) (goneOn s s.cc) [.l1, .copiesShr, .logged, .beat] fun t =>
          ∀ j : Fin 4, t.cn.hasSector (line + 128 * j.val) = true)

/-- R181: `l1.wb` cleans the own-Shelf lines that overlap its range and keeps them valid; `l1.inv` makes them invalid,
and with a GA drops this L1's copies, with the lines that held them; `l2.inv` drops those of the cluster's slice. A GA
where none is allowed or that names nothing, an LA where none is allowed, and a length of more than 32 bits are refused,
and nothing else. -/
def Sys2Proof.Claims.CacheMaintenance : Prop :=
  ∀ (a b : SReg) (s : State),
    let base := (s.sr a).toNat
    let len := (s.sr b).toNat
    let local_ : Prop := (s.sr a).getLsbD 63 = false
    let inside (l : L1Line) : Prop := l.own = true
      ∧ (len = 0 ∨ 0x40000000 + 512 * l.line < base + len ∧ base < 0x40000000 + 512 * l.line + 512)
    let copyInside (x : ShrCopy) : Prop := len = 0 ∨ ∃ p, physGa s (nodeWafer s.cur.core) (s.sr a) = some p
      ∧ x.ga / 512 * 512 < p.toNat + len ∧ p.toNat < x.ga / 512 * 512 + 512
    (canStart s (.l1Wb a b) = true → local_ → len < 2 ^ 32 →
      CompletesAt s (.l1Wb a b) (goneOn s s.cc) [.l1] fun t =>
        t.cn.mem.l1.map (fun l => (l.line, l.present)) = s.cn.mem.l1.map (fun l => (l.line, l.present))
          ∧ ∀ l ∈ t.cn.mem.l1, (inside l → l.dirty = 0) ∧ (¬inside l → l ∈ s.cn.mem.l1))
    ∧ (canStart s (.l1Inv a b) = true → local_ → len < 2 ^ 32 →
      CompletesAt s (.l1Inv a b) (goneOn s s.cc) [.l1, .logged] fun t =>
        ∀ l, l ∈ t.cn.mem.l1 ↔ l ∈ s.cn.mem.l1 ∧ ¬inside l)
    ∧ (canStart s (.l1Inv a b) = true → ¬local_ → gaBad s (s.sr a) = false → len < 2 ^ 32 →
      CompletesAt s (.l1Inv a b) (goneOn s s.cc) [.copiesShr, .l1] fun t =>
        (∀ x, x ∈ t.cn.mem.shr ↔ x ∈ s.cn.mem.shr ∧ ¬copyInside x)
        ∧ ∀ l, l ∈ t.cn.mem.l1 ↔ l ∈ s.cn.mem.l1 ∧ (l.own = true ∨ ∃ x ∈ t.cn.mem.shr, x.ga / 512 = l.line))
    ∧ (canStart s (.l2Inv a b) = true → ¬local_ → gaBad s (s.sr a) = false → len < 2 ^ 32 →
      CompletesAt s (.l2Inv a b) (goneOn s s.cc) [.hubs] fun t =>
        let h := hubOf s.cur.core
        (∀ x, x ∈ (t.hub h).l2 ↔ x ∈ (s.hub h).l2 ∧ ¬copyInside x)
          ∧ ∀ k, t.hub k = if k = h then { s.hub h with l2 := (t.hub h).l2 } else s.hub k)
    ∧ (s.cur.ctx ≠ 7 →
      (canStart s (.l1Wb a b) = true → ¬local_ → TrapsAt s (.l1Wb a b) 0x04 (s.sr a))
      ∧ (canStart s (.l2Inv a b) = true → local_ → TrapsAt s (.l2Inv a b) 0x04 (s.sr a))
      ∧ (canStart s (.l1Inv a b) = true → ¬local_ → gaBad s (s.sr a) = true → TrapsAt s (.l1Inv a b) 0x04 (s.sr a))
      ∧ (canStart s (.l2Inv a b) = true → ¬local_ → gaBad s (s.sr a) = true → TrapsAt s (.l2Inv a b) 0x04 (s.sr a))
      ∧ (canStart s (.l1Wb a b) = true → local_ → 2 ^ 32 ≤ len → TrapsAt s (.l1Wb a b) 0x04 (s.sr b))
      ∧ (canStart s (.l1Inv a b) = true → local_ ∨ gaBad s (s.sr a) = false → 2 ^ 32 ≤ len →
          TrapsAt s (.l1Inv a b) 0x04 (s.sr b))
      ∧ (canStart s (.l2Inv a b) = true → ¬local_ → gaBad s (s.sr a) = false → 2 ^ 32 ≤ len →
          TrapsAt s (.l2Inv a b) 0x04 (s.sr b)))

/-- R165, R342, R351: the sector that a load awaits arrives: it is present in the L1, and the registers that awaited it
hold their values. A sector that no load awaits does nothing. One whose beat meets an armed injection does not arrive. -/
def Sys2Proof.Claims.SectorFills : Prop :=
  ∀ (s : State) (c : Node) (sector : Nat),
    ((s.core c).mem.fills.contains sector = false → exec (.sectorFillArrive c sector) s = .next s)
    ∧ ((s.core c).mem.fills.contains sector = true →
        (injection (s.modCore c fun k => k.touch sector false)).isSome = true →
      exec (.sectorFillArrive c sector) s = .next (failFill s (s.modCore c fun k => k.touch sector false) c sector))
    ∧ ((s.core c).mem.fills.contains sector = true → laRange sector = some .shelf →
        injection (s.modCore c fun k => k.touch sector false) = none →
      ∃ t, exec (.sectorFillArrive c sector) s = .next t
        ∧ (∀ x, KeptAt c x [.own, .otherContexts, .fills, .l1, .copiesShr, .logged, .beat] s t)
        ∧ (t.core c).mem.fills = (s.core c).mem.fills.filter (fun f => f ≠ sector)
        ∧ (t.core c).hasSector sector = true
        ∧ ∀ x, t.ctx c x
            = { s.ctx c x with pending := (s.ctx c x).pending.filter (fun p => p.2 ≠ .sector sector) })

/-- R167, R133: a full/empty form whose condition holds reads or writes its word and the word's bit, and changes no
other bit: `ld.wf` keeps it full, `ld.wfe` empties it, `st.wef` and `st.sf` fill it, `fe.set` and `fe.clr` write it
alone, `fe.tst` reads it. A waiting form that issues lets those that blocked before it go first; the others may perform after
their issue (R193). -/
def Sys2Proof.Claims.FullEmptyForms : Prop :=
  ∀ (d b a : SReg) (off : BitVec 16) (s : State),
    let ea := s.sr a + off.signExtend 64
    let w := ea.toNat
    let word : Word := BitVec.ofNat 64 (leNat (laBytes s.cn w 4))
    let bitIs (on : Bool) (t : State) : Prop := t.cn.mem.full.contains w = on
      ∧ ∀ x, x ≠ w → t.cn.mem.full.contains x = s.cn.mem.full.contains x
    memWf s.cn.mem.mem = true → ∀ i, Ready s i .fe ea 4 →
    (i = .ldWf d a off → isFull s w = true → behind s (.full w) .waitFe = false →
      CompletesAt s i (goneOn s (s.cc.setSreg d word)) [] fun _ => True)
    ∧ (i = .ldWfe d a off → isFull s w = true → behind s (.full w) .waitFe = false → readersWait s w = false →
      logStalls s.cn w 4 = false → StoresAt s i (goneOn s (s.cc.setSreg d word)) w 4 [] [.full] (bitIs false))
    ∧ (i = .stWef b a off → isFull s w = false → behind s (.empty w) .waitFe = false → Clear s ea 4 →
      StoresAt s i (goneOn s s.cc) w 4 (leBytes 4 (s.sr b).toNat) [.full] (bitIs true))
    ∧ (i = .stSf b a off → Clear s ea 4 →
      (defers s w 4 = false → StoresAt s i (goneOn s s.cc) w 4 (leBytes 4 (s.sr b).toNat) [.full] (bitIs true))
      ∧ (defers s w 4 = true → DefersAt s i w 4 (.fill (s.sr b)) fun _ => goneOn s s.cc))
    ∧ (∀ on, i = (if on then .feSet a off else .feClr a off) → logStalls s.cn w 4 = false →
      (defers s w 4 = false → StoresAt s i (goneOn s s.cc) w 4 [] [.full] (bitIs on))
      ∧ (defers s w 4 = true → DefersAt s i w 4 (.bit on) fun _ => goneOn s s.cc))
    ∧ (i = .feTst d a off →
      (d = 0 ∨ defers s w 4 = false →
        CompletesAt s i (goneOn s (s.cc.setSreg d (if s.cn.mem.full.contains w then 1 else 0))) [] fun _ => True)
      ∧ (d ≠ 0 → defers s w 4 = true → CompletesAt s i (pendingOn s d s.nextId) [.later, .names] fun t =>
          t.cn.later = s.cn.later ++ [laterOf s w 4 (.test d)]))

/-- R167, R168: a full/empty form whose condition does not hold blocks in WAIT_FE, with one watched-word entry for its
word; when that would be a seventeenth, it takes `E_WATCH` instead. -/
def Sys2Proof.Claims.FullEmptyWaits : Prop :=
  ∀ (d b a : SReg) (off : BitVec 16) (s : State),
    let ea := s.sr a + off.signExtend 64
    let w := ea.toNat
    ∀ i, Ready s i .fe ea 4 → sourceBusy s w 4 = false →
      (i = .ldWf d a off ∨ i = .ldWfe d a off) ∧ isFull s w = false ∨ i = .stWef b a off ∧ isFull s w = true →
      (s.cn.sync.watch.contains w = true ∨ s.cn.sync.watch.length < 16 →
        ∃ t, exec i s = .next t ∧ Kept [.watch, .names] s t ∧ t.cc = blockedAs s i .waitFe w
          ∧ w ∈ t.cn.sync.watch ∧ t.cn.sync.watch.length ≤ s.cn.sync.watch.length + 1)
      ∧ (s.cn.sync.watch.contains w = false → 16 ≤ s.cn.sync.watch.length → s.cur.ctx ≠ 7 →
        TrapsAt s i 0x0C (BitVec.ofNat 64 w))

/-- R170, R171: a local atomic reads its word, writes the operation's value of it, and takes the old value into `sd`,
sign-extended when U = 0 and zero-extended when U = 1. A `cas` that changes nothing writes nothing and logs nothing. It may
perform after its issue (R193), a `cas` only where it needs no undo-log record. -/
def Obligations.LocalAtomics : Prop :=
  ∀ (op : AmoOp) (d b c a : SReg) (off : BitVec 16) (uns wide : Bool) (s : State),
    let i := amoForm op d b c a off uns wide false
    let w := if wide then 8 else 4
    let ea := s.sr a + off.signExtend 64
    let old := oldValue s.cn ea.toNat w
    let new := amoValue op uns old ((s.sr b).setWidth (8 * w)) ((s.sr c).setWidth (8 * w))
    let writes : Prop := op ≠ .cas ∨ new ≠ old
    let k := goneOn s (s.cc.setSreg d (if uns then old.setWidth 64 else old.signExtend 64))
    let puts : Prop := defers s ea.toNat w = true ∧ (op = .cas → Unlogged s ea.toNat w)
    memWf s.cn.mem.mem = true → Ready s i .atomic ea w → sourceBusy s ea.toNat w = false →
      (¬puts → writes → logStalls s.cn ea.toNat w = false →
        StoresAt s i k ea.toNat w (leBytes w new.toNat) [] fun _ => True)
      ∧ (¬puts → ¬writes → CompletesAt s i k [.l1, .copiesShr, .logged, .beat, .queue] fun _ => True)
      ∧ (puts → (writes → logStalls s.cn ea.toNat w = false) →
        DefersAt s i ea.toNat w (.amo d op.code uns (s.sr b) (if op = .cas then s.sr c else 0)) (pendingOn s d))

/-- R108, R159, R160, R162, R334: what a local access is checked for, and that the checked forms trap there with no
effect. -/
def Obligations.LocalAccessFaults : Prop :=
  Sys2Proof.Claims.LocalAccessChecks
    ∧ Sys2Proof.Claims.LocalAccessTraps

/-- R164, R165, R167, R171, R193, R194, R239, R240, R318, R320: stores, stores that the undo log holds back, and when a
store or a load that its core put off performs. -/
def Obligations.LocalStores : Prop :=
  Sys2Proof.Claims.Stores
    ∧ Sys2Proof.Claims.StoresWaitForTheLog
    ∧ Sys2Proof.Claims.AccessesPerform

/-- R133, R167, R168: the full/empty forms, and those that wait. -/
def Obligations.FullEmptyAccesses : Prop :=
  Sys2Proof.Claims.FullEmptyForms
    ∧ Sys2Proof.Claims.FullEmptyWaits


/-! ### Remote accesses -/

namespace Sys2Proof.Claims

/-- Nothing changes but the listed parts; of the contexts of core `n` only those that the list lets change. -/
def EventKept (n : Node) (but : List Part) (s t : State) : Prop := ∀ x, KeptAt n x but s t

/-- The messages that leave, in order, and that `m` is no longer in flight. -/
def Delivered (s t : State) (m : Nat) (out : List MsgKind) : Prop :=
  t.nextId = s.nextId + out.length ∧ ∃ l, t.net = s.net.filter (fun x => x.id ≠ m) ++ l ∧ l.map (·.kind) = out

/-- The messages that leave, in order. -/
def Sent (s t : State) (out : List MsgKind) : Prop :=
  t.nextId = s.nextId + out.length ∧ ∃ l, t.net = s.net ++ l ∧ l.map (·.kind) = out

/-- R336, R335: the trap CSRs describe a trap with `pend` others behind it. -/
structure Described (c : Core) (t : PTrap) (pend : Nat) : Prop where
  code : c.rcv.trapCause.extractLsb' 0 8 = t.code
  reported : c.rcv.trapCause.getLsbD 8 = t.reported
  orphan : c.rcv.trapCause.getLsbD 9 = t.orphan
  pend : c.rcv.trapCause.extractLsb' 16 8 = BitVec.ofNat 8 pend
  pc : c.rcv.trapPc = t.pc.setWidth 64
  val : c.rcv.trapVal = t.val
  rpc : c.rcv.trapCtx.extractLsb' 0 32 = t.rpc
  ctx : (c.rcv.trapCtx.extractLsb' 32 3).toNat = match t.ctx with | some x => x.val | none => 7
  kill : c.rcv.trapCtx.getLsbD 40 = false

/-- R345: what a debug freeze changes: queues spill, readouts stream to the host, the domain is frozen. -/
def freezeParts : List Part := [.chans, .bytes, .otherCores, .modules, .domains]

/-- R162, R337, R338, R350: what a report does to a core, the context that it is for being `k` before: an orphan where that
handler has ended; kept for a context that is trapped, blocked or awaits a Dealer; otherwise taken at once, by context 7 with a
freeze of its domain. -/
def Reports (s t : State) (n : Node) (x : Fin 8) (k : Ctx) (but : List Part) (fires id : Nat) (code : BitVec 8)
    (pc : BitVec 32) (val : Word) : Prop :=
  let traps := (s.core n).rcv.traps
  let ended : Prop := k.st = .free ∨ k.fires ≠ fires
  let keeps : Prop := k.st = .trapped ∨ k.st.blocked = true ∨ k.kick.isSome = true
  let p : PTrap := { code := code, reported := true, orphan := false, pc := pc, val := val, rpc := k.pc, ctx := some x
                     stamp := cycleOf s n }
  (ended → KeptAt n x (.own :: .traps :: but) s t ∧ t.ctx n x = k
    ∧ (t.core n).rcv.traps = traps ++ [{ p with orphan := true, rpc := 0, ctx := none, pos := id }])
  ∧ (¬ended → keeps → KeptAt n x (.own :: but) s t
    ∧ t.ctx n x = { k with reports := k.reports ++ [(id, code, pc, val)] })
  ∧ (¬ended → ¬keeps → x ≠ 7 → KeptAt n x ([.own, .traps, .watch, .queue, .mxDone] ++ but) s t
    ∧ t.ctx n x = { k with st := .trapped, blocked := none } ∧ (t.core n).rcv.traps = traps ++ [p]
    ∧ (ldwcTaken (s.core n) x = none → (t.core n).mx.queue = (s.core n).mx.queue))
  ∧ (¬ended → ¬keeps → x = 7 →
    KeptAt n 7 ([.own, .trapRegs, .watch, .queue, .mxDone] ++ freezeParts ++ but) s t ∧ t.ctx n 7 = k
    ∧ Described (t.core n) p traps.length
    ∧ ∀ d, domainOf s n = some d → (s.domain d).phase.pastCheck = false → (t.domain d).frozen = true)

/-- R162: the entry that the issuing context takes in the put tracker. -/
def ownEntry (s : State) (ga : Word) (kind : TrackKind) : Track :=
  { id := s.nextId, ctx := s.cur.ctx, fires := s.cc.fires, pc := s.cur.pc, ga := ga, kind := kind }

/-- The origin that an answer to the issuing instruction goes back to. -/
def ownOrigin (s : State) : Origin := { node := s.cur.core, ctx := s.cur.ctx.val, id := s.nextId }

/-- R162, R172, R173: the context goes on with its result register awaiting the answer; `s0` awaits nothing. -/
def awaits (s : State) (r : RegName) : Ctx :=
  goneOn s (if r = .s 0 then s.cc
    else { s.cc with pending := s.cc.pending.filter (fun p => p.1 ≠ r) ++ [(r, .request s.nextId)] })

/-- R162, R316: a request takes a tracker entry and leaves with the tags of its domain as the message `msg` to the home
of its GA, or is refused at the wafer's edge where no path leads there (R365). -/
def Requests (s : State) (i : Instr) (k : Ctx) (ga : Word) (kind : TrackKind) (msg : Word → MsgKind) : Prop :=
  CompletesAt s i k [.net, .names, .tracker] fun t =>
    t.cn.comm.tracker = s.cn.comm.tracker ++ [ownEntry s ga kind] ∧ t.nextId = s.nextId + 1
      ∧ ∃ m, t.net = s.net ++ [m] ∧ m.id = s.nextId
        ∧ m.kind = (match physGa s (nodeWafer s.cur.core) ga with
            | some p => msg p
            | none => .response s.cur.core s.nextId (.refused 0x05))
        ∧ (isCore s.cur.core = true → m.dom = domainOf s s.cur.core ∧ m.rin8 = s.cn.rcv.rin.setWidth 8
            ∧ m.rb4 = s.cn.rcv.rbCount.setWidth 4)

end Sys2Proof.Claims

/-- R85, R159: a global form adds its offset to the low 32 bits of its address alone; an agent refuses a GA with bit 63
clear, a nonzero bit in [42:32], a number that names no core, hub or bridge, or a wafer outside the pod. -/
def Sys2Proof.Claims.GlobalAddresses : Prop :=
  (∀ (base : Word) (off : BitVec 16),
    (globalGa base off).extractLsb' 32 32 = base.extractLsb' 32 32
      ∧ (globalGa base off).extractLsb' 0 32 = base.extractLsb' 0 32 + off.signExtend 32)
    ∧ (∀ (s : State) (w : Nat) (ga : Word), gaBadAt s w ga = false ↔
        ga.getLsbD 63 = true ∧ ga.extractLsb' 32 11 = 0
          ∧ (let num := (ga.extractLsb' 43 16).toNat
             num < 0xF3C0 ∨ 0xFF00 ≤ num ∧ num < 0xFF20)
          ∧ (s.module w).members.getLsbD (ga.extractLsb' 59 4).toNat = true)
    ∧ ∀ (s : State) (ga : Word) (size : Nat),
        (ga.toNat % size ≠ 0 → gaFault s ga size = some ⟨0x03, ga⟩)
          ∧ (ga.toNat % size = 0 → gaBad s ga = true → gaFault s ga size = some ⟨0x04, ga⟩)
          ∧ (ga.toNat % size = 0 → gaBad s ga = false → gaFault s ga size = none)

/-- R172–R174, R162: `get`, `getv`, `put`, `putv` and the `.g` atomics take a tracker entry and send their request; the
context goes on, and a result register awaits the answer. -/
def Sys2Proof.Claims.RemoteRequests : Prop :=
  ∀ (d b c a : SReg) (v : VReg) (off : BitVec 16) (wide : Bool) (s : State),
    let n := if wide then 8 else 4
    let ga := globalGa (s.sr a) off
    let o := ownOrigin s
    (canStart s (.get d a off wide) = true → gaFault s ga n = none → shrCopies s ga = [] →
      Requests s (.get d a off wide) (awaits s (.s d)) ga (.getS d n) fun p => .read o p n)
    ∧ (canStart s (.getv v a off) = true → gaFault s ga 128 = none → shrCopies s ga = [] →
      Requests s (.getv v a off) (awaits s (.v v)) ga (.getV v) fun p => .read o p 128)
    ∧ (∀ sf, canStart s (.put b a off wide sf) = true → gaFault s ga n = none →
      Requests s (.put b a off wide sf) (goneOn s s.cc) ga .put fun p => .write o p (leBytes n (s.sr b).toNat) sf)
    ∧ (∀ sf, canStart s (.putv v a off sf) = true → gaFault s ga 128 = none →
      Requests s (.putv v a off sf) (goneOn s s.cc) ga .put fun p =>
        .write o p (leBytes 128 (s.vr v).data.toNat) sf)
    ∧ ∀ op uns, canStart s (amoForm op d b c a off uns wide true) = true → gaFault s ga n = none →
      Requests s (amoForm op d b c a off uns wide true) (awaits s (.s d)) ga (.atomic d n uns) fun p =>
        .atomic o p op.code n uns (s.sr b) (s.sr (if op = .cas then c else 0))

/-- R98, R173: a read that may be served from a cached copy sends its request or is answered from one of the copies, which
the L1 then holds. -/
def Sys2Proof.Claims.SharedReads : Prop :=
  ∀ (d a : SReg) (v : VReg) (off : BitVec 16) (wide : Bool) (s : State),
    let ga := globalGa (s.sr a) off
    let o := ownOrigin s
    ∀ p ∈ [(Instr.get d a off wide, RegName.s d, TrackKind.getS d (if wide then 8 else 4), if wide then 8 else 4),
        (.getv v a off, .v v, .getV v, 128)],
      canStart s p.1 = true → gaFault s ga p.2.2.2 = none →
        Requests s p.1 (awaits s p.2.1) ga p.2.2.1 (fun q => .read o q p.2.2.2)
          ∨ ∃ x ∈ shrCopies s ga,
              CompletesAt s p.1 (awaits s p.2.1) [.net, .names, .tracker, .l1, .copiesShr, .logged] fun t =>
              t.cn.comm.tracker = s.cn.comm.tracker ++ [ownEntry s ga p.2.2.1] ∧ (∃ y ∈ t.cn.mem.shr, y.data = x)
                ∧ Sent s t [.response s.cur.core s.nextId
                    (.data (((leBytes 128 x.toNat).drop (ga.toNat % 128)).take p.2.2.2))]

/-- R85, R108, R159, R334: a global form with a misaligned GA takes `E_ALIGN`, and one with a GA that R85 refuses takes
`E_PERM`, precisely, with the GA as TRAP_VAL. -/
def Sys2Proof.Claims.GlobalAccessTraps : Prop :=
  ∀ (d b c a : SReg) (v : VReg) (off : BitVec 16) (wide sf uns : Bool) (op : AmoOp) (s : State),
    let n := if wide then 8 else 4
    let ga := globalGa (s.sr a) off
    ∀ p ∈ [(Instr.get d a off wide, n), (.getv v a off, 128), (.put b a off wide sf, n), (.putv v a off sf, 128),
        (amoForm op d b c a off uns wide true, n)],
      canStart s p.1 = true → s.cur.ctx ≠ 7 →
        (ga.toNat % p.2 ≠ 0 → TrapsAt s p.1 0x03 ga)
          ∧ (ga.toNat % p.2 = 0 → gaBad s ga = true → TrapsAt s p.1 0x04 ga)

/-- R175, R176: `put.h` and `put.k` send their payload in 128-byte-aligned pieces, each byte of it in exactly one, under
one tracker entry. The source is read when the instruction issues, or later: then a 128-byte granule of it at once for every
piece of the payload, unless a part of it is armed or has expired by then, which ends the payload and is reported. -/
def Obligations.Payloads : Prop :=
  (∀ a len j, j < len → ∃ p ∈ pieces a len, p.1 ≤ j ∧ j < p.1 + p.2 ∧ (a + p.1) / 128 = (a + p.1 + p.2 - 1) / 128
      ∧ ∀ q ∈ pieces a len, q.1 ≤ j ∧ j < q.1 + q.2 → q = p)
    ∧ (∀ (b a c : SReg) (h : Fin 32) (k : Fin 64) (s : State) (ga : Word),
      physGa s (nodeWafer s.cur.core) (s.sr a) = some ga → payloadFault s (s.sr b) (s.sr a) (s.sr c) = none →
        ∀ p ∈ [(Instr.putH b a c h, true, h.val), (.putK b a c k, false, k.val)], canStart s p.1 = true →
          let ps := pieces (gaLa (s.sr a)) (s.sr c).toNat
          let la (q : Nat × Nat) : Nat := (s.sr b).toNat + q.1
          let piece (q : Nat × Nat) (bs : List Byte) : MsgKind :=
            .piece (ownOrigin s) (ga + BitVec.ofNat 64 q.1) bs ga (s.sr c).toNat p.2.1 p.2.2 false
          (s.cur.late = false →
            CompletesAt s p.1 (goneOn s s.cc) [.net, .names, .tracker, .l1, .copiesShr, .logged, .beat] fun t =>
              t.cn.comm.tracker = s.cn.comm.tracker ++ [ownEntry s (s.sr a) .put]
                ∧ Sent s t (ps.map fun q => piece q (laBytes s.cn (la q) q.2)))
          ∧ (s.cur.late = true → (∀ m ∈ s.net, m.id < s.nextId) →
            CompletesAt s p.1 (goneOn s s.cc) [.net, .names, .tracker] fun t =>
              t.cn.comm.tracker = s.cn.comm.tracker ++ [ownEntry s (s.sr a) .put]
                ∧ t.nextId = s.nextId + ps.length
                ∧ ∃ l, t.net = s.net ++ l ∧ l.map (·.kind) = ps.map (fun q => piece q (List.replicate q.2 0))
                  ∧ l.map (·.unread) = ps.map fun q => some (la q, granules (la q) q.2)))
    ∧ ∀ (s : State) (id : Nat) (msg : Msg) (o : Origin) (ga base : Word) (bs : List Byte) (len h la g : Nat) (gs : List Nat)
      (hd adm : Bool),
      message s id = some msg → msg.kind = .piece o ga bs base len hd h adm → msg.unread = some (la, g :: gs) →
        let c := s.core o.node
        let t := readPiece s id
        let part (y : Msg) (p : Nat × Nat) : Prop := y ∈ s.net ∧ y.wants (2 * o.id) g = some p
        let armed : Prop := ∃ y p, part y p ∧ anyArmed c p.1 p.2 = true
        let old : Prop := ∃ y p, part y p ∧ anyExpired s o.node p.1 p.2 = true
        (isFrozen s o.node = true → t = s)
        ∧ (isFrozen s o.node = false → armed ∨ old → ∃ code, EventKept o.node [.net, .names] s t
          ∧ (code = 0x07 ∧ armed ∨ code = 0x0A ∧ old)
          ∧ (∃ r, t.net.getLast? = some r ∧ r.kind = .response o.node o.id (.refused code))
          ∧ ∀ y ∈ t.net, pieceOf y.kind ≠ some (2 * o.id))
        ∧ (isFrozen s o.node = false → ¬armed → ¬old →
          EventKept o.node [.net, .l1, .copiesShr, .logged, .beat] s t ∧ t.net.length = s.net.length
          ∧ ∀ j (_ : j < s.net.length) (_ : j < t.net.length),
            (s.net[j].wants (2 * o.id) g = none → t.net[j] = s.net[j])
            ∧ ∀ o' ga' bs' b' l' hd' h' adm' la' gs', s.net[j].kind = .piece o' ga' bs' b' l' hd' h' adm' → o'.id = o.id →
              s.net[j].unread = some (la', gs') → g ∈ gs' →
              ∃ new, t.net[j] = { s.net[j] with
                  kind := .piece o' ga' new b' l' hd' h' adm'
                  unread := if (gs'.filter (· ≠ g)).isEmpty then none else some (la', gs'.filter (· ≠ g)) }
                ∧ new.length = bs'.length
                ∧ ∀ i (_ : i < bs'.length) (_ : i < new.length),
                    new[i] = if g ≤ la' + i ∧ la' + i < g + 128 then laByte c (la' + i) else bs'[i])

/-- R175, R369: the faults of a payload, in order: alignment of source, destination and length; the GA; the length; the
source, which lies in the scratchpad or the Shelf and is checked as a local read. -/
def Sys2Proof.Claims.PayloadTraps : Prop :=
  ∀ (b a c : SReg) (h : Fin 32) (k : Fin 64) (s : State),
    let src := s.sr b
    let dst := s.sr a
    let len := s.sr c
    s.cur.ctx ≠ 7 → ∀ i ∈ [Instr.putH b a c h, .putK b a c k], canStart s i = true →
      (src.toNat % 8 ≠ 0 → TrapsAt s i 0x03 src)
      ∧ (src.toNat % 8 = 0 → dst.toNat % 8 ≠ 0 → TrapsAt s i 0x03 dst)
      ∧ (src.toNat % 8 = 0 → dst.toNat % 8 = 0 → len.toNat % 8 ≠ 0 → TrapsAt s i 0x03 len)
      ∧ (src.toNat % 8 = 0 → dst.toNat % 8 = 0 → len.toNat % 8 = 0 →
          (gaBad s dst = true → TrapsAt s i 0x04 dst)
          ∧ (gaBad s dst = false → len.toNat < 8 ∨ 65536 < len.toNat → TrapsAt s i 0x04 len)
          ∧ (gaBad s dst = false → 8 ≤ len.toNat → len.toNat ≤ 65536 →
              (laRangeOf src.toNat len.toNat ≠ some .scratch → laRangeOf src.toNat len.toNat ≠ some .shelf →
                TrapsAt s i 0x04 src)
              ∧ (laRangeOf src.toNat len.toNat = some .scratch ∨ laRangeOf src.toNat len.toNat = some .shelf →
                ∀ t, localCheck s s.cur.core s.cur.ctx .load src len.toNat = some t → TrapsAt s i t.code t.val)))

/-- R177: `cp.start` queues a copy of its operands with every byte still to move, and goes on. -/
def Sys2Proof.Claims.CopyStarts : Prop :=
  ∀ (a b c : SReg) (k : Fin 64) (s : State), canStart s (.cpStart a b c k) = true →
    copyFault s (s.sr a) (s.sr b) (s.sr c) = none →
      CompletesAt s (.cpStart a b c k) (goneOn s s.cc) [.copies, .names] fun t =>
        ∃ x : Copy, t.cn.comm.copies = s.cn.comm.copies ++ [x] ∧ x.ctx = s.cur.ctx ∧ x.fires = s.cc.fires
          ∧ x.pc = s.cur.pc ∧ x.dst = s.sr a ∧ x.src = s.sr b ∧ x.len = (s.sr c).toNat ∧ x.k = k
          ∧ x.todo = (pieces (bits (s.sr a).toNat 0 32) x.len).map (·.1) ∧ x.id = s.nextId

/-- R177, R369: the faults of `cp.start`: alignment of destination, source and length first. -/
def Sys2Proof.Claims.CopyTraps : Prop :=
  ∀ (a b c : SReg) (k : Fin 64) (s : State),
    let i := Instr.cpStart a b c k
    let aligned : Prop := (s.sr a).toNat % 8 = 0 ∧ (s.sr b).toNat % 8 = 0 ∧ (s.sr c).toNat % 8 = 0
    canStart s i = true → s.cur.ctx ≠ 7 →
      ((s.sr a).toNat % 8 ≠ 0 → TrapsAt s i 0x03 (s.sr a))
      ∧ ((s.sr a).toNat % 8 = 0 → (s.sr b).toNat % 8 ≠ 0 → TrapsAt s i 0x03 (s.sr b))
      ∧ ((s.sr a).toNat % 8 = 0 → (s.sr b).toNat % 8 = 0 → (s.sr c).toNat % 8 ≠ 0 → TrapsAt s i 0x03 (s.sr c))
      ∧ (aligned → (s.sr a).getLsbD 63 = true → gaBad s (s.sr a) = true → TrapsAt s i 0x04 (s.sr a))
      ∧ (aligned → (s.sr a).getLsbD 63 = true → gaBad s (s.sr a) = false → (s.sr b).getLsbD 63 = true →
          (gaBad s (s.sr b) = true → TrapsAt s i 0x04 (s.sr b))
          ∧ (gaBad s (s.sr b) = false → (s.sr c).toNat < 8 ∨ 2 ^ 24 < (s.sr c).toNat → TrapsAt s i 0x04 (s.sr c)))
      ∧ (aligned → (s.sr a).getLsbD 63 = false → (s.sr b).getLsbD 63 = false →
          let check (use : LocalUse) (x : Word) : Option TrapOf :=
            localCheck s s.cur.core s.cur.ctx use x (max (s.sr c).toNat 1)
          (∀ t, check .store (s.sr a) = some t → TrapsAt s i t.code t.val)
          ∧ (∀ t, check .store (s.sr a) = none → check .load (s.sr b) = some t → TrapsAt s i t.code t.val)
          ∧ (check .store (s.sr a) = none → check .load (s.sr b) = none → 8 ≤ (s.sr c).toNat →
              (s.sr c).toNat ≤ 2 ^ 24 → overlaps (s.sr a).toNat (s.sr c).toNat (s.sr b).toNat (s.sr c).toNat = true →
              TrapsAt s i 0x04 (s.sr a)))

/-- R179, R192, R195, R196: `fence` issues at once. It holds back later accesses until the earlier accesses of its
context that its kind names, with homes in its scope, have performed: requests in the tracker, words that may still
reach such a home, and accesses through the local alias port; `lb` keeps the ports of its own core apart in both directions. Only the accesses
of its kind wait. -/
def Obligations.Fences : Prop :=
  (∀ (kind : FenceKind) (sc : Scope) (s : State), canStart s (.fence kind sc) = true →
    CompletesAt s (.fence kind sc) (goneOn s { s.cc with
        fences := (s.cc.fences.filter fun f => f.isOpen s s.cur.core) ++ fenceHoldsOf s kind sc }) []
      fun _ => True)
    ∧ (∀ (kind : FenceKind) (sc : Scope) (s : State),
      fenceHoldsOf s kind sc = { kind := kind, ids := fenceTracks s kind sc ++ fenceWords s kind sc ++ fenceLater s kind
                                 scope := sc }
          :: (if kind = .lb then [{ kind := .lb, ids := (myLater s).map (·.id), ga := true }] else [])
      ∧ (∀ t ∈ s.cn.comm.tracker, (∀ u ∈ s.cn.comm.tracker, u.id = t.id → u = t) →
          let home := homeOf s (nodeWafer s.cur.core) t.ga
          (t.id ∈ fenceTracks s kind sc ↔ t.ctx = s.cur.ctx ∧ inScope s s.cur.core sc home = true
            ∧ (kind = .acq → t.kind ≠ .put) ∧ (kind = .put → t.kind = .put)
            ∧ (kind = .lb → home = s.cur.core)))
      ∧ (∀ l ∈ s.cn.later, (∀ u ∈ s.cn.later, u.id = l.id → u = l) →
          (l.id ∈ fenceLater s kind ↔ l.ctx = s.cur.ctx
            ∧ (kind = .acq ∧ (∀ bs p, l.what ≠ .store bs p) ∧ (∀ w, l.what ≠ .fill w) ∧ (∀ on, l.what ≠ .bit on)
              ∨ kind = .rel ∨ kind = .full)))
      ∧ ∀ id, id ∈ fenceWords s kind sc ↔ (kind = .rel ∨ kind = .full) ∧ (id, s.cur.ctx) ∈ s.cn.comm.out
          ∧ ∃ m ∈ s.net, m.wordName = some id ∧ wordInScope s sc m = true)
    ∧ ∀ (s : State) (i : Instr) (f : FenceHold), f ∈ s.cc.fences →
        (∃ t ∈ s.cn.comm.tracker, t.id ∈ f.ids) ∨ (∃ l ∈ s.cn.later, l.id ∈ f.ids)
          ∨ (∃ m ∈ s.net, ∃ k ∈ f.ids, m.wordName = some k
              ∧ wordMayReach s m (inScope s s.cur.core f.scope) = true) →
        (f.kind = .acq ∨ f.kind = .full ∨ f.kind = .put → isRead i = true ∨ isWrite i = true → canStart s i = false)
          ∧ (f.kind = .rel → isWrite i = true → canStart s i = false)
          ∧ (f.kind = .lb → f.ga = false → localPort i = true → canStart s i = false)
          ∧ (f.kind = .lb → f.ga = true → ownGa s i = true → canStart s i = false)

/-! ### What arrives at a core -/

/-- R173, R161, R162, R291: a read reaches its home: refused with its code, it changes nothing there; otherwise it is
answered with the bytes as they stand, and where its window has SHR the reader's caches keep the sector. A hub and a bridge
answer with the registers of their Dealer, for an agent of a region that it serves, and refuse every other address. -/
def Obligations.RemoteReads : Prop :=
  (∀ (s : State) (m : Nat) (msg : Msg) (o : Origin) (ga : Word) (n : Nat),
    arriving s m = some msg → msg.kind = .read o ga n → isCore (gaNode ga) = true →
      (∀ code, refusal s (gaNode ga) o.node .read (gaLa ga) n = some code →
        ∃ t, exec (.remoteReadArrive m) s = .next t ∧ EventKept (gaNode ga) [.net, .names] s t
          ∧ Delivered s t m [.response o.node o.id (.refused code)])
      ∧ (refusal s (gaNode ga) o.node .read (gaLa ga) n = none →
        ∃ t, exec (.remoteReadArrive m) s = .next t
          ∧ EventKept (gaNode ga) [.net, .names, .l1, .logged, .beat, .copiesShr, .otherCores, .hubs] s t
          ∧ (∀ q, q ≠ gaNode ga → t.core q = { s.core q with mem := { (s.core q).mem with
              shr := (t.core q).mem.shr, l1 := (t.core q).mem.l1, logged := (t.core q).mem.logged } })
          ∧ (∀ q, t.hub q = { s.hub q with l2 := (t.hub q).l2 })
          ∧ Delivered s t m [.response o.node o.id (.data (laBytes (s.core (gaNode ga)) (gaLa ga) n))]
          ∧ (readShared s (gaNode ga) o.node (gaLa ga) n = false →
              EventKept (gaNode ga) [.net, .names, .l1, .copiesShr, .logged, .beat] s t)))
    ∧ ∀ (s : State) (m : Nat) (msg : Msg) (o : Origin) (ga : Word) (n : Nat),
      arriving s m = some msg → msg.kind = .read o ga n → isCore (gaNode ga) = false →
        let base := if isBridge (gaNode ga) then 0x10000 else 0
        let x := gaLa ga - base
        let q := s.dealer (gaNode ga)
        let byte (v : BitVec 64) (i : Nat) : Byte := v.extractLsb' (8 * i) 8
        let register (y : Nat) : Byte :=
          if y < 0x80 then byte (q.d[y / 8]?.getD 0) (y % 8)
          else if y < 0x88 then byte (BitVec.ofNat 64 (q.pc % 8192)) (y % 8)
          else if y < 0x90 then byte (BitVec.ofNat 64 (dkSts q)) (y % 8)
          else if y < 0x98 then byte (q.inst.setWidth 64) (y % 8)
          else byte ((q.g[(y - 0xA0) / 4]?.getD 0).setWidth 64) (y % 4)
        let named : Prop := base ≤ gaLa ga ∧ n ≤ 8 ∧ (x + n ≤ 0x98 ∨ 0xA0 ≤ x ∧ x + n ≤ 0xC0)
          ∧ ∃ r ∈ regionsOf s o.node, r ∈ regionsOf s (gaNode ga)
        ∃ t, exec (.remoteReadArrive m) s = .next t ∧ EventKept (gaNode ga) [.net, .names] s t
          ∧ (¬named → Delivered s t m [.response o.node o.id (.refused 0x05)])
          ∧ (named → Delivered s t m [.response o.node o.id (.data ((List.range n).map fun i => register (x + i)))])

/-- R174, R161, R115: a put reaches its home: refused, it changes nothing there; otherwise its bytes are written at once
and no others but in the undo log, with `.sf` the full bits of its words are set, and it is acknowledged. Bytes written to the
registers of a blocked context are kept for the end of its wait, too. -/
def Sys2Proof.Claims.RemoteWrites : Prop :=
  ∀ (s : State) (m : Nat) (msg : Msg) (o : Origin) (ga : Word) (bs : List Byte) (sf : Bool),
    let h := gaNode ga
    let a := gaLa ga
    let use := if sf then RemoteUse.writeFe else .write
    arriving s m = some msg → msg.kind = .write o ga bs sf → staleTags s msg h = false →
      (∀ code, refusal s h o.node use a bs.length = some code →
        ∃ t, exec (.remoteWriteArrive m) s = .next t ∧ EventKept h [.net, .names] s t
          ∧ Delivered s t m [.response o.node o.id (.refused code)])
      ∧ (refusal s h o.node use a bs.length = none → laRange a ≠ some .regs → memWf (s.core h).mem.mem = true →
        inLog (s.core h) a bs.length = false →
        ∃ t, exec (.remoteWriteArrive m) s = .next t
          ∧ EventKept h (writeParts ++ logParts ++ [.full]) s t
          ∧ BytesAt t h a bs ∧ OtherBytesKept h a bs.length s t
          ∧ (∃ r, t.net.getLast? = some r ∧ r.kind = .response o.node o.id .ack)
          ∧ (sf = false → (t.core h).mem.full = (s.core h).mem.full)
          ∧ (sf = true → ∀ w, w ∈ (t.core h).mem.full ↔ w ∈ feWords a bs.length ∨ w ∈ (s.core h).mem.full))
      ∧ (refusal s h o.node use a bs.length = none → laRange a = some .regs → sf = false →
        let x := Fin.ofNat 8 ((a - 0x200000) / 0x2000)
        ∃ t, exec (.remoteWriteArrive m) s = .next t ∧ KeptAt h x [.net, .names, .own] s t
          ∧ Delivered s t m [.response o.node o.id .ack]
          ∧ (t.ctx h x).st = (s.ctx h x).st ∧ (t.ctx h x).pc = (s.ctx h x).pc
          ∧ (t.ctx h x).blocked = (s.ctx h x).blocked.map (fun b => { b with
              pokes := b.pokes ++ bs.zipIdx.map fun p => (a % 0x2000 + p.2, p.1) })
          ∧ (a % 0x2000 % 8 = 0 → bs.length = 8 → 8 ≤ a % 0x2000 → a % 0x2000 < 0x80 →
              leBytes 8 ((t.ctx h x).sreg (Fin.ofNat 16 (a % 0x2000 / 8))).toNat = bs))

/-- R327: a write of the target's own domain whose interval or rollback tag is not the target's is dropped. -/
def Sys2Proof.Claims.StaleWritesDropped : Prop :=
  ∀ (s : State) (m : Nat) (msg : Msg) (o : Origin) (ga : Word),
    arriving s m = some msg → staleTags s msg (gaNode ga) = true →
      (∀ bs sf, msg.kind = .write o ga bs sf → exec (.remoteWriteArrive m) s = .next (unpost s m))
      ∧ (∀ op n uns sb sc, msg.kind = .atomic o ga op n uns sb sc →
          exec (.remoteAtomicArrive m) s = .next (unpost s m))

/-- R171, R172: an atomic reaches its home: refused, it changes nothing there; otherwise the word takes the operation's
value, but for a `cas` that changes nothing, and the old value goes back. -/
def Obligations.RemoteAtomics : Prop :=
  ∀ (s : State) (m : Nat) (msg : Msg) (o : Origin) (ga : Word) (op : AmoOp) (wide uns : Bool) (sb sc : Word),
    let h := gaNode ga
    let a := gaLa ga
    let w := if wide then 8 else 4
    let old := oldValue (s.core h) a w
    let new := amoValue op uns old (sb.setWidth (8 * w)) (sc.setWidth (8 * w))
    arriving s m = some msg → msg.kind = .atomic o ga op.code w uns sb sc → staleTags s msg h = false →
      (∀ code, refusal s h o.node .atomic a w = some code →
        ∃ t, exec (.remoteAtomicArrive m) s = .next t ∧ EventKept h [.net, .names] s t
          ∧ Delivered s t m [.response o.node o.id (.refused code)])
      ∧ (refusal s h o.node .atomic a w = none → memWf (s.core h).mem.mem = true → inLog (s.core h) a w = false →
        ∃ t, exec (.remoteAtomicArrive m) s = .next t ∧ EventKept h (writeParts ++ logParts) s t
          ∧ (∃ r, t.net.getLast? = some r ∧ r.kind = .response o.node o.id (.data (leBytes w old.toNat)))
          ∧ OtherBytesKept h a w s t
          ∧ (op = .cas → new = old → EventKept h [.net, .names, .l1, .copiesShr, .logged, .beat] s t)
          ∧ (op ≠ .cas ∨ new ≠ old → BytesAt t h a (leBytes w new.toNat)))

/-- R95, R126, R161, R175: a piece of a payload reaches its home. The first piece decides a refusal, which writes nothing
and drops the others. A piece that is admitted is written, unless its range is armed; the last of them appends the
pseudo-trigger of `put.h`, or adds 1 to the counter of `put.k`, and is acknowledged. A `put.h` that has been admitted waits at
the port while eight pseudo-triggers are pending, and is not checked again. -/
def Obligations.PayloadPieces : Prop :=
  ∀ (s : State) (m : Nat) (msg : Msg) (o : Origin) (ga base : Word) (bs : List Byte) (len h : Nat) (hd adm : Bool),
    let c := gaNode ga
    let a := gaLa ga
    arriving s m = some msg → msg.kind = .piece o ga bs base len hd h adm →
      let ends (code : BitVec 8) : Prop := ∃ t, exec (.payloadPieceArrive m) s = .next t ∧ EventKept c [.net, .names] s t
        ∧ (∃ r, t.net.getLast? = some r ∧ r.kind = .response o.node o.id (.refused code))
        ∧ ∀ x ∈ t.net, pieceOf x.kind ≠ some (2 * o.id)
      let passes : Prop := adm = true ∨ payloadRefusal s c o.node base len hd h = none
      let full : Prop := hd = true ∧ 8 ≤ (s.core c).trg.pseudo.length
      (staleTags s msg c = true → exec (.payloadPieceArrive m) s = .next (unpost s m))
      ∧ (staleTags s msg c = false →
        (adm = false → ∀ code, payloadRefusal s c o.node base len hd h = some code → ends code)
        ∧ (passes → full → exec (.payloadPieceArrive m) s = .next (holdMsg (admitPieces s (2 * o.id)) m))
        ∧ (passes → ¬full → anyArmed (s.core c) a bs.length = true → ends 0x07)
        ∧ (passes → ¬full → anyArmed (s.core c) a bs.length = false →
          laRange a ≠ some .regs → memWf (s.core c).mem.mem = true → inLog (s.core c) a bs.length = false →
          ∃ t, exec (.payloadPieceArrive m) s = .next t
            ∧ EventKept c (writeParts ++ logParts ++ [.pseudo, .counters]) s t
            ∧ BytesAt t c a bs ∧ OtherBytesKept c a bs.length s t
            ∧ ((∃ x ∈ s.net, x.id ≠ m ∧ pieceOf x.kind = some (2 * o.id)) →
                (t.core c).trg.pseudo = (s.core c).trg.pseudo ∧ (t.core c).sync.k = (s.core c).sync.k)
            ∧ ((∀ x ∈ s.net, x.id ≠ m → pieceOf x.kind ≠ some (2 * o.id)) →
                (∃ r, t.net.getLast? = some r ∧ r.kind = .response o.node o.id .ack)
                ∧ (t.core c).trg.pseudo = (s.core c).trg.pseudo
                    ++ (if hd then [{ h := Fin.ofNat 32 h, la := gaLa base, len := len, src := o.node }] else [])
                ∧ ∀ k : Fin 64, (t.core c).sync.k[k] = (s.core c).sync.k[k] + (if !hd && k.val == h then 1 else 0))))

/-- R158, R162, R172, R173: an answer frees its tracker entry. Data fills the register that still awaits it, extended as the
request says, but for the bytes that a remote write has replaced, which is the model's reading (log 22); a refusal leaves the
register as it is, awaits nothing, and is reported to its issuer. -/
def Obligations.Responses : Prop :=
  ∀ (s : State) (m : Nat) (msg : Msg) (c : Node) (id : Nat) (a : Answer) (e : Track),
    let k := s.ctx c e.ctx
    let answered : Ctx := { k with pending := k.pending.filter fun p => p.2 ≠ .request id }
    let freed : List Track := (s.core c).comm.tracker.filter fun x => x.id ≠ id
    arriving s m = some msg → msg.kind = .response c id a →
    (s.core c).comm.tracker.find? (fun x => x.id == id) = some e →
      (a = .ack → ∃ t, exec (.remoteResponseArrive m) s = .next t ∧ EventKept c [.net, .tracker] s t
        ∧ Delivered s t m [] ∧ (t.core c).comm.tracker = freed)
      ∧ (∀ bs, a = .data bs → k.fires = e.fires → (∃ p ∈ k.pending, p.2 = .request id) →
        ∃ t, exec (.remoteResponseArrive m) s = .next t ∧ KeptAt c e.ctx [.net, .tracker, .own] s t
          ∧ Delivered s t m [] ∧ (t.core c).comm.tracker = freed
          ∧ (∀ r n, e.kind = .getS r n → r ≠ 0 → ∀ i : Fin 8, ((t.ctx c e.ctx).sreg r).extractLsb' (8 * i.val) 8
              = if (id, i.val) ∈ k.poked then (k.sreg r).extractLsb' (8 * i.val) 8
                else (BitVec.ofNat 64 (leNat bs)).extractLsb' (8 * i.val) 8)
          ∧ ((∀ q ∈ k.poked, q.1 ≠ id) →
            let word (r : SReg) (v : Word) : Ctx := if r = 0 then k else { answered with s := k.s.set r v }
            t.ctx c e.ctx = match e.kind with
              | .getS r _ => word r (BitVec.ofNat 64 (leNat bs))
              | .getV r => { answered with
                  v := k.v.set r { data := BitVec.ofNat 1024 (leNat bs), tag := 8, sp := false, side := 0 } }
              | .atomic r _ uns => word r (extendBytes bs (!uns))
              | .put => k))
      ∧ (∀ code, a = .refused code →
        ∃ t, exec (.remoteResponseArrive m) s = .next t ∧ Delivered s t m [] ∧ (t.core c).comm.tracker = freed
          ∧ Reports s t c e.ctx (if k.fires = e.fires then { answered with poked := k.poked.filter fun p => p.1 ≠ id } else k)
              [.net, .tracker] e.fires id code e.pc e.ga)

/-- R126, R161, R177, R178, R327: a copy moves a piece, in an order that is the model's choice (log 8): refused at either
side, it stops and reports to its issuer; otherwise the bytes of the source stand at the destination, in memory or in
registers, the piece is no longer to move, and after the last one the counter `k` of its core is raised by 1. It waits while
its own core, or that of one of its sides, is frozen, or a waiting `put.h` holds it back there. -/
def Sys2Proof.Claims.CopyPieces : Prop :=
  ∀ (s : State) (c : Node) (id : Nat) (x : Copy),
    (s.core c).comm.copies.find? (fun y => y.id == id) = some x →
    let off := x.nextPiece s
    let n := min (128 - (copyLa x.dst + off) % 128) (x.len - off)
    let from_ := copyHome s c x.src
    let dest := copyHome s c x.dst
    let a := copyLa x.dst + off
    let bs := loadBytes s from_ x.ctx (copyLa x.src + off) n
    let source := copyRefusal s c x.src off n .read
    let target := copyRefusal s c x.dst off n .write
    let todo := x.todo.filter (fun o => o ≠ off)
    let held (g : Word) : Bool := isFrozen s (copyHome s c g) || (isGa g && portHeld s c (copyHome s c g) none)
    let goes : Prop := isFrozen s c = false ∧ held x.src = false ∧ held x.dst = false
    let moved (t : State) : Prop :=
      (t.core c).comm.copies = (if todo.isEmpty then (s.core c).comm.copies.filter (fun y => y.id ≠ id)
          else (s.core c).comm.copies.map fun y => if y.id = id then { y with todo := todo } else y)
      ∧ (∀ k : Fin 64, (t.core c).sync.k[k] = (s.core c).sync.k[k] + (if todo.isEmpty && k == x.k then 1 else 0))
      ∧ (∀ q, q ≠ c → q ≠ from_ → q ≠ dest → t.core q = s.core q)
      ∧ (∀ q, q ≠ dest → ∀ b, laRange b ≠ some .regs → laByte (t.core q) b = laByte (s.core q) b)
      ∧ ∀ p ∈ [Part.now, .hubs, .bridges, .modules, .draws, .lots, .agenda, .arriving, .cur], p.same c x.ctx s t
    (¬goes → exec (.copyPiece c id) s = .next s)
    ∧ (∀ code val, goes → source = some code ∧ val = x.src ∨ source = none ∧ target = some code ∧ val = x.dst →
      ∃ t, exec (.copyPiece c id) s = .next t
        ∧ (t.core c).comm.copies = (s.core c).comm.copies.filter (fun y => y.id ≠ id)
        ∧ Reports s t c x.ctx (s.ctx c x.ctx) [.copies] x.fires id code x.pc val)
    ∧ (goes → source = none → target = none → laRange a ≠ some .regs → memWf (s.core dest).mem.mem = true →
      inLog (s.core dest) a n = false →
      ∃ t, exec (.copyPiece c id) s = .next t ∧ moved t ∧ BytesAt t dest a bs ∧ OtherBytesKept dest a n s t
        ∧ ∀ q y, t.ctx q y = s.ctx q y)
    ∧ (goes → source = none → target = none → laRange a = some .regs →
      let y := Fin.ofNat 8 ((a - 0x200000) / 0x2000)
      ∃ t, exec (.copyPiece c id) s = .next t ∧ moved t
        ∧ t.ctx dest y = (s.ctx dest y).pokeBytes (a % 0x2000) bs
        ∧ ∀ q z, q ≠ dest ∨ z ≠ y → t.ctx q z = s.ctx q z)

/-- R91: when the deadline of a transient granule has passed, its content is expired until it is written again. -/
def Sys2Proof.Claims.RetentionDeadlines : Prop :=
  ∀ (s : State) (c : Node) (g : Nat) (at_ : Nat × Option Nat), AMap.find (s.core c).mem.written g = some at_ →
    at_.1 + Config.retention ≤ s.now →
    ∃ t, exec (.retentionDeadline c g) s = .next t ∧ EventKept c [.written] s t
      ∧ AMap.find (t.core c).mem.written g = none
      ∧ (∀ q, q ≠ g → AMap.find (t.core c).mem.written q = AMap.find (s.core c).mem.written q)
      ∧ (classAt (t.core c) g = 2 → expired t c g = true)

/-- R98, R162, R172–R174: the requests of `get`, `put` and the remote atomics, and reads through the shared copies. -/
def Obligations.RemoteLoadsAndReads : Prop :=
  Sys2Proof.Claims.RemoteRequests
    ∧ Sys2Proof.Claims.SharedReads

/-- R85, R108, R159, R175, R177, R334, R369: what the global forms are checked for, and the traps that they take with
no effect. -/
def Obligations.RemoteAccessTraps : Prop :=
  Sys2Proof.Claims.GlobalAddresses
    ∧ Sys2Proof.Claims.GlobalAccessTraps
    ∧ Sys2Proof.Claims.PayloadTraps
    ∧ Sys2Proof.Claims.CopyTraps

/-- R126, R161, R177, R178, R327: a copy, from its instruction to the arrival of its last piece. -/
def Obligations.Copies : Prop :=
  Sys2Proof.Claims.CopyStarts
    ∧ Sys2Proof.Claims.CopyPieces

/-- R115, R161, R174, R327: a remote write performs at its home, or is dropped as stale. -/
def Obligations.RemoteWritesArrive : Prop :=
  Sys2Proof.Claims.RemoteWrites
    ∧ Sys2Proof.Claims.StaleWritesDropped

/-- R91, R165, R166, R181, R342, R351: the L1, the shared copies and transient granules. -/
def Obligations.ShelfCaches : Prop :=
  Sys2Proof.Claims.Prefetch
    ∧ Sys2Proof.Claims.CacheMaintenance
    ∧ Sys2Proof.Claims.SectorFills
    ∧ Sys2Proof.Claims.RetentionDeadlines


/-! ### Channels, routers, neighbour ports and endpoints -/

namespace Sys2Proof.Claims

/-- R183: the info word of a channel's head word, or of none, with a depth. -/
structure InfoIs (v : Word) (w : Option ChWord) (depth : Nat) : Prop where
  high : v.extractLsb' 32 32 = 0
  valid : v.getLsbD 31 = w.isSome
  zeros : v.extractLsb' 21 10 = 0 ∧ v.extractLsb' 10 6 = 0
  depth : v.extractLsb' 16 5 = BitVec.ofNat 5 depth
  mark : v.getLsbD 9 = (w.map (·.mark)).getD false
  usr : v.getLsbD 8 = (w.map (·.usr)).getD false
  tag : v.extractLsb' 0 8 = (w.map (·.htag)).getD 0

/-- R185: the head word of a channel has left its queue: the others stay, and the credit that paid for the word goes
back when it was the last that the credit paid for. A word of a host channel pays the endpoint that sent it (R69). -/
def Taken (s t : State) (ch : Nat) (x : Chan) (w : ChWord) (rest : List ChWord) : Prop :=
  t.cn.chan ch = some { x with queue := rest }
    ∧ (∀ c, c ≠ ch → t.cn.chan c = s.cn.chan c)
    ∧ (x.host = true → t.lots = s.lots
        ∧ ∀ i, slotOf s s.cur.core = some i → Sent s t [.epCredit (nodeWafer s.cur.core) i w.lot])
    ∧ (x.host = false → ∀ core stream n, s.lots.find? (fun l => l.1 == w.lot) = some (w.lot, core, stream, n) →
        (n ≤ 1 → Sent s t [.credit core stream] ∧ ∀ l ∈ t.lots, l.1 ≠ w.lot)
          ∧ (2 ≤ n → Sent s t [] ∧ (w.lot, core, stream, n - 1) ∈ t.lots))

/-- R69: the endpoint `e` of a slot is all that changes in the modules. -/
structure OnlyEndpoint (w slot e : Nat) (s t : State) : Prop where
  otherModules : ∀ v, v ≠ w → t.module v = s.module v
  sameModule : t.module w = { s.module w with slots := (t.module w).slots }
  otherSlots : ∀ i, i ≠ slot → (t.module w).slot i = (s.module w).slot i
  sameSlot : (t.module w).slot slot = { (s.module w).slot slot with eps := ((t.module w).slot slot).eps }
  others : ∀ x, x ≠ e → endpoint t w slot x = endpoint s w slot x

/-- R186: the word that a `chsend` sends. -/
def sentWord (s : State) (v : VReg) (a : SReg) (stream : Fin 64) : ChWord :=
  { val := s.vr v, htag := (s.sr a).extractLsb' 0 8, usr := (s.sr a).getLsbD 8, mark := false, src := s.cur.core
    stream := stream }

/-- R186: the word that a `chmark` sends. -/
def markWord (s : State) (a : SReg) (stream : Fin 64) : ChWord :=
  { val := { data := 0, tag := 8, sp := false, side := 0 }, htag := (s.sr a).extractLsb' 0 8
    usr := (s.sr a).getLsbD 8, mark := true, src := s.cur.core, stream := stream }

end Sys2Proof.Claims

/-- R186, R183, R185: `chrecv` takes the head word, `chpeek` copies it, `chtag` reads its info word, `chskip` removes
it; a word that leaves the queue returns its credit. A word that a blocked context or the matrix unit comes first for, and a
channel that the unit is taking from (R252, R260), `chskip` does not take: that it then sees no word is the model's reading of
R133 and R186 (log 23). -/
def Sys2Proof.Claims.ChannelWordsTaken : Prop :=
  ∀ (v : VReg) (d : SReg) (ch : Fin 32) (s : State) (x : Chan) (w : ChWord) (rest : List ChWord),
    let first : Prop := takenByUnit s ch = true ∨ behind s (.chan ch) .waitRecv = true ∨ behindUnit s (.chan ch) = true
    s.cn.chan ch = some x → x.spill = [] → x.queue = w :: rest → x.queue.length ≤ 16 →
      (canStart s (.chrecv v d ch) = true → validPair w.val = true → behind s (.chan ch) .waitRecv = false →
        behindUnit s (.chan ch) = false →
        ∃ info, InfoIs info (some w) 0 ∧ CompletesAt s (.chrecv v d ch)
          (goneOn s ((s.cc.setVreg v w.val).setSreg d info)) [.chans, .net, .names, .lots] fun t => Taken s t ch x w rest)
      ∧ (canStart s (.chpeek v d ch) = true → validPair w.val = true →
        ∃ info, InfoIs info (some w) x.queue.length ∧ CompletesAt s (.chpeek v d ch)
          (goneOn s ((s.cc.setVreg v w.val).setSreg d info)) [] fun _ => True)
      ∧ (canStart s (.chtag d ch) = true →
        ∃ info, InfoIs info (some w) x.queue.length ∧ CompletesAt s (.chtag d ch)
          (goneOn s (s.cc.setSreg d info)) [] fun _ => True)
      ∧ (canStart s (.chskip d ch) = true → ¬first →
        ∃ info, InfoIs info (some w) 0 ∧ CompletesAt s (.chskip d ch)
          (goneOn s (s.cc.setSreg d info)) [.chans, .net, .names, .lots] fun t => Taken s t ch x w rest)
      ∧ (canStart s (.chskip d ch) = true → first →
        ∃ info, InfoIs info none 0 ∧ CompletesAt s (.chskip d ch) (goneOn s (s.cc.setSreg d info)) [] fun _ => True)
      ∧ (validPair w.val = false → s.cur.ctx ≠ 7 →
        (canStart s (.chrecv v d ch) = true → behind s (.chan ch) .waitRecv = false →
          behindUnit s (.chan ch) = false → TrapsAt s (.chrecv v d ch) 0x06 0)
        ∧ (canStart s (.chpeek v d ch) = true → TrapsAt s (.chpeek v d ch) 0x06 0))

/-- R186, R131, R369: with no word to see, empty or spilled, `chrecv` blocks in WAIT_RECV and the others answer an
info word without VALID; a channel that is not declared is `E_PERM` with its number. -/
def Sys2Proof.Claims.ChannelsWithoutWords : Prop :=
  ∀ (v : VReg) (d : SReg) (ch : Fin 32) (s : State),
    (∀ x, s.cn.chan ch = some x → x.spill ≠ [] ∨ x.queue = [] →
      (canStart s (.chrecv v d ch) = true →
        ∃ t, exec (.chrecv v d ch) s = .next t ∧ Kept [.names] s t ∧ t.cc = blockedAs s (.chrecv v d ch) .waitRecv ch)
      ∧ ∀ i ∈ [Instr.chpeek v d ch, .chtag d ch, .chskip d ch], canStart s i = true →
        ∃ info, InfoIs info none 0 ∧ CompletesAt s i (goneOn s (s.cc.setSreg d info)) [] fun _ => True)
    ∧ (s.cn.chan ch = none → s.cur.ctx ≠ 7 →
      ∀ i ∈ [Instr.chrecv v d ch, .chpeek v d ch, .chtag d ch, .chskip d ch], canStart s i = true →
        TrapsAt s i 0x04 (BitVec.ofNat 64 ch))

/-- R185, R186, R69, R300: `chsend` and `chmark` spend a credit and send their word to the core's own router; on a
chunk stream no credit is spent, an egress word goes to the owning bridge, and an egress marker only steps the route.
`chsend` counts as a word sent. A word on its way bears a name, by which fences wait for it (R179). -/
def Sys2Proof.Claims.ChannelSends : Prop :=
  ∀ (v : VReg) (a : SReg) (st : Fin 64) (s : State) (set : BitVec 16),
    sendSet s s.cur.core st = some set → set.getLsbD 15 = true → set.getLsbD 4 = true →
      ∀ p ∈ [(Instr.chsend v a st, sentWord s v a st), (.chmark a st, markWord s a st)], canStart s p.1 = true →
        let n := s.cur.core
        let spent (t : State) : Prop := creditsOf t n st = creditsOf s n st - 1
          ∧ ∀ x, x ≠ st.val → creditsOf t n x = creditsOf s n x
        let counted (t : State) : Prop := (AMap.find t.cn.comm.sent st).getD 0
          = (AMap.find s.cn.comm.sent st).getD 0 + (if p.2.mark then 0 else 1)
        let leaves (t : State) (k : ChWord → MsgKind) : Prop := (s.nextId, s.cur.ctx) ∈ t.cn.comm.out
          ∧ ∃ m, t.net = s.net ++ [m] ∧ m.kind = k { p.2 with lot := s.nextId }
        (egressOf s n st = none → isChunkStream s n st = false → 0 < creditsOf s n st →
          CompletesAt s p.1 (goneOn s s.cc) [.net, .names, .lots, .credits, .sent, .out] fun t =>
            spent t ∧ counted t ∧ t.lots = s.lots ++ [(s.nextId, n, st.val, 1)] ∧ leaves t (.word n 4))
        ∧ (egressOf s n st = none → isChunkStream s n st = true →
          CompletesAt s p.1 (goneOn s s.cc) [.net, .names, .sent, .out] fun t => counted t ∧ leaves t (.word n 4))
        ∧ (∀ w i e, egressOf s n st = some (w, i, e) → isChunkStream s n st = false → 0 < creditsOf s n st →
          CompletesAt s p.1 (goneOn s s.cc) [.net, .names, .credits, .sent, .routes, .out] fun t =>
            counted t ∧ (p.2.mark = false → spent t ∧ leaves t (.egress w i e) ∧ t.cn.comm.routes = s.cn.comm.routes)
              ∧ (p.2.mark = true → Sent s t [] ∧ ∀ r, AMap.find s.cn.comm.routes st = some r →
                  AMap.find t.cn.comm.routes st = some { r with cur := nextSet r }))
        ∧ (isChunkStream s n st = false → creditsOf s n st = 0 →
          ∃ t, exec p.1 s = .next t ∧ Kept [.names] s t ∧ t.cc = blockedAs s p.1 .waitSend st)

/-- R186, R369: a stream whose current set is not valid or lacks the local port in IN is `E_PERM` with its number, and
nothing is sent. -/
def Sys2Proof.Claims.ChannelSendTraps : Prop :=
  ∀ (v : VReg) (a : SReg) (st : Fin 64) (s : State),
    (∀ set, sendSet s s.cur.core st = some set → set.getLsbD 15 = false ∨ set.getLsbD 4 = false) → s.cur.ctx ≠ 7 →
      ∀ i ∈ [Instr.chsend v a st, .chmark a st], canStart s i = true → TrapsAt s i 0x04 (BitVec.ofNat 64 st)

/-- R184: a word that a set admits leaves by each port of OUT: to the routers of the neighbours, on the virtual channel of
the set, and into the channel that is declared for its stream and source. A full queue, and an earlier word of its source
and stream that has still to enter that channel, hold it in the link. A marker then steps the entry. A word that no set
admits is discarded. -/
def Sys2Proof.Claims.RouterWords : Prop :=
  ∀ (s : State) (m : Nat) (msg : Msg) (n : Node) (port : Nat) (w : ChWord),
    arriving s m = some msg → msg.kind = .word n port w → onChunkStream s n w = false →
      (∀ r, AMap.find (s.core n).comm.routes w.stream = some r →
        let set := vget r.sets 0 r.cur
        let leaves (t : State) : Prop :=
          Delivered s t m (((outPorts set).filter (fun o => o ≠ 4)).map fun d =>
              .word ((meshNext n d).getD 0) (oppositeDir d) { w with vc := bits set.toNat 10 2 })
            ∧ AMap.find (t.core n).comm.routes w.stream = some (if w.mark then { r with cur := nextSet r } else r)
            ∧ ∀ l ∈ t.lots, l.1 = w.lot → ∃ k, (l.1, l.2.1, l.2.2.1, k) ∈ s.lots
                ∧ l.2.2.2 = k + ((outPorts set).length - 1)
        set.getLsbD 15 = true → set.getLsbD port = true →
        (∀ d, d < 4 → set.getLsbD (5 + d) = true → (meshNext n d).isSome = true) →
        (set.getLsbD 9 = false → outPorts set ≠ [] →
          ∃ t, exec (.routerWordArrive m) s = .next t ∧ EventKept n [.net, .names, .lots, .routes] s t ∧ leaves t)
        ∧ ∀ ch x, set.getLsbD 9 = true → channelFor s n w = some (ch, x) →
            AMap.find (s.core n).comm.chans ch = some x →
            (16 ≤ x.queue.length ∨ x.spill ≠ [] ∨ overtakes s n w = true → exec (.routerWordArrive m) s = .next s)
            ∧ (x.queue.length < 16 → x.spill = [] → overtakes s n w = false →
              ∃ t, exec (.routerWordArrive m) s = .next t ∧ EventKept n [.net, .names, .lots, .chans, .routes] s t
                ∧ leaves t ∧ (t.core n).chan ch = some { x with queue := x.queue ++ [{ w with vc := 0 }] }
                ∧ ∀ c, c ≠ ch → (t.core n).chan c = (s.core n).chan c))
      ∧ ((∀ r, AMap.find (s.core n).comm.routes w.stream = some r →
            (vget r.sets 0 r.cur).getLsbD 15 = false ∨ (vget r.sets 0 r.cur).getLsbD port = false) →
          ∃ t, exec (.routerWordArrive m) s = .next t
            ∧ (senderDomains s w = [] → (t.module (nodeWafer n)).ring.count = (s.module (nodeWafer n)).ring.count + 1)
            ∧ ∀ d, senderDomains s w = [d] → (t.domain d).rolling = true ∨ AMap.find t.domains d = none)

/-- R184, R300: a word that reaches a router always goes somewhere or waits: on a chunk stream too, the event completes, and
the word leaves the link unless it waits. -/
def Sys2Proof.Claims.RouterWordsGoOn : Prop :=
  ∀ (s : State) (m : Nat) (msg : Msg) (n : Node) (port : Nat) (w : ChWord),
    arriving s m = some msg → msg.kind = .word n port w → m < s.nextId →
      ∃ t, exec (.routerWordArrive m) s = .next t
        ∧ (t = s ∨ ∀ x ∈ t.net, x.id ≠ m)
        ∧ (t = s → ∃ r, AMap.find (s.core n).comm.routes w.stream = some r ∧ mustWait s n w (vget r.sets 0 r.cur) = true)

/-- R20: markers step a route through its sets in rising order; after the set with LAST comes set 0. -/
def Sys2Proof.Claims.RouteSets : Prop :=
  ∀ r : Route, r.cur < 4 →
    ((r.sets[r.cur]?.getD 0).getLsbD 13 = true → nextSet r = 0)
      ∧ ((r.sets[r.cur]?.getD 0).getLsbD 13 = false → nextSet r = (r.cur + 1) % 4)

/-- R185, R69: a returning credit raises the count of its stream, or of its ingress endpoint, by 1. -/
def Sys2Proof.Claims.CreditReturns : Prop :=
  ∀ (s : State) (m : Nat) (msg : Msg), arriving s m = some msg →
    (∀ n st, msg.kind = .credit n st → ∃ t, exec (.creditReturn m) s = .next t ∧ EventKept n [.net, .credits] s t
      ∧ Delivered s t m [] ∧ creditsOf t n st = creditsOf s n st + 1
      ∧ ∀ x, x ≠ st → creditsOf t n x = creditsOf s n x)
    ∧ (∀ w i e x, msg.kind = .epCredit w i e → endpoint s w i e = some x →
      ∃ t, exec (.creditReturn m) s = .next t ∧ EventKept 0 [.net, .modules] s t ∧ Delivered s t m []
        ∧ OnlyEndpoint w i e s t ∧ endpoint t w i e = some { x with credits := x.credits + 1 })

/-- R188, R189: `nb.put` sends its register to the neighbour's incoming register unless that is full, `nb.get` takes a
word from an incoming register and empties it, `nb.tst` reads both bits and whether there is a link; a word that comes
lands in an empty register. A direction without a link is `E_PERM` with its code. -/
def Obligations.NeighbourPorts : Prop :=
  ∀ (v : VReg) (d : SReg) (dir : Dir) (s : State),
    (∀ q, neighbour s s.cur.core dir.code = some q → canStart s (.nbPut v dir) = true →
      (nbBusy s s.cur.core dir.code = false → CompletesAt s (.nbPut v dir) (goneOn s s.cc) [.net, .names, .out] fun t =>
        Sent s t [.nbWord q (oppositeDir dir.code) (s.vr v)] ∧ (s.nextId, s.cur.ctx) ∈ t.cn.comm.out)
      ∧ (nbBusy s s.cur.core dir.code = true → ∃ t, exec (.nbPut v dir) s = .next t ∧ Kept [.names] s t
        ∧ t.cc = blockedAs s (.nbPut v dir) .waitNb 0))
    ∧ ((neighbour s s.cur.core dir.code).isSome = true → canStart s (.nbGet v dir) = true →
      (∀ x, vget s.cn.comm.nb none dir.code = some x → behind s (.nb dir.code) .waitNb = false →
        behindUnit s (.nb dir.code) = false →
        (validPair x = true → CompletesAt s (.nbGet v dir) (goneOn s (s.cc.setVreg v x)) [.ports] fun t =>
          t.cn.comm.nb = vset s.cn.comm.nb dir.code none)
        ∧ (validPair x = false → s.cur.ctx ≠ 7 → TrapsAt s (.nbGet v dir) 0x06 0))
      ∧ (vget s.cn.comm.nb none dir.code = none → ∃ t, exec (.nbGet v dir) s = .next t ∧ Kept [.names] s t
        ∧ t.cc = blockedAs s (.nbGet v dir) .waitNb 0))
    ∧ (neighbour s s.cur.core dir.code = none → s.cur.ctx ≠ 7 → ∀ i ∈ [Instr.nbPut v dir, .nbGet v dir],
      canStart s i = true → TrapsAt s i 0x04 (BitVec.ofNat 64 dir.code))
    ∧ (canStart s (.nbTst d dir) = true → ∃ x : Word,
      CompletesAt s (.nbTst d dir) (goneOn s (s.cc.setSreg d x)) [] (fun _ => True)
        ∧ x.getLsbD 0 = (vget s.cn.comm.nb none dir.code).isSome
        ∧ x.getLsbD 1 = nbBusy s s.cur.core dir.code
        ∧ x.getLsbD 2 = (neighbour s s.cur.core dir.code).isNone ∧ x.extractLsb' 3 61 = 0)
    ∧ ∀ (m : Nat) (msg : Msg) (n : Node) (x : VVal), arriving s m = some msg → msg.kind = .nbWord n dir.code x →
      vget (s.core n).comm.nb none dir.code = none →
      ∃ t, exec (.nbWordLand m) s = .next t ∧ EventKept n [.net, .ports] s t ∧ Delivered s t m []
        ∧ (t.core n).comm.nb = vset (s.core n).comm.nb dir.code (some x)

/-- R69, R73: a bridge reads the next 128 bytes of a bound ingress endpoint from its host while it may, sends the next
word into the mesh while it has a credit, and the word enters the declared channel of the endpoint's core, or waits
while the queue is full. -/
def Sys2Proof.Claims.IngressWords : Prop :=
  (∀ (s : State) (w : Fin 16) (slot : Fin 32) (ep : Fin 64) (x : Endpoint),
    endpoint s w slot ep = some x → x.egress = false → x.bound = true →
      ((s.module w).slot slot).orphaned = false → x.pos + 128 ≤ x.limit →
      heldBytes s w ((s.module w).slot slot).owner false + 128 ≤ holdSize → x.credits = 0 →
      ∃ t, exec (.ingressRead w slot ep) s = .next t ∧ EventKept 0 [.modules] s t ∧ OnlyEndpoint w slot ep s t
        ∧ endpoint t w slot ep = some { x with
            pos := x.pos + 128
            held := x.held ++ [vdataOf (hostRead s w ((s.module w).slot slot).owner (x.ptr + x.pos % x.extent) 128)] })
    ∧ (∀ (s : State) (w : Fin 16) (slot : Fin 32) (ep : Fin 64) (x : Endpoint),
      endpoint s w slot ep = some x → x.egress = false → x.bound = true → x.limit ≤ x.pos → x.sendPos < x.pos →
        0 < x.credits →
        (∀ d, slotDomain s w slot = some d →
          (s.domain d).ingressPause = false ∧ (s.domain d).frozen = false ∧ (s.domain d).rolling = false) →
        ∃ t, exec (.ingressRead w slot ep) s = .next t ∧ EventKept 0 [.modules, .net, .names] s t
          ∧ OnlyEndpoint w slot ep s t
          ∧ endpoint t w slot ep = some { x with sendPos := x.sendPos + 128, credits := x.credits - 1 }
          ∧ Sent s t [.ingress w slot ep x.sendPos
              { val := { data := x.held.getD ((x.sendPos - x.sealedUpTo) / 128) 0 }
                src := owningBridge s w slot, stream := x.stream, lot := ep }])
    ∧ ∀ (s : State) (m : Nat) (msg : Msg) (w i e pos : Nat) (wd : ChWord) (x : Endpoint) (ch : Chan),
      arriving s m = some msg → msg.kind = .ingress w i e pos wd → endpoint s w i e = some x →
        (s.core x.core).chan x.chan = some ch →
        (16 ≤ ch.queue.length ∨ ch.spill ≠ [] → exec (.ingressWordArrive m) s = .next s)
        ∧ (ch.queue.length < 16 → ch.spill = [] →
          ∃ t, exec (.ingressWordArrive m) s = .next t ∧ EventKept x.core [.net, .chans, .modules] s t
            ∧ Delivered s t m [] ∧ (t.core x.core).chan x.chan = some { ch with queue := ch.queue ++ [wd] }
            ∧ (∀ c, c ≠ x.chan → (t.core x.core).chan c = (s.core x.core).chan c)
            ∧ OnlyEndpoint w i e s t ∧ endpoint t w i e = some { x with delivered := pos + 128 })

/-- R73, R185: an egress word enters its endpoint's hold and its credit returns; the word that fills the hold asks for a
seal of the domain. A word that finds the hold full waits. -/
def Sys2Proof.Claims.EgressWords : Prop :=
  ∀ (s : State) (m : Nat) (msg : Msg) (w i e : Nat) (wd : ChWord) (x : Endpoint),
    arriving s m = some msg → msg.kind = .egress w i e wd → endpoint s w i e = some x →
      (heldBytes s w ((s.module w).slot i).owner true + 128 ≤ holdSize →
        ∃ t, exec (.egressWordAccept m) s = .next t ∧ EventKept 0 [.net, .names, .modules, .domains] s t
          ∧ OnlyEndpoint w i e s t ∧ endpoint t w i e = some { x with held := x.held ++ [wd.val.data] }
          ∧ (∃ r ∈ t.net, r.kind = .credit x.core x.stream)
          ∧ (holdFull t w i = false → Delivered s t m [.credit x.core x.stream] ∧ t.domains = s.domains)
          ∧ (holdFull t w i = true → ∀ d, slotDomain s w i = some d → (t.domain d).req = true))
      ∧ (holdSize < heldBytes s w ((s.module w).slot i).owner true + 128 → ∀ d, slotDomain s w i = some d →
        ((s.domain d).req = true → exec (.egressWordAccept m) s = .next s)
        ∧ ((s.domain d).req = false → ∃ t, exec (.egressWordAccept m) s = .next t
          ∧ EventKept 0 [.net, .names, .domains] s t ∧ (t.domain d).req = true ∧ m ∈ t.net.map (·.id)))

/-- R131, R183, R185, R186, R369: `chrecv` and its kin with a word to take, and without. -/
def Obligations.ChannelReads : Prop :=
  Sys2Proof.Claims.ChannelWordsTaken
    ∧ Sys2Proof.Claims.ChannelsWithoutWords

/-- R69, R185, R186, R300, R369: `chsend` and `chmark`. -/
def Obligations.ChannelWordsSent : Prop :=
  Sys2Proof.Claims.ChannelSends
    ∧ Sys2Proof.Claims.ChannelSendTraps

/-- R20, R184, R300: what a router does with a word, and the route sets. -/
def Obligations.RoutedWords : Prop :=
  Sys2Proof.Claims.RouterWords
    ∧ Sys2Proof.Claims.RouterWordsGoOn
    ∧ Sys2Proof.Claims.RouteSets

/-- R69, R73, R185: credits that come back, and the words that endpoints take in and give out. -/
def Obligations.Endpoints : Prop :=
  Sys2Proof.Claims.CreditReturns
    ∧ Sys2Proof.Claims.IngressWords
    ∧ Sys2Proof.Claims.EgressWords


/-! ### Triggers, flags, counters, barriers -/

namespace Sys2Proof.Claims

/-- R272, R273: a 32-bit operand: a literal sign-extended, or the low half of a register. -/
def value32 (g : SReg → Word) : RegOrImm → BitVec 32
  | .imm v => v.signExtend 32
  | .reg a => (g a).extractLsb' 0 32

/-- R276: a 16-bit mask: a literal, or the low bits of a register. -/
def mask16 (g : SReg → Word) : RegOrImm → BitVec 16
  | .imm v => v
  | .reg a => (g a).extractLsb' 0 16

/-- R277: entry `e` is named: by its number, or by its bit. -/
def namesEntry (g : SReg → Word) : RegOrImm → Fin 32 → Bool
  | .imm v, e => decide (v.toNat % 32 = e.val)
  | .reg a, e => (g a).getLsbD e

/-- R273: the counter has reached the value, allowing for wrap, or equals it. -/
def Reached (eq : Bool) (k v : BitVec 32) : Prop := if eq then k = v else (k - v).toNat < 2 ^ 31

/-- R281, R284: what a complete node sends: its release when it is the root, its report to its parent node, or the
report of its region to the wide barrier's root. -/
def barReport (s : State) (h : Node) (b : Nat) (x : BarNode) : List MsgKind :=
  match x.parent.toNat with
  | 0 => [.relHub h b x.cur x.cp0]
  | 5 => match slotOf s h, domainOf s h with
    | some i, some d => [.wide d b (nodeWafer h) i x.cur x.cp0]
    | _, _ => []
  | p => [.report (hubNext h (p - 1)) (oppositeDir (p - 1)) b x.cur x.cp0]

/-- R281: only one barrier node of one hub changes among the hubs. -/
structure OnlyBarNode (h : Node) (b : Nat) (s t : State) : Prop where
  otherHubs : ∀ q, q ≠ h → t.hub q = s.hub q
  sameHub : t.hub h = { s.hub h with bar := (t.hub h).bar }
  otherNodes : ∀ c, c ≠ b → t.barNode h c = s.barNode h c

/-- R132, R158: a context whose blocked instruction has completed in a cycle of its core: READY, past that instruction,
able to issue from the next cycle on; the bytes that remote writes have put into its registers since it blocked stand. -/
def wokenAs (k : Ctx) (b : Blocked) (cycle : Nat) : Ctx :=
  b.pokes.foldl (fun k p => regPoke k p.1 p.2)
    (({ k with st := .ready, blocked := none, notBefore := cycle + 1 } : Ctx).goOn b.pc b.succ cycle)

/-- R132: waking context `x` of core `n` completes its instruction from `u`, with what it leaves in the context, and the
context issues again no later than the second cycle after; nothing else changes but the listed parts. -/
def WakesTo (s u : State) (n : Node) (x : Fin 8) (b : Blocked) (k : Ctx) (but : List Part) (q : State → Prop) : Prop :=
  ∃ t d, d ≤ 2 ∧ exec (.contextWake n x) s = .next t ∧ KeptAt n x (.own :: .watch :: but) u t
    ∧ t.ctx n x = wokenAs k b (cycleOf s n + d) ∧ q t

/-- R337: waking context `x` of core `n` takes a precise trap of its blocked instruction. -/
def WakeTraps (s u : State) (n : Node) (x : Fin 8) (b : Blocked) (code : BitVec 8) (val : Word) : Prop :=
  ∃ t, exec (.contextWake n x) s = .next t ∧ KeptAt n x [.own, .watch, .traps] u t
    ∧ t.ctx n x = { s.ctx n x with st := .trapped, blocked := none }
    ∧ (t.core n).rcv.traps = (s.core n).rcv.traps ++
        [{ code := code, reported := false, orphan := false, pc := b.pc, val := val, rpc := b.pc, ctx := some x
           stamp := cycleOf s n }]

/-- R186: the word that a `chsend` or a `chmark` sends that issued with the registers `g`. -/
def wordOf (g : Regs) (n : Node) (v : Option VReg) (a : SReg) (stream : Fin 64) : ChWord :=
  { val := (v.map g.vreg).getD { data := 0, tag := 8, sp := false, side := 0 }, htag := (g.sreg a).extractLsb' 0 8
    usr := (g.sreg a).getLsbD 8, mark := v.isNone, src := n, stream := stream }

end Sys2Proof.Claims

/-- R277: `trg.arm` sets and `trg.off` clears the armed bit of the named entries and changes nothing else of any
entry; arming one with HPC 0 takes `E_PERM` with the lowest such entry. -/
def Sys2Proof.Claims.TriggerArming : Prop :=
  ∀ (x : RegOrImm) (s : State),
    (∀ p ∈ [(Instr.trgArm x, true), (.trgOff x, false)], canStart s p.1 = true →
      (p.2 = true → ∀ e : Fin 32, namesEntry s.sr x e = true → s.cn.trg.entries[e].hpc ≠ 0) →
      CompletesAt s p.1 (goneOn s s.cc) [.entries] fun t => ∀ e : Fin 32, t.cn.trg.entries[e] =
        { s.cn.trg.entries[e] with tctl := if namesEntry s.sr x e then
            (if p.2 then s.cn.trg.entries[e].tctl ||| 1 else s.cn.trg.entries[e].tctl &&& 0xFE)
          else s.cn.trg.entries[e].tctl })
    ∧ ∀ e : Fin 32, canStart s (.trgArm x) = true → s.cur.ctx ≠ 7 → namesEntry s.sr x e = true →
        s.cn.trg.entries[e].hpc = 0 →
        (∀ f : Fin 32, f < e → namesEntry s.sr x f = true → s.cn.trg.entries[f].hpc ≠ 0) →
        TrapsAt s (.trgArm x) 0x04 (BitVec.ofNat 64 e.val)

/-- R276, R271–R274: `flg.set` and `flg.clr` write the flags of their mask, `cnt.add` adds modulo 2^32, `cnt.set` sets,
`cnt.rd` reads; `cnt.wait` takes the counter's value when it has been reached, and otherwise blocks in WAIT_CNT. -/
def Sys2Proof.Claims.FlagsAndCounters : Prop :=
  ∀ (d : SReg) (k : Fin 64) (x : RegOrImm) (s : State),
    let kv := s.cn.sync.k[k]
    (canStart s (.flgSet x) = true → CompletesAt s (.flgSet x) (goneOn s s.cc) [.flags] fun t =>
      t.cn.sync.flags = s.cn.sync.flags ||| mask16 s.sr x)
    ∧ (canStart s (.flgClr x) = true → CompletesAt s (.flgClr x) (goneOn s s.cc) [.flags] fun t =>
      t.cn.sync.flags = s.cn.sync.flags &&& ~~~(mask16 s.sr x))
    ∧ (canStart s (.cntAdd k x) = true → CompletesAt s (.cntAdd k x) (goneOn s s.cc) [.counters] fun t =>
      ∀ j : Fin 64, t.cn.sync.k[j] = if j = k then kv + value32 s.sr x else s.cn.sync.k[j])
    ∧ (canStart s (.cntSet k x) = true → CompletesAt s (.cntSet k x) (goneOn s s.cc) [.counters] fun t =>
      ∀ j : Fin 64, t.cn.sync.k[j] = if j = k then value32 s.sr x else s.cn.sync.k[j])
    ∧ (canStart s (.cntRd d k) = true →
      CompletesAt s (.cntRd d k) (goneOn s (s.cc.setSreg d (kv.setWidth 64))) [] fun _ => True)
    ∧ ∀ eq, canStart s (.cntWait d k x eq) = true →
        (Reached eq kv (value32 s.sr x) →
          CompletesAt s (.cntWait d k x eq) (goneOn s (s.cc.setSreg d (kv.setWidth 64))) [] fun _ => True)
        ∧ (¬Reached eq kv (value32 s.sr x) → ∃ t, exec (.cntWait d k x eq) s = .next t ∧ Kept [.names] s t
          ∧ t.cc = blockedAs s (.cntWait d k x eq) .waitCnt 0)

/-- R278–R280, R282: `bar.arr` answers the phase (REL + PEND) mod 4, raises PEND, and sends a token for that phase,
which waits for the context's accesses in the tree's scope, its words in flight and its accesses through the local alias
port that have yet to perform; `bar.wait` completes on one of the two phases last released,
and otherwise blocks in WAIT_BAR. -/
def Sys2Proof.Claims.BarrierArrivals : Prop :=
  ∀ (d a : SReg) (b : Fin 16) (cp : Bool) (s : State),
    let x := vget s.cn.sync.bar {} b
    let phase : BitVec 2 := BitVec.ofNat 2 (x.rel.toNat + x.pend)
    b ≠ 15 →
    (canStart s (.barArr d b cp) = true → barFault s b true = none →
      CompletesAt s (.barArr d b cp) (goneOn s (s.cc.setSreg d (phase.setWidth 64))) [.barriers, .net, .names] fun t =>
        vget t.cn.sync.bar {} b = { x with pend := x.pend + 1, who := x.who ++ [(s.cur.ctx, s.nextId)] }
          ∧ (∀ c, c ≠ b.val → vget t.cn.sync.bar {} c = vget s.cn.sync.bar {} c)
          ∧ ∃ m, t.net = s.net ++ [m] ∧ m.kind = .token (hubOf s.cur.core) b phase cp ∧ m.src = s.cur.core
            ∧ (∀ e ∈ s.cn.comm.tracker, e.ctx = s.cur.ctx →
                inTreeScope s b (homeOf s (nodeWafer s.cur.core) e.ga) = true → e.id ∈ m.after)
            ∧ (∀ w ∈ wordsOut s s.cur.core s.cur.ctx, w ∈ m.after)
            ∧ ∀ l ∈ myLater s, l.id ∈ m.after)
    ∧ (canStart s (.barArr d b cp) = true → s.cur.ctx ≠ 7 → ∀ i img, slotOf s s.cur.core = some i →
      ((s.module (nodeWafer s.cur.core)).slot i).image = some img →
      (img.barUsed.getLsbD b = false → TrapsAt s (.barArr d b cp) 0x04 (BitVec.ofNat 64 b.val))
      ∧ (img.barUsed.getLsbD b = true → isWide s (nodeWafer s.cur.core) i b = false → x.pend = 2 →
        TrapsAt s (.barArr d b cp) 0x09 (BitVec.ofNat 64 b.val)))
    ∧ (canStart s (.barWait a b) = true → barFault s b false = none →
      ((s.sr a).extractLsb' 0 2 = x.rel - 1 ∨ (s.sr a).extractLsb' 0 2 = x.rel - 2 →
        CompletesAt s (.barWait a b) (goneOn s s.cc) [] fun _ => True)
      ∧ (¬((s.sr a).extractLsb' 0 2 = x.rel - 1 ∨ (s.sr a).extractLsb' 0 2 = x.rel - 2) →
        ∃ t, exec (.barWait a b) s = .next t ∧ Kept [.names] s t ∧ t.cc = blockedAs s (.barWait a b) .waitBar 0))
    ∧ (canStart s (.barWait a b) = true → s.cur.ctx ≠ 7 → slotOf s s.cur.core = none →
      TrapsAt s (.barWait a b) 0x04 (BitVec.ofNat 64 b.val))

/-- R281: an arrival or a report for the phase that a node collects is counted, one for the next phase is kept for it;
a node whose phase is complete reports it upward, or releases it. -/
def Sys2Proof.Claims.BarrierNodes : Prop :=
  ∀ (s : State) (m : Nat) (msg : Msg) (h : Node) (b : Nat) (p : BitVec 2) (cp : Bool), b < 15 →
    arriving s m = some msg →
    let x := s.barNode h b
    (∀ (i : Instr) (y z : BarNode),
      (msg.kind = .token h b p cp ∧ i = .barrierArrivalToken m
        ∧ (p = x.cur → x.c0 + 1 ≤ x.localCount.toNat) ∧ (p = x.cur + 1 → x.c1 + 1 ≤ x.localCount.toNat)
        ∧ y = { x with c0 := x.c0 + 1, cp0 := x.cp0 || cp } ∧ z = { x with c1 := x.c1 + 1, cp1 := x.cp1 || cp })
      ∨ (∃ c, msg.kind = .report h c b p cp ∧ i = .barrierChildReport m
        ∧ y = { x with rep0 := x.rep0 ||| BitVec.ofNat 4 (2 ^ c), cp0 := x.cp0 || cp }
        ∧ z = { x with rep1 := x.rep1 ||| BitVec.ofNat 4 (2 ^ c), cp1 := x.cp1 || cp }) →
      (p = x.cur → ∃ t, exec i s = .next t ∧ EventKept 0 [.net, .names, .hubs] s t ∧ OnlyBarNode h b s t
        ∧ t.barNode h b = y ∧ Delivered s t m (if nodeComplete t h b then barReport s h b y else []))
      ∧ (p = x.cur + 1 → ∃ t, exec i s = .next t ∧ EventKept 0 [.net, .hubs] s t ∧ OnlyBarNode h b s t
        ∧ t.barNode h b = z ∧ Delivered s t m []))

/-- R281, R278: a release goes down the tree: from a node to its children and its 64 cores, and the node goes on to the
next phase; at a core REL goes up by 1 modulo 4, and PEND down by 1 unless it is 0. A tree at which no core arrives completes
its next phase at once, which is the model's reading (log 50). -/
def Sys2Proof.Claims.BarrierReleases : Prop :=
  ∀ (s : State) (m : Nat) (msg : Msg) (b : Nat), b < 15 → arriving s m = some msg →
    (∀ h p, msg.kind = .relHub h b p false → (s.barNode h b).c1 = 0 → (s.barNode h b).rep1 = 0 →
      ∃ t, exec (.barrierReleaseArrive m) s = .next t ∧ EventKept 0 [.net, .names, .hubs] s t ∧ OnlyBarNode h b s t
        ∧ t.barNode h b = { s.barNode h b with
            cur := (s.barNode h b).cur + 1, c0 := 0, rep0 := 0, cp0 := (s.barNode h b).cp1, cp1 := false }
        ∧ Delivered s t m ((((List.range 4).filter fun d => (s.barNode h b).child.getLsbD d).map fun d =>
              .relHub (hubNext h d) b p false)
            ++ ((clusterCores (nodeWafer h) (clusterOf h)).map fun c => .relCore c b)
            ++ if silentRoot s h b && nodeComplete t h b then barReport s h b (t.barNode h b) else []))
    ∧ ∀ n, msg.kind = .relCore n b →
      ∃ t, exec (.barrierReleaseArrive m) s = .next t ∧ EventKept n [.net, .barriers] s t ∧ Delivered s t m []
        ∧ vget (t.core n).sync.bar {} b =
            { rel := (vget (s.core n).sync.bar {} b).rel + 1, pend := (vget (s.core n).sync.bar {} b).pend - 1
              who := (vget (s.core n).sync.bar {} b).who.drop 1 }
        ∧ ∀ c, c ≠ b → vget (t.core n).sync.bar {} c = vget (s.core n).sync.bar {} c

/-- R284: a wide barrier's root counts the report of a member for the phase that it collects; when every member has
reported, it releases the phase to each member that remains and collects the next, of which the members that leave take
no part; a phase marked CP waits for the writes of R283. -/
def Sys2Proof.Claims.WideBarriers : Prop :=
  ∀ (s : State) (m : Nat) (msg : Msg) (d b w slot : Nat) (cp : Bool),
    let x := vget (s.domain d).wide {} b
    b < 15 → arriving s m = some msg → msg.kind = .wide d b w slot x.cur cp →
      let y : WideBar := { x with rep := (w, slot) :: x.rep, cp := x.cp || cp }
      (y.complete = false →
        ∃ t, exec (.wideBarrierReport m) s = .next t ∧ EventKept 0 [.net, .domains] s t ∧ Delivered s t m []
          ∧ vget (t.domain d).wide {} b = y)
      ∧ (y.complete = true ↔ x.members ≠ [] ∧ ∀ r ∈ x.members, r = (w, slot) ∨ r ∈ x.rep)
      ∧ (y.complete = true → (x.cp || cp) = false →
        ∃ t, exec (.wideBarrierReport m) s = .next t ∧ EventKept 0 [.net, .names, .domains] s t
          ∧ vget (t.domain d).wide {} b =
              { cur := x.cur + 1, members := x.members.filter fun r => !x.leaving.contains r
                rep := x.rep1, rep1 := [], cp := x.cp1, cp1 := false, leaving := [], closing := none }
          ∧ ((∀ r ∈ x.members, r ∉ x.leaving → (wideRoot s r.1 r.2 b).isSome = true) →
              Delivered s t m ((x.members.filter fun r => !x.leaving.contains r).map fun r =>
                .relHub ((wideRoot s r.1 r.2 b).getD 0) b x.cur false)))
      ∧ (y.complete = true → (x.cp || cp) = true →
        ∃ t, exec (.wideBarrierReport m) s = .next t ∧ EventKept 0 [.net, .names, .domains] s t
          ∧ let z := vget (t.domain d).wide {} b
            (z.cur = x.cur + 1 ∧ z.rep = x.rep1 ∨ z.cur = x.cur ∧ z.rep = y.rep ∧ z.closing.isSome = true))

/-- R125, R128: which candidate fires: none while the region is frozen, HOLD is set or no context among 0–6 is FREE;
otherwise the first that is ready, entries 0–15, the pseudo-trigger, entries 16–31, read from TRG_CTL.PTR on when ROT is
set. -/
def Sys2Proof.Claims.FiringOrder : Prop :=
  (∀ (c : Core) (e : Nat), entryReady c e = true ↔
    let t := vget c.trg.entries {} e
    t.tctl.getLsbD 0 = true ∧ (∀ i : Fin 16, t.fmask.getLsbD i = true → c.sync.flags.getLsbD i = t.fval.getLsbD i)
      ∧ (∀ x ∈ [t.conda, t.condb],
          let ch := (x.extractLsb' 8 5).toNat
          let words := queueOf c ch
          x.extractLsb' 14 2 = 0 ∨ claimed c ch = false ∧ spilled c ch = false
            ∧ (x.extractLsb' 14 2 = 1 → words ≠ [])
            ∧ (x.extractLsb' 14 2 = 2 → ∃ w l, words = w :: l ∧ w.htag = x.extractLsb' 0 8)
            ∧ (x.extractLsb' 14 2 = 3 → (x.extractLsb' 0 8).toNat + words.length ≤ 16 ∨ (x.extractLsb' 0 8).toNat = 0))
      ∧ ∀ x ∈ [t.binda, t.bindb], x.getLsbD 7 = true →
          claimed c (x.extractLsb' 0 5).toNat = false ∧ spilled c (x.extractLsb' 0 5).toNat = false)
    ∧ (∀ (s : State) (n : Node), isFrozen s n = true ∨ (s.core n).trg.ctl.getLsbD 1 = true
        ∨ (∀ x : Fin 8, x ≠ 7 → (s.ctx n x).st ≠ .free) → fires s n = none)
    ∧ (∀ (s : State) (n : Node) (e : Nat), (s.core n).trg.ctl.getLsbD 0 = false →
        (fires s n = some (some e) → e < 32 ∧ entryReady (s.core n) e = true
          ∧ (∀ f, f < e → entryReady (s.core n) f = false) ∧ (16 ≤ e → pseudoReady (s.core n) = false))
        ∧ (fires s n = some none → pseudoReady (s.core n) = true ∧ ∀ f, f < 16 → entryReady (s.core n) f = false))
    ∧ ∀ (s : State) (n : Node) (e : Nat), (s.core n).trg.ctl.getLsbD 0 = true → fires s n = some (some e) →
        let ptr := ((s.core n).trg.ctl.extractLsb' 8 5).toNat
        e < 32 ∧ entryReady (s.core n) e = true
          ∧ ∀ f, f < 32 → (f + 32 - ptr) % 32 < (e + 32 - ptr) % 32 → entryReady (s.core n) f = false

/-- R130: a firing takes the lowest FREE context of 0–6 and starts it at the entry's HPC with the registers of the
table; a one-shot entry is disarmed. A pseudo-trigger leaves the queue and leaves its entry as it is. -/
def Sys2Proof.Claims.HandlersStart : Prop :=
  ∀ (s : State) (n : Node) (x : Fin 8), (s.ctx n x).st = .free → x ≠ 7 → (∀ y, y < x → (s.ctx n y).st ≠ .free) →
    let started (e : Nat) (regs : List Word) (t : State) : Prop :=
      let k := t.ctx n x
      let en := vget (s.core n).trg.entries {} e
      KeptAt n x [.own, .entries, .pseudo, .trgCtl, .lastFired] s t
        ∧ k.st = .ready ∧ k.pc = en.hpc ∧ cycleOf s n + 2 ≤ k.notBefore
        ∧ (∀ r : SReg, k.sreg r = regs.getD r.val 0) ∧ (∀ r : VReg, k.vreg r = { data := 0, tag := 8, sp := false, side := 0 })
        ∧ (∀ r : PReg, k.preg r = 0) ∧ k.lpCnt = 0 ∧ k.lpBeg = 0 ∧ k.lpEnd = 0
        ∧ k.sts = (s.ctx n x).sts &&& 0x10 ∧ k.blocked = none ∧ k.pending = []
        ∧ k.bind0.getLsbD 5 = en.binda.getLsbD 7
        ∧ (en.binda.getLsbD 7 = true → k.bind0.extractLsb' 0 5 = en.binda.extractLsb' 0 5)
        ∧ (en.bindb.getLsbD 7 = true → ¬(en.binda.getLsbD 7 = true ∧ en.binda.extractLsb' 0 5 = en.bindb.extractLsb' 0 5) →
            k.bind1.getLsbD 5 = true ∧ k.bind1.extractLsb' 0 5 = en.bindb.extractLsb' 0 5)
        ∧ (t.core n).trg.lastEntry = BitVec.ofNat 5 e
        ∧ (((s.core n).trg.ctl.getLsbD 0 = false → (t.core n).trg.ctl = (s.core n).trg.ctl))
    let coords := BitVec.ofNat 64 ((relXY s n).1 + (relXY s n).2 * 2 ^ 16)
    (∀ e, fires s n = some (some e) →
      ∃ t, exec (.triggerFire n) s = .next t
        ∧ started e [0, BitVec.ofNat 64 (nodeNum n), coords, BitVec.ofNat 64 e] t
        ∧ (t.core n).trg.lastPseudo = false ∧ (t.core n).trg.pseudo = (s.core n).trg.pseudo
        ∧ ((s.core n).trg.ctl.getLsbD 0 = true →
            ((t.core n).trg.ctl.extractLsb' 8 5).toNat = (e + 1) % 32)
        ∧ ∀ f : Fin 32, (t.core n).trg.entries[f] = { (s.core n).trg.entries[f] with
            tctl := if f.val = e ∧ (s.core n).trg.entries[f].tctl.getLsbD 1 = false then
                (s.core n).trg.entries[f].tctl &&& 0xFE else (s.core n).trg.entries[f].tctl })
    ∧ ∀ p rest, fires s n = some none → (s.core n).trg.pseudo = p :: rest →
      ∃ t, exec (.pseudoTriggerFire n) s = .next t
        ∧ started p.h [0, BitVec.ofNat 64 (nodeNum n), coords, BitVec.ofNat 64 (0x100 + p.h.val),
            BitVec.ofNat 64 p.la, BitVec.ofNat 64 p.len, BitVec.ofNat 64 (location s p.src)] t
        ∧ (t.core n).trg.lastPseudo = true ∧ (t.core n).trg.pseudo = rest
        ∧ ((s.core n).trg.ctl.getLsbD 0 = true → (t.core n).trg.ctl.extractLsb' 8 5 = 16)
        ∧ (t.core n).trg.entries = (s.core n).trg.entries

/-- R131–R133, R158, R167, R186, R189, R262, R273, R280, R295, R320, R332: a context that is blocked and may wake completes
its instruction when its condition holds, becomes READY and goes on, with the registers that the instruction read when it
issued; while the condition does not hold it stays blocked. In WAIT_CNT, WAIT_BAR, WAIT_COLL, WAIT_MXU and WAIT_SEAL that is
the counter, either of the two phases last released, the mailbox, the operations before it, and the release of its seal
with the delivery; in WAIT_FE the word's bit, in WAIT_LOG room in the log, in WAIT_SEND a credit, in WAIT_NB the
neighbour's register or its word, in WAIT_RECV the head word. A context that blocked earlier for the same comes first.
A frozen region wakes nothing. `mx.ldwc` and `seal.wait` end with what ends them (R252, R332). -/
def Sys2Proof.Claims.Wakes : Prop :=
  ∀ (s : State) (n : Node) (x : Fin 8) (b : Blocked),
    let k := s.ctx n x
    let u := asBlocked s n x b
    let c := s.core n
    let g := b.regs
    let stays (st : CtxState) (arg : Nat) : Prop := k.st = st → b.arg = arg → exec (.contextWake n x) s = .next u
    let woken (k' : Ctx) (but : List Part) (q : State → Prop) : Prop := WakesTo s u n x b k' but q
    let done (k' : Ctx) : Prop := woken k' [] fun _ => True
    let isNow (w : Nat) (on : Bool) (t : State) : Prop := (t.core n).mem.full.contains w = on
      ∧ ∀ y, y ≠ w → (t.core n).mem.full.contains y = c.mem.full.contains y
    let stored (w len : Nat) (more : List Part) (k' : Ctx) (bs : List Byte) (q : State → Prop) : Prop :=
      woken k' (storeParts ++ logParts ++ more) fun t => BytesAt t n w bs ∧ OtherBytesKept n w bs.length u t ∧ q t
        ∧ (Unlogged u w len → KeptAt n x (.own :: .watch :: (storeParts ++ more)) u t)
    (isFrozen s n = true → exec (.contextWake n x) s = .next s)
    ∧ (mayWake s n x = some b → k.reports = [] → memWf c.mem.mem = true →
      (∀ v, tryBlocked u b = some (.done v) → (v.ctx n x).blocked = some b → (v.ctx n x).reports = [] →
        ∃ t d, d ≤ 2 ∧ exec (.contextWake n x) s = .next t ∧ KeptAt n x [.own, .watch] v t
          ∧ t.ctx n x = wokenAs (v.ctx n x) b (cycleOf v n + d))
      ∧ (∀ st arg, tryBlocked u b = some (.wait st arg) →
        ∃ t, exec (.contextWake n x) s = .next t ∧ KeptAt n x [.own, .watch] u t
          ∧ t.ctx n x = { k with st := st, blocked := some { b with arg := arg } })
      ∧ (∀ v st arg, tryBlocked u b = some (.part v st arg) → (v.ctx n x).blocked = some b →
        ∃ t, exec (.contextWake n x) s = .next t ∧ KeptAt n x [.own, .watch] v t
          ∧ t.ctx n x = { v.ctx n x with st := st, blocked := some { b with arg := arg } })
      ∧ (∀ e : TrapOf, x ≠ 7 → tryBlocked u b = some (.trap e) → WakeTraps s u n x b e.code e.val)
      ∧ (∀ d y v eq, b.instr = .cntWait d y v eq →
        (Reached eq c.sync.k[y] (value32 g.sreg v) → done (k.setSreg d (c.sync.k[y].setWidth 64)))
        ∧ (¬Reached eq c.sync.k[y] (value32 g.sreg v) → stays .waitCnt 0))
      ∧ (∀ a y, b.instr = .barWait a y →
        let p := (g.sreg a).extractLsb' 0 2
        let rel := (vget c.sync.bar {} y).rel
        (p = rel - 1 ∨ p = rel - 2 → done k) ∧ (¬(p = rel - 1 ∨ p = rel - 2) → stays .waitBar 0))
      ∧ (∀ d a m, b.instr = .collWait d a m →
        let due : Prop := Reached false (c.sync.mb[m].extractLsb' 0 32) ((g.sreg a).extractLsb' 0 32)
        (due → done (k.setSreg d c.sync.mb[m])) ∧ (¬due → stays .waitColl 0))
      ∧ (b.instr = .mxSync → (b.arg ≤ c.mx.done → done k) ∧ (c.mx.done < b.arg → stays .waitMxu b.arg))
      ∧ (∀ d st, b.instr = .egrNow d st →
        (c.rcv.arrival ≠ some x → ∀ w i e y, egressOf s n st = some (w, i, e) → endpoint s w i e = some y →
          (b.arg ≤ y.pos → done (k.setSreg d (c.rcv.rbCount ++ c.rcv.rinSealed)))
          ∧ (y.pos < b.arg → stays .waitSeal b.arg))
        ∧ (c.rcv.arrival = some x → stays .waitSeal b.arg))
      ∧ (∀ d r a off, let w := (g.sreg a + off.signExtend 64).toNat
        let word : Word := BitVec.ofNat 64 (leNat (laBytes c w 4))
        laRangeOf w 4 = some .scratch → w % 4 = 0 →
          (b.instr = .ldWf d a off →
            (c.mem.full.contains w = true → done (k.setSreg d word))
            ∧ (c.mem.full.contains w = false → c.sync.watch.contains w = true → stays .waitFe w))
          ∧ (b.instr = .ldWfe d a off →
            (c.mem.full.contains w = true → behind u (.full w) .waitFe = false → readersWait u w = false →
              (logStalls c w 4 = false → stored w 4 [.full] (k.setSreg d word) [] (isNow w false))
              ∧ (logStalls c w 4 = true → stays .waitLog w))
            ∧ (c.mem.full.contains w = false ∨ behind u (.full w) .waitFe = true → c.sync.watch.contains w = true →
              stays .waitFe w))
          ∧ (b.instr = .stWef r a off →
            (c.mem.full.contains w = false → behind u (.empty w) .waitFe = false →
              (logStalls c w 4 = false → stored w 4 [.full] k (leBytes 4 (g.sreg r).toNat) (isNow w true))
              ∧ (logStalls c w 4 = true → stays .waitLog w))
            ∧ (c.mem.full.contains w = true ∨ behind u (.empty w) .waitFe = true → c.sync.watch.contains w = true →
              stays .waitFe w)))
      ∧ (∀ r a off, ∀ p ∈ [(Instr.stN8 r a off, 1), (.stN16 r a off, 2), (.stN32 r a off, 4), (.stN64 r a off, 8)],
        b.instr = p.1 → let w := (g.sreg a + off.signExtend 64).toNat
        let bs := leBytes p.2 (g.sreg r).toNat
        w % p.2 = 0 → laRangeOf w p.2 ∈ [some .scratch, some .acc, some .shelf] →
          (logStalls c w p.2 = true → stays .waitLog 0)
          ∧ (logStalls c w p.2 = false → defers u w p.2 = false → stored w p.2 [] k bs fun _ => True)
          ∧ (logStalls c w p.2 = false → defers u w p.2 = true →
            woken k ([.later, .names] ++ writeParts ++ logParts) fun t => ∃ id, s.nextId ≤ id ∧ (t.core n).later =
              c.later ++ [{ laterOf u w p.2 (.store bs (BitVec.allOnes 32)) with id := id }]))
      ∧ (∀ v a st, ∀ p ∈ [(Instr.chsend v a st, wordOf g n (some v) a st), (.chmark a st, wordOf g n none a st)],
        b.instr = p.1 → isChunkStream s n st = false →
          let word := { p.2 with lot := s.nextId }
          (creditsOf s n st = 0 → stays .waitSend st)
          ∧ (0 < creditsOf s n st → egressOf s n st = none →
            woken k [.net, .names, .lots, .credits, .sent, .out] fun t =>
              creditsOf t n st = creditsOf s n st - 1 ∧ t.lots = s.lots ++ [(s.nextId, n, st.val, 1)]
                ∧ (s.nextId, x) ∈ (t.core n).comm.out ∧ ∃ m, t.net = s.net ++ [m] ∧ m.kind = .word n 4 word)
          ∧ (∀ w i e, 0 < creditsOf s n st → egressOf s n st = some (w, i, e) → p.2.mark = false →
            woken k [.net, .names, .credits, .sent, .out] fun t =>
              creditsOf t n st = creditsOf s n st - 1
                ∧ (s.nextId, x) ∈ (t.core n).comm.out ∧ ∃ m, t.net = s.net ++ [m] ∧ m.kind = .egress w i e word))
      ∧ (∀ v (dir : Dir) q, b.instr = .nbPut v dir → neighbour s n dir.code = some q →
        (nbBusy s n dir.code = true → stays .waitNb 0)
        ∧ (nbBusy s n dir.code = false → woken k [.net, .names, .out] fun t =>
          Sent s t [.nbWord q (oppositeDir dir.code) (g.vreg v)] ∧ (s.nextId, x) ∈ (t.core n).comm.out))
      ∧ (∀ v (dir : Dir), b.instr = .nbGet v dir →
        (vget c.comm.nb none dir.code = none → stays .waitNb 0)
        ∧ (∀ w, vget c.comm.nb none dir.code = some w → behind u (.nb dir.code) .waitNb = false →
          behindUnit u (.nb dir.code) = false →
          (validPair w = true → woken (k.setVreg v w) [.ports] fun t =>
            (t.core n).comm.nb = vset c.comm.nb dir.code none)
          ∧ (validPair w = false → x ≠ 7 → WakeTraps s u n x b 0x06 0)))
      ∧ ∀ v d ch y, b.instr = .chrecv v d ch → c.chan ch = some y →
        (y.spill ≠ [] ∨ y.queue = [] → stays .waitRecv ch)
        ∧ (y.spill = [] → y.queue ≠ [] → behind u (.chan ch) .waitRecv = true ∨ behindUnit u (.chan ch) = true →
          stays .waitRecv ch)
        ∧ (∀ w rest, y.spill = [] → y.queue = w :: rest → behind u (.chan ch) .waitRecv = false →
          behindUnit u (.chan ch) = false →
          (validPair w.val = true → ∃ info, InfoIs info (some w) 0 ∧
            woken ((k.setVreg v w.val).setSreg d info) [.chans, .net, .names, .lots] fun t => Taken u t ch y w rest)
          ∧ (validPair w.val = false → x ≠ 7 → WakeTraps s u n x b 0x06 0)))

/-- R271–R274, R276, R277: arming, flags and counters. -/
def Obligations.TriggersAndFlags : Prop :=
  Sys2Proof.Claims.TriggerArming
    ∧ Sys2Proof.Claims.FlagsAndCounters

/-- R278–R282, R284: a barrier, from its arrivals through its tree to its release. -/
def Obligations.Barriers : Prop :=
  Sys2Proof.Claims.BarrierArrivals
    ∧ Sys2Proof.Claims.BarrierNodes
    ∧ Sys2Proof.Claims.BarrierReleases
    ∧ Sys2Proof.Claims.WideBarriers

/-- R125, R128, R130–R133, R158, R167, R186, R189, R262, R273, R280, R295, R320, R332: which trigger fires, what a
handler starts with, and what wakes a blocked context. -/
def Obligations.Firing : Prop :=
  Sys2Proof.Claims.FiringOrder
    ∧ Sys2Proof.Claims.HandlersStart
    ∧ Sys2Proof.Claims.Wakes


/-! ### Vector instructions -/

namespace Sys2Proof.Claims

/-- R215: lane `j` is selected. -/
def picks (s : State) : Option PReg → Nat → Bool
  | none, j => decide (j < 32)
  | some p, j => (s.pr p).getLsbD j

/-- R42, R114: OF and NV are sticky. -/
def flagged (k : Ctx) (ovf inv : Bool) : Ctx :=
  { k with sts := k.sts ||| (if ovf then 4 else 0) ||| (if inv then 2 else 0) }

/-- R215, R216: the elements in the selected lanes become those of `f`, the others stay; the register takes `tag`, SP 0
and side field 0; OF and NV are set where an element that was written overflowed or was invalid. -/
def VecWrites (s : State) (i : Instr) (vd : VReg) (pm : Option PReg) (ty : VTy) (tag : BitVec 4) (f : Nat → Rounded) :
    Prop :=
  let on (e : Nat) : Bool := picks s pm (e * ty.width / 32)
  let any (flag : Rounded → Bool) : Bool := (List.range ty.count).any fun e => on e && flag (f e)
  ∃ v : VVal, v.tag = tag ∧ v.sp = false ∧ v.side = 0
    ∧ (∀ e, e < ty.count → elem ty.width e v.data =
        if on e then BitVec.ofNat ty.width (f e).enc else elem ty.width e (s.vr vd).data)
    ∧ CompletesAt s i (goneOn s (flagged (s.cc.setVreg vd v) (any (·.ovf)) (any (·.inv)))) [] fun _ => True

/-- R222, R223, R229: the selected lanes become those of `f`, the others stay. -/
def LaneWrites (s : State) (i : Instr) (vd : VReg) (pm : Option PReg) (tag : BitVec 4) (sp : Bool) (side : BitVec 64)
    (f : Fin 32 → BitVec 32) : Prop :=
  ∃ v : VVal, v.tag = tag ∧ v.sp = sp ∧ v.side = side
    ∧ (∀ j : Fin 32, lane v.data j = if picks s pm j then f j else lane (s.vr vd).data j)
    ∧ CompletesAt s i (goneOn s (s.cc.setVreg vd v)) [] fun _ => True

/-- R218: the two-operand forms. -/
def vecForm (op : VOp) (vd va vb : VReg) (pm : Option PReg) (ty : VTy) (rnd : RMode) (sat : Bool) : Instr :=
  match op with
  | .add => .vadd vd va vb pm ty rnd sat
  | .sub => .vsub vd va vb pm ty rnd sat
  | .mul => .vmul vd va vb pm ty rnd sat
  | .min => .vmin vd va vb pm ty rnd sat
  | .max => .vmax vd va vb pm ty rnd sat

/-- R219: the immediate forms. -/
def vecImmForm (op : VOp) (vd va : VReg) (pm : Option PReg) (ty : VTy) (rnd : RMode) (sat : Bool) (imm : BitVec 16) :
    Instr :=
  match op with
  | .add => .vaddImm vd va pm ty rnd sat imm
  | .sub => .vsubImm vd va pm ty rnd sat imm
  | .mul => .vmulImm vd va pm ty rnd sat imm
  | .min => .vminImm vd va pm ty rnd sat imm
  | .max => .vmaxImm vd va pm ty rnd sat imm

/-- R220: the special functions; `vsqrt` alone takes a rounding mode, the others take `.sat`. -/
def fnForm (fn : VFn) (vd va : VReg) (pm : Option PReg) (ty : VTy) (rnd : RMode) (sat : Bool) : Instr :=
  match fn with
  | .rcp => .vrcp vd va pm ty sat
  | .rsqrt => .vrsqrt vd va pm ty sat
  | .sqrt => .vsqrt vd va pm ty rnd
  | .exp2 => .vexp2 vd va pm ty sat
  | .log2 => .vlog2 vd va pm ty sat
  | .tanh => .vtanh vd va pm ty sat
  | .sgm => .vsgm vd va pm ty sat

/-- R218, R40, R43: one element: floating operands are combined exactly and rounded once, `vmin` and `vmax` select;
integers keep the low 32 bits, and compare signed under `.s32`. -/
def vecValue (op : VOp) (ty : VTy) (rnd : RMode) (sat : Bool) (a b : Nat) : Rounded :=
  let x := decodeFloat ty.ffmt a
  let y := decodeFloat ty.ffmt b
  let p : BitVec 32 := BitVec.ofNat 32 a
  let q : BitVec 32 := BitVec.ofNat 32 b
  let less : Bool := if ty == .s32 then p.sle q else p.ule q
  let word (w : BitVec 32) : Rounded := { enc := w.toNat, ovf := false, inv := false }
  if ty == .f32 || ty == .bf16 then
    match op with
    | .add => roundFloat ty.ffmt rnd sat (x.add rnd y)
    | .sub => roundFloat ty.ffmt rnd sat (x.add rnd y.neg)
    | .mul => roundFloat ty.ffmt rnd sat (x.mul y)
    | .min => roundFloat ty.ffmt rnd false (x.min y)
    | .max => roundFloat ty.ffmt rnd false (x.max y)
  else
    match op with
    | .add => word (p + q)
    | .sub => word (p - q)
    | .mul => word (p * q)
    | .min => word (if less then p else q)
    | .max => word (if less then q else p)

/-- R47, R219: an immediate as an element: the upper half of an FP32, a BF16, or an integer that is sign-extended under
`.s32` and zero-extended under `.n32`. -/
def immValue (ty : VTy) (imm : BitVec 16) : Nat :=
  match ty with
  | .f32 => (imm ++ (0 : BitVec 16)).toNat
  | .s32 => (imm.signExtend 32).toNat
  | _ => imm.toNat

/-- R218, R43: `vabs` and `vneg` of one element: the sign bit alone, or the canonical NaN for a NaN; for an integer the low
32 bits of its magnitude or of its negation. -/
def signValue (neg : Bool) (ty : VTy) (a : Nat) : Nat :=
  if ty == .f32 || ty == .bf16 then
    if decodeFloat ty.ffmt a = .nan then ty.ffmt.canonNaN
    else if neg then (if a < ty.ffmt.signBit then a + ty.ffmt.signBit else a - ty.ffmt.signBit) else a % ty.ffmt.signBit
  else if neg || (BitVec.ofNat 32 a).msb then (-(BitVec.ofNat 32 a)).toNat else a

/-- R49, R216: the register carries the tag of the type, without a scale. -/
def tagged (s : State) (ty : VTy) (r : VReg) : Prop := (s.vr r).tag = ty.tag ∧ (s.vr r).sp = false

/-- The element of a register, as a number. -/
def at_ (s : State) (ty : VTy) (r : VReg) (e : Nat) : Nat := (elem ty.width e (s.vr r).data).toNat

/-- R55: the value at place `i` of level `k` of the tree. -/
def treeAt {α : Type} (op : α → α → α) (x : Nat → α) : Nat → Nat → α
  | 0, i => x i
  | k + 1, i => op (treeAt op x k (2 * i)) (treeAt op x k (2 * i + 1))

/-- R56: lane `i` after `k` steps of a scan. -/
def scanAt {α : Type} (op : α → α → α) (x : Nat → α) : Nat → Nat → α
  | 0, i => x i
  | k + 1, i => if i < 2 ^ k then scanAt op x k i else op (scanAt op x k (i - 2 ^ k)) (scanAt op x k i)

/-- R230, R231: the element that a reduction or scan takes from a lane: the identity where it is excluded. -/
def taken (s : State) (op : ScanOp) (ty : VTy) (pm : Option PReg) (va : VReg) (e : Nat) : Rounded :=
  let wide : Nat := if ty == .bf16 then 65536 else 1
  { enc := if picks s pm (e * ty.width / 32) then at_ s ty va e * wide else op.identity (redType ty)
    ovf := false, inv := false }

/-- R41, R231: a lane of a scan: a NaN is the canonical one. -/
def canonical (ty : VTy) (r : Rounded) : Rounded :=
  if ty = .f32 ∧ decodeFloat .fp32 r.enc = .nan then { r with enc := 0x7FC00000 } else r

/-- R225: the word in the incoming W register. -/
def westWord (s : State) : VVal := (vget s.cn.comm.nb none 3).getD {}

/-- R225: the ports that a form needs are ready: the word from the west is there and acceptable and none waits for it
earlier, and the register of the neighbour to the east is empty. -/
structure PortsReady (s : State) (west east : Bool) (accepts : VVal → Bool) : Prop where
  westLink : west = true → (neighbour s s.cur.core 3).isSome = true
  eastLink : east = true → (neighbour s s.cur.core 1).isSome = true
  word : west = true → (vget s.cn.comm.nb none 3).isSome = true ∧ accepts (westWord s) = true
    ∧ behind s (.nb 3) .waitNb = false ∧ behindUnit s (.nb 3) = false
  room : east = true → nbBusy s s.cur.core 1 = false

/-- R225: the instruction takes the word from the west, and sends `out` east, as it needs. -/
def PortsUsed (s t : State) (west east : Bool) (out : VVal) : Prop :=
  t.cn.comm.nb = (if west then vset s.cn.comm.nb 3 none else s.cn.comm.nb)
    ∧ Sent s t (if east then [.nbWord ((neighbour s s.cur.core 1).getD 0) 3 out] else [])

/-- R233: the results of a conversion: a widening form reads part `p` of the source and writes all of `vd`, a narrowing
form writes part `p` and keeps the rest; every element sets the flags of its conversion. -/
def PartWrites (s : State) (i : Instr) (vd : VReg) (dst src : VTy) (p : Nat) (sp : Bool) (side : BitVec 64)
    (f : Nat → Rounded) : Prop :=
  let nd := dst.count
  let ns := src.count
  let first := if nd < ns then p * nd else 0
  let any (flag : Rounded → Bool) : Bool := (List.range (min nd ns)).any fun e => flag (f (first + e))
  ∃ v : VVal, v.tag = dst.tag ∧ v.sp = sp ∧ v.side = side
    ∧ (nd ≤ ns → ∀ e, e < nd → elem dst.width e v.data = BitVec.ofNat dst.width (f (first + e)).enc)
    ∧ (ns < nd → ∀ e, e < nd → elem dst.width e v.data =
        if p * ns ≤ e ∧ e < p * ns + ns then BitVec.ofNat dst.width (f (e - p * ns)).enc
        else elem dst.width e (s.vr vd).data)
    ∧ CompletesAt s i (goneOn s (flagged (s.cc.setVreg vd v) (any (·.ovf)) (any (·.inv)))) [] fun _ => True

/-- R240: the address of a lane. -/
def laneAddr (s : State) (b : VReg) (a : SReg) (off : BitVec 16) (j : Nat) : Nat :=
  (s.sr a + off.signExtend 64 + (lane (s.vr b).data j).setWidth 64).toNat

end Sys2Proof.Claims

/-- R218–R220: the arithmetic forms, their immediate forms, the fused forms, `vabs` and `vneg`, and the special functions
work element by element on the selected lanes. -/
def Sys2Proof.Claims.VectorArithmetic : Prop :=
  ∀ (vd va vb vc : VReg) (pm : Option PReg) (ty : VTy) (rnd : RMode) (sat : Bool) (imm : BitVec 16) (s : State),
    let a := at_ s ty va
    (∀ op i, i = vecForm op vd va vb pm ty rnd sat → wellFormed i = true → canStart s i = true →
      tagged s ty va → tagged s ty vb →
      VecWrites s i vd pm ty ty.tag fun e => vecValue op ty rnd sat (a e) (at_ s ty vb e))
    ∧ (∀ op i, i = vecImmForm op vd va pm ty rnd sat imm → wellFormed i = true → canStart s i = true →
      tagged s ty va → VecWrites s i vd pm ty ty.tag fun e => vecValue op ty rnd sat (a e) (immValue ty imm))
    ∧ (∀ p ∈ [(Instr.vfma vd va vb vc pm ty rnd sat, false, false), (.vfms vd va vb vc pm ty rnd sat, false, true),
        (.vfnma vd va vb vc pm ty rnd sat, true, false)], wellFormed p.1 = true → canStart s p.1 = true →
      tagged s ty va → tagged s ty vb → tagged s ty vc →
      VecWrites s p.1 vd pm ty ty.tag fun e =>
        let ab := (decodeFloat ty.ffmt (a e)).mul (decodeFloat ty.ffmt (at_ s ty vb e))
        let c := decodeFloat ty.ffmt (at_ s ty vc e)
        roundFloat ty.ffmt rnd sat ((if p.2.1 then ab.neg else ab).add rnd (if p.2.2 then c.neg else c)))
    ∧ (∀ p ∈ [(Instr.vabs vd va pm ty rnd sat, false), (.vneg vd va pm ty rnd sat, true)], wellFormed p.1 = true →
      canStart s p.1 = true → tagged s ty va →
      VecWrites s p.1 vd pm ty ty.tag fun e => { enc := signValue p.2 ty (a e), ovf := false, inv := false })
    ∧ ∀ fn i, i = fnForm fn vd va pm ty rnd sat → wellFormed i = true → canStart s i = true → tagged s ty va →
      VecWrites s i vd pm ty ty.tag fun e =>
        specialElem fn ty (if fn = .sqrt then rnd else .rne) (sat && fn != .sqrt) (a e)

/-- R216: a vector form whose source carries another tag than its type requires, or a scale, takes `E_FMT` precisely. -/
def Sys2Proof.Claims.VectorTagTraps : Prop :=
  ∀ (vd va vb vc : VReg) (pm : Option PReg) (ty : VTy) (rnd : RMode) (sat : Bool) (imm : BitVec 16) (s : State)
    (i : Instr), canStart s i = true → s.cur.ctx ≠ 7 →
      ((∃ op, i = vecForm op vd va vb pm ty rnd sat) ∧ (¬tagged s ty va ∨ ¬tagged s ty vb)
        ∨ (∃ op, i = vecImmForm op vd va pm ty rnd sat imm) ∧ ¬tagged s ty va
        ∨ (∃ fn, i = fnForm fn vd va pm ty rnd sat) ∧ ¬tagged s ty va
        ∨ i = .vfma vd va vb vc pm ty rnd sat ∧ (¬tagged s ty va ∨ ¬tagged s ty vb ∨ ¬tagged s ty vc)
        ∨ i = .vmulh vd va vb pm ty ∧ (¬tagged s ty va ∨ ¬tagged s ty vb)
        ∨ i ∈ [Instr.vredAdd vd va pm ty, .vredMax vd va pm ty, .vredMin vd va pm ty] ∧ ¬tagged s ty va) →
      TrapsAt s i 0x06 0

/-- R221: the results of the special functions on NaN, infinities, zeros and negative numbers, exact and without a
flag; sign bit 31, +Inf 0x7F800000, the canonical NaN 0x7FC00000, 1.0 0x3F800000, 0.5 0x3F000000. -/
def Sys2Proof.Claims.SpecialValues : Prop :=
  ∀ (rnd : RMode) (sat : Bool),
    let gives (fn : VFn) (b r : Nat) : Prop := specialF32 fn rnd sat b = { enc := r, ovf := false, inv := false }
    (∀ fn b, f32 (BitVec.ofNat 32 b) = .nan → gives fn b 0x7FC00000)
    ∧ (∀ b m e, f32 (BitVec.ofNat 32 b) = .fin true m e → m ≠ 0 →
        gives .rsqrt b 0x7FC00000 ∧ gives .sqrt b 0x7FC00000 ∧ gives .log2 b 0x7FC00000)
    ∧ gives .rcp 0xFF800000 0x80000000 ∧ gives .rcp 0x7F800000 0
    ∧ gives .rcp 0x80000000 0xFF800000 ∧ gives .rcp 0 0x7F800000
    ∧ gives .rsqrt 0xFF800000 0x7FC00000 ∧ gives .rsqrt 0x7F800000 0
    ∧ gives .rsqrt 0x80000000 0xFF800000 ∧ gives .rsqrt 0 0x7F800000
    ∧ gives .sqrt 0xFF800000 0x7FC00000 ∧ gives .sqrt 0x7F800000 0x7F800000
    ∧ gives .sqrt 0x80000000 0x80000000 ∧ gives .sqrt 0 0
    ∧ gives .exp2 0xFF800000 0 ∧ gives .exp2 0x7F800000 0x7F800000
    ∧ gives .exp2 0x80000000 0x3F800000 ∧ gives .exp2 0 0x3F800000
    ∧ gives .log2 0xFF800000 0x7FC00000 ∧ gives .log2 0x7F800000 0x7F800000
    ∧ gives .log2 0x80000000 0xFF800000 ∧ gives .log2 0 0xFF800000
    ∧ gives .tanh 0xFF800000 0xBF800000 ∧ gives .tanh 0x7F800000 0x3F800000
    ∧ gives .tanh 0x80000000 0x80000000 ∧ gives .tanh 0 0
    ∧ gives .sgm 0xFF800000 0 ∧ gives .sgm 0x7F800000 0x3F800000
    ∧ gives .sgm 0x80000000 0x3F000000 ∧ gives .sgm 0 0x3F000000

/-- R222, R223: the bitwise forms combine data bits and take tag, SP and side field of `va`; the shifts and `vmulh`
work on INT32 lanes. -/
def Sys2Proof.Claims.VectorBitsAndShifts : Prop :=
  ∀ (vd va vb : VReg) (pm : Option PReg) (ty : VTy) (s : State),
    let a := s.vr va
    let la (j : Fin 32) := lane a.data j
    let lb (j : Fin 32) := lane (s.vr vb).data j
    (∀ p ∈ [(Instr.vand vd va vb pm, fun x y : BitVec 32 => x &&& y), (.vor vd va vb pm, fun x y => x ||| y),
        (.vxor vd va vb pm, fun x y => x ^^^ y)], canStart s p.1 = true →
      LaneWrites s p.1 vd pm a.tag a.sp a.side fun j => p.2 (la j) (lb j))
    ∧ (∀ p ∈ [(fun x => Instr.vshl vd va x pm ty, fun (x : BitVec 32) (n : Nat) => x <<< n),
        (fun x => .vshr vd va x pm ty, fun x n => x >>> n), (fun x => .vsra vd va x pm ty, fun x n => x.sshiftRight n)],
      tagged s ty va → ty.tag = 0 →
      (∀ n : Fin 32, canStart s (p.1 (.amt n)) = true →
        LaneWrites s (p.1 (.amt n)) vd pm 0 false 0 fun j => p.2 (la j) n)
      ∧ (canStart s (p.1 (.reg vb)) = true → tagged s ty vb →
        LaneWrites s (p.1 (.reg vb)) vd pm 0 false 0 fun j => p.2 (la j) ((lb j).toNat % 32)))
    ∧ (canStart s (.vmulh vd va vb pm ty) = true → tagged s ty va → tagged s ty vb →
      LaneWrites s (.vmulh vd va vb pm ty) vd pm 0 false 0 fun j =>
        if ty = .s32 then BitVec.ofInt 32 ((la j).toInt * (lb j).toInt / 2 ^ 32)
        else BitVec.ofNat 32 ((la j).toNat * (lb j).toNat / 2 ^ 32))

/-- R224, R225: `vaddc` and `vsubc` add 1,024-bit numbers with a carry-in of 0, 1, a predicate's bit or a word from the
west, and give the carry-out to nothing, to a predicate or to the east; a form whose ports are not ready blocks in
WAIT_NB. -/
def Sys2Proof.Claims.VectorCarries : Prop :=
  ∀ (vd va vb : VReg) (pq : PReg) (cin : CarryIn) (cout : CarryOut) (s : State),
    ∀ p ∈ [(Instr.vaddc vd va vb pq cin cout, false), (.vsubc vd va vb pq cin cout, true)],
      let west : Bool := cin == .w
      let east : Bool := cout == .e
      let y := (s.vr vb).data
      let c : Nat := match cin with
        | .c0 => 0
        | .c1 => 1
        | .w => if (westWord s).data.getLsbD 0 then 1 else 0
        | .p => if (s.pr pq).getLsbD 0 then 1 else 0
      let sum := (s.vr va).data.toNat + (if p.2 then ~~~y else y).toNat + c
      let carry := sum / 2 ^ 1024
      let k := s.cc.setVreg vd { data := BitVec.ofNat 1024 sum, tag := 0, sp := false, side := 0 }
      canStart s p.1 = true → tagged s .n32 va → tagged s .n32 vb →
        (PortsReady s west east validPair →
          CompletesAt s p.1 (goneOn s (if cout = .p then k.setPreg pq (BitVec.ofNat 32 carry) else k))
            [.ports, .net, .names, .out] fun t =>
              PortsUsed s t west east { data := BitVec.ofNat 1024 carry, tag := 0, sp := false, side := 0 })
        ∧ ((west = true → (neighbour s s.cur.core 3).isSome = true) → (east = true → (neighbour s s.cur.core 1).isSome = true) →
          west = true ∧ vget s.cn.comm.nb none 3 = none ∨ east = true ∧ nbBusy s s.cur.core 1 = true →
          ∃ t, exec p.1 s = .next t ∧ Kept [.names] s t ∧ t.cc = blockedAs s p.1 .waitNb 0)

/-- R226–R228: `vcmp` writes the comparison of each lane's element, floating elements in the order of R43, `vsel` selects
lanes, and the predicate forms act on the bits of their registers. -/
def Obligations.PredicateForms : Prop :=
  ∀ (pd pa pb : PReg) (d : SReg) (vd va vb : VReg) (s : State),
    (∀ (pm : Option PReg) (ty : VTy) (c : Cond) (half : Bool), wellFormed (.vcmp pd va vb pm ty c half) = true →
      canStart s (.vcmp pd va vb pm ty c half) = true → tagged s ty va → tagged s ty vb →
      ∃ x : Pred, CompletesAt s (.vcmp pd va vb pm ty c half) (goneOn s (s.cc.setPreg pd x)) [] (fun _ => True)
        ∧ ∀ j : Fin 32, x.getLsbD j =
            if !picks s pm j then (s.pr pd).getLsbD j
            else
              let e := if ty = .bf16 then 2 * j.val + (if half then 1 else 0) else j.val
              let p := at_ s ty va e
              let q := at_ s ty vb e
              if ty = .f32 ∨ ty = .bf16 then
                let u := decodeFloat ty.ffmt p
                let w := decodeFloat ty.ffmt q
                if u = .nan ∨ w = .nan then c == .ne else c.holds (u.cmp w)
              else if ty = .s32 then c.holds (compare (BitVec.ofNat 32 p).toInt (BitVec.ofNat 32 q).toInt)
              else c.holds (compare p q))
    ∧ (canStart s (.vsel vd va vb pa) = true →
      LaneWrites s (.vsel vd va vb pa) vd none (s.vr va).tag (s.vr va).sp (s.vr va).side fun j =>
        if (s.pr pa).getLsbD j then lane (s.vr va).data j else lane (s.vr vb).data j)
    ∧ (∀ p ∈ [(Instr.pand pd pa pb, s.pr pa &&& s.pr pb), (.por pd pa pb, s.pr pa ||| s.pr pb),
        (.pxor pd pa pb, s.pr pa ^^^ s.pr pb), (.pnot pd pa, ~~~(s.pr pa))], canStart s p.1 = true →
      CompletesAt s p.1 (goneOn s (s.cc.setPreg pd p.2)) [] fun _ => True)
    ∧ (canStart s (.pcnt d pa) = true → CompletesAt s (.pcnt d pa)
      (goneOn s (s.cc.setSreg d (BitVec.ofNat 64 ((List.range 32).countP fun j => (s.pr pa).getLsbD j)))) []
      fun _ => True)
    ∧ (canStart s (.pfirst d pa) = true → ∃ n, CompletesAt s (.pfirst d pa)
        (goneOn s (s.cc.setSreg d (BitVec.ofNat 64 n))) [] (fun _ => True) ∧ n ≤ 32
        ∧ (∀ j, j < n → (s.pr pa).getLsbD j = false) ∧ (n < 32 → (s.pr pa).getLsbD n = true))

/-- R229, R47: the forms that move lanes, all reads before any write; a broadcast immediate fills each lane. -/
def Sys2Proof.Claims.VectorMoves : Prop :=
  ∀ (vd va vb : VReg) (d a : SReg) (pm : Option PReg) (s : State),
    let x := s.vr va
    let la (j : Nat) := lane x.data j
    (canStart s (.vmov vd va pm) = true → LaneWrites s (.vmov vd va pm) vd pm x.tag x.sp x.side fun j => la j)
    ∧ (∀ n : Fin 32,
      (canStart s (.vbcast vd (.lane va n) pm) = true →
        LaneWrites s (.vbcast vd (.lane va n) pm) vd pm x.tag x.sp x.side fun _ => la n)
      ∧ (canStart s (.vrot vd va n pm) = true →
        LaneWrites s (.vrot vd va n pm) vd pm x.tag x.sp x.side fun j => la ((j.val + n.val) % 32))
      ∧ (canStart s (.vshf vd va vb n pm) = true →
        LaneWrites s (.vshf vd va vb n pm) vd pm x.tag x.sp x.side fun j =>
          if j.val + n.val < 32 then la (j.val + n.val) else lane (s.vr vb).data (j.val + n.val - 32))
      ∧ (canStart s (.vins vd a n) = true →
        LaneWrites s (.vins vd a n) vd none (s.vr vd).tag (s.vr vd).sp (s.vr vd).side fun j =>
          if j = n then (s.sr a).extractLsb' 0 32 else lane (s.vr vd).data j)
      ∧ (canStart s (.vext d va n) = true →
        CompletesAt s (.vext d va n) (goneOn s (s.cc.setSreg d ((la n).setWidth 64))) [] fun _ => True))
    ∧ (∀ ty, canStart s (.vbcast vd (.scalar a ty) pm) = true →
        LaneWrites s (.vbcast vd (.scalar a ty) pm) vd pm ty.tag false 0 fun _ => (s.sr a).extractLsb' 0 32)
    ∧ (canStart s (.vperm vd va vb pm) = true →
      LaneWrites s (.vperm vd va vb pm) vd pm x.tag x.sp x.side fun j => la ((lane (s.vr vb).data j).toNat % 32))
    ∧ ∀ (ty : VTy) (rnd : RMode) (sat : Bool) (imm : BitVec 16) (i : Instr), i = .vbcastImm vd pm ty rnd sat imm →
      wellFormed i = true → canStart s i = true →
      let isNan : Prop := decodeFloat .bf16 imm.toNat = .nan
      (ty = .f32 → ¬isNan → LaneWrites s i vd pm 1 false 0 fun _ => imm ++ (0 : BitVec 16))
      ∧ (ty = .bf16 → ¬isNan → LaneWrites s i vd pm 2 false 0 fun _ => imm ++ imm)
      ∧ (ty = .s32 → LaneWrites s i vd pm 0 false 0 fun _ => imm.signExtend 32)
      ∧ (ty = .n32 → LaneWrites s i vd pm 0 false 0 fun _ => imm.setWidth 32)
      ∧ (isNan → ty = .f32 → LaneWrites s i vd pm 1 false 0 fun _ => 0x7FC00000)
      ∧ (isNan → ty = .bf16 → LaneWrites s i vd pm 2 false 0 fun _ => 0x7FC07FC0)
      ∧ (ty = .e4m3 ∨ ty = .e5m2 → VecWrites s i vd pm ty ty.tag fun _ =>
          roundFloat ty.ffmt .rne sat (decodeFloat .bf16 imm.toNat))

/-- R55, R56, R230, R231: a reduction combines the elements by the pairwise tree and writes every lane; a scan takes the
lanes in the order of R56, applies a carry from the west or from a register, and sends its last lane east. -/
def Sys2Proof.Claims.ReductionsAndScans : Prop :=
  ∀ (vd va : VReg) (pm : Option PReg) (ty : VTy) (s : State),
    (∀ p ∈ [(Instr.vredAdd vd va pm ty, ScanOp.add), (.vredMax vd va pm ty, .max), (.vredMin vd va pm ty, .min)],
      wellFormed p.1 = true → canStart s p.1 = true → tagged s ty va →
      VecWrites s p.1 vd none .n32 (redType ty).tag fun _ =>
        treeAt (p.2.apply (redType ty)) (taken s p.2 ty pm va) (if ty = .bf16 then 6 else 5) 0)
    ∧ ∀ (cin : ScanIn) (cout : Bool),
      ∀ p ∈ [(Instr.vscanAdd vd va pm ty cin cout, ScanOp.add), (.vscanMax vd va pm ty cin cout, .max),
          (.vscanMul vd va pm ty cin cout, .mul)],
        let op := p.2.apply ty
        let y (j : Nat) := canonical ty (scanAt op (taken s p.2 ty pm va) 5 j)
        let z (j : Nat) : Rounded := match cin with
          | .none => y j
          | .w => op { enc := (lane (westWord s).data 0).toNat, ovf := false, inv := false } (y j)
          | .vc v hi => op { enc := (lane (s.vr v).data (if hi then 31 else 0)).toNat, ovf := false, inv := false } (y j)
        wellFormed p.1 = true → canStart s p.1 = true → tagged s ty va →
        (∀ v hi, cin = .vc v hi → tagged s ty v) →
        PortsReady s (cin == .w) cout (fun w => hasTag w ty) →
        ∃ v : VVal, v.tag = ty.tag ∧ v.sp = false ∧ v.side = 0
          ∧ (∀ j : Fin 32, lane v.data j = BitVec.ofNat 32 (z j).enc)
          ∧ CompletesAt s p.1 (goneOn s (flagged (s.cc.setVreg vd v) ((List.range 32).any fun j => (z j).ovf)
              ((List.range 32).any fun j => (z j).inv))) [.ports, .net, .names, .out] fun t =>
                PortsUsed s t (cin == .w) cout { data := BitVec.ofNat 1024 (z 31).enc, tag := ty.tag, sp := false, side := 0 }

/-- R57, R232: `vlrec` composes the pairs of its lanes in the order of R56, then with the pair before lane 0, and applies
the state; it sends the composed pair of lane 31 east. -/
def Sys2Proof.Claims.LinearRecurrence : Prop :=
  ∀ (vd va vb vc : VReg) (hi : Bool) (cin : PairIn) (cout : Bool) (s : State),
    let i := Instr.vlrec vd va vb vc hi cin cout
    let word (v : VReg) (j : Nat) : Rounded := { enc := (lane (s.vr v).data j).toNat, ovf := false, inv := false }
    let west (j : Nat) : Rounded := { enc := (lane (westWord s).data j).toNat, ovf := false, inv := false }
    let pair (j : Nat) := scanAt RecPair.compose (fun j => { a := word va j, b := word vb j }) 5 j
    let full (j : Nat) : RecPair := match cin with
      | .none => pair j
      | .w => RecPair.compose { a := west 0, b := west 1 } (pair j)
      | .vcPair => RecPair.compose { a := word vc 1, b := word vc 2 } (pair j)
    let h (j : Nat) : Rounded := recFma (full j).a (word vc (if hi then 31 else 0)) (full j).b
    canStart s i = true → tagged s .f32 va → tagged s .f32 vb → tagged s .f32 vc →
      PortsReady s (cin == .w) cout (fun w => hasTag w .f32) →
      ∃ v : VVal, v.tag = 1 ∧ v.sp = false ∧ v.side = 0 ∧ (∀ j : Fin 32, lane v.data j = BitVec.ofNat 32 (h j).enc)
        ∧ CompletesAt s i (goneOn s (flagged (s.cc.setVreg vd v) ((List.range 32).any fun j => (h j).ovf)
            ((List.range 32).any fun j => (h j).inv))) [.ports, .net, .names, .out] fun t =>
              PortsUsed s t (cin == .w) cout
                { data := BitVec.ofNat 1024 ((full 31).a.enc + (full 31).b.enc * 2 ^ 32), tag := 1, sp := false, side := 0 }

/-- R233–R238, R36, R37, R44–R46: the conversions element by element, with the part of a register that they read or
write; `ctab.wr` writes the code table. -/
def Obligations.VectorConversions : Prop :=
  ∀ (vd va vc : VReg) (dst src : VTy) (part : Fin 8) (rnd : RMode) (sat : Bool) (s : State),
    let a := at_ s src va
    (wellFormed (.vcvt vd va dst src part rnd sat) = true → canStart s (.vcvt vd va dst src part rnd sat) = true →
      tagged s src va → PartWrites s (.vcvt vd va dst src part rnd sat) vd dst src part false 0 fun e =>
        cvtElem s.cn dst src rnd sat (a e))
    ∧ (wellFormed (.vqnt vd va vc dst src part rnd) = true → canStart s (.vqnt vd va vc dst src part rnd) = true →
      tagged s src va → tagged s .f32 vc → dst ≠ .e2m1 →
      let scale := quantScale s.cn dst (f32 (lane (s.vr vc).data 0))
      PartWrites s (.vqnt vd va vc dst src part rnd) vd dst src part true (scale.setWidth 64) fun e =>
        quantElem s.cn dst rnd (f32 scale) (decodeFloat src.ffmt (a e)))
    ∧ (wellFormed (.vqnt vd va vc dst src part rnd) = true → canStart s (.vqnt vd va vc dst src part rnd) = true →
      tagged s src va → dst = .e2m1 →
      let scaleOf (b : Nat) : Nat := blockScale ((List.range 32).map fun e => decodeFloat src.ffmt (a (32 * b + e)))
      let blocks := src.count / 32
      ∃ side : BitVec 64,
        (∀ b : Fin 8, side.extractLsb' (8 * b.val) 8 =
          if part.val * blocks ≤ b.val ∧ b.val < part.val * blocks + blocks then
            BitVec.ofNat 8 (scaleOf (b.val - part.val * blocks))
          else (s.vr vd).side.extractLsb' (8 * b.val) 8)
        ∧ PartWrites s (.vqnt vd va vc dst src part rnd) vd dst src part true side fun e =>
            blockElem rnd (scaleOf (e / 32)) (decodeFloat src.ffmt (a e)))
    ∧ (wellFormed (.vdq vd va dst src part rnd sat) = true → canStart s (.vdq vd va dst src part rnd sat) = true →
      (s.vr va).tag = src.tag → (s.vr va).sp = true →
      PartWrites s (.vdq vd va dst src part rnd sat) vd dst src part false 0 fun e =>
        roundFloat dst.ffmt rnd sat ((elemValue s.cn src (a e)).mul (if src = .e2m1 then
          decodeE8M0 ((s.vr va).side.extractLsb' (8 * (e / 32)) 8).toNat else f32 ((s.vr va).side.extractLsb' 0 32))))
    ∧ (wellFormed (.vlut vd va dst src part) = true → canStart s (.vlut vd va dst src part) = true →
      (src = .cb4 → (s.vr va).tag = 6) →
      PartWrites s (.vlut vd va dst src part) vd dst src part false 0 fun e =>
        let b := s.cn.mx.ctab[(a e) % 16]?.getD 0
        let n : Nat := if decodeFloat .bf16 b.toNat = .nan then 0x7FC0 else b.toNat
        { enc := if dst = .bf16 then n else n * 65536, ovf := false, inv := false })
    ∧ (canStart s (.ctabWr va) = true → CompletesAt s (.ctabWr va) (goneOn s s.cc) [.ctab] fun t =>
      ∀ j : Fin 16, t.cn.mx.ctab[j] = (s.vr va).data.extractLsb' (16 * j.val) 16)

/-- R241, R29: `vtag.rd` reads the tag and SP, or the side field; `vtag.set` writes them and keeps the data; a pair that
R29 does not allow is `E_FMT`. -/
def Sys2Proof.Claims.VectorTags : Prop :=
  ∀ (d a : SReg) (v : VReg) (s : State),
    (canStart s (.vtagRd d v false) = true → CompletesAt s (.vtagRd d v false) (goneOn s (s.cc.setSreg d
      ((s.vr v).tag.setWidth 64 ||| (if (s.vr v).sp then 16 else 0)))) [] fun _ => True)
    ∧ (canStart s (.vtagRd d v true) = true →
      CompletesAt s (.vtagRd d v true) (goneOn s (s.cc.setSreg d (s.vr v).side)) [] fun _ => True)
    ∧ ∀ (fmt : BitVec 4) (sp keep : Bool), canStart s (.vtagSet v a fmt sp keep) = true →
      (fmt.toNat ≤ 8 → (sp = true → 3 ≤ fmt.toNat ∧ fmt.toNat ≤ 6) →
        CompletesAt s (.vtagSet v a fmt sp keep) (goneOn s (s.cc.setVreg v
          { data := (s.vr v).data, tag := fmt, sp := sp, side := if keep then (s.vr v).side else s.sr a })) []
          fun _ => True)
      ∧ (s.cur.ctx ≠ 7 → ¬(fmt.toNat ≤ 8 ∧ (sp = true → 3 ≤ fmt.toNat ∧ fmt.toNat ≤ 6)) →
        TrapsAt s (.vtagSet v a fmt sp keep) 0x06 0)

/-- R239, R193: `vld` reads 128 bytes into the selected lanes, `vst` writes the words of the selected lanes as one unit,
as they issue or later; an address that is not a multiple of 128 is `E_ALIGN`, and any other range than scratchpad,
accumulator rows and Shelf is `E_PERM`. What may perform later is the model's reading (log 12), and so is awaiting a sector
that the L1 does not hold (log 21). -/
def Sys2Proof.Claims.VectorLoadsAndStores : Prop :=
  ∀ (v : VReg) (a : SReg) (off : BitVec 16) (pm : Option PReg) (ty : VTy) (s : State),
    let ea := s.sr a + off.signExtend 64
    let m := ea.toNat
    let open_ : Prop := laRangeOf m 128 ≠ some .regs ∧ laRangeOf m 128 ≠ some .csr
    let ld := Instr.vld v a off pm ty
    let st := Instr.vst v a off pm
    (Ready s ld .load ea 128 → open_ →
      ∃ x : VVal, x.tag = ty.tag ∧ x.sp = false ∧ x.side = 0
        ∧ (∀ j : Fin 32, lane x.data j =
            if picks s pm j then BitVec.ofNat 32 (leNat (laBytes s.cn (m + 4 * j.val) 4)) else lane (s.vr v).data j)
        ∧ (defers s m 128 = true →
            CompletesAt s ld (goneOn s ((s.cc.setVreg v x).await (.v v) (.request s.nextId))) [.later, .names] fun t =>
              t.cn.later = s.cn.later ++ [laterOf s m 128 (.row v (predOf s pm))])
        ∧ (defers s m 128 = false → laRange m ≠ some .shelf ∨ s.cn.hasSector m = true →
            CompletesAt s ld (goneOn s (s.cc.setVreg v x)) [.l1, .logged, .beat] fun _ => True)
        ∧ (defers s m 128 = false → laRange m = some .shelf → s.cn.hasSector m = false →
            CompletesAt s ld (goneOn s ((s.cc.setVreg v x).await (.v v) (.sector m))) [.fills] fun t =>
              m ∈ t.cn.mem.fills))
    ∧ (memWf s.cn.mem.mem = true → Ready s st .store ea 128 → open_ → sourceBusy s m 128 = false →
      ((∀ j : Fin 32, picks s pm j = false) → CompletesAt s st (goneOn s s.cc) [] fun _ => True)
      ∧ ((∃ j : Fin 32, picks s pm j = true) → logStalls s.cn m 128 = false → defers s m 128 = true →
        DefersAt s st m 128 (.store ((List.range 128).map fun b => (s.vr v).data.extractLsb' (8 * b) 8) (predOf s pm))
          fun _ => goneOn s s.cc)
      ∧ ((∃ j : Fin 32, picks s pm j = true) → logStalls s.cn m 128 = false → defers s m 128 = false →
        StoresAt s st (goneOn s s.cc) m 128 ((List.range 128).map fun b =>
          if picks s pm (b / 4) then (s.vr v).data.extractLsb' (8 * b) 8 else laByte s.cn (m + b)) [] fun _ => True))
    ∧ (s.cur.ctx ≠ 7 → ∀ i ∈ [ld, st], canStart s i = true → sourceBusy s m 128 = false →
      (m % 128 ≠ 0 → TrapsAt s i 0x03 ea)
      ∧ (m % 128 = 0 → laRangeOf m 128 = some .regs ∨ laRangeOf m 128 = some .csr ∨ laRangeOf m 128 = none →
          TrapsAt s i 0x04 ea))

/-- R240, R193, R320: `vgat` reads one word for each selected lane, `vsct` writes one, of equal addresses the highest
lane's, each as it issues or later; the first selected lane whose address fails a check takes its trap, and no lane is
read or written; a `vsct` that comes to a lane at the log's stall point waits there. What may perform later is the model's
reading (log 12), and so is awaiting a sector (log 21). -/
def Sys2Proof.Claims.GathersAndScatters : Prop :=
  ∀ (v b : VReg) (a : SReg) (off : BitVec 16) (pm : Option PReg) (ty : VTy) (s : State),
    let ga := Instr.vgat v b a off pm ty
    let sc := Instr.vsct v b a off pm
    let ea := laneAddr s b a off
    let fault (use : LocalUse) (j : Nat) : Option TrapOf :=
      localFault s s.cur.core s.cur.ctx use (s.sr a + off.signExtend 64 + (lane (s.vr b).data j).setWidth 64) 4
    (canStart s ga = true → (∀ j : Fin 32, picks s pm j = true → fault .load j = none) →
      ∃ (x : VVal) (l : List (RegName × Await)), x.tag = ty.tag ∧ x.sp = false ∧ x.side = 0
        ∧ (∀ j : Fin 32, lane x.data j = if picks s pm j then
            BitVec.ofNat 32 (leNat ((List.range 4).map fun r => loadByte s (ea j + r))) else lane (s.vr v).data j)
        ∧ ((∀ j : Fin 32, picks s pm j = true → defers s (ea j) 4 = false ∧ laRange (ea j) ≠ some .shelf) →
            CompletesAt s ga (goneOn s (s.cc.setVreg v x)) [] fun _ => True)
        ∧ ((∀ j : Fin 32, picks s pm j = true → defers s (ea j) 4 = false) →
            CompletesAt s ga (goneOn s { s.cc.setVreg v x with pending := (s.cc.setVreg v x).pending ++ l })
              [.l1, .logged, .beat, .fills] fun _ => True)
        ∧ CompletesAt s ga (goneOn s { s.cc.setVreg v x with pending := (s.cc.setVreg v x).pending ++ l })
            [.l1, .logged, .beat, .fills, .later, .names] fun t =>
              t.cn.later.map (fun l => (l.la, l.len, l.what)) = s.cn.later.map (fun l => (l.la, l.len, l.what)) ++
                ((List.range 32).filter fun j => picks s pm j && defers s (ea j) 4).map fun j => (ea j, 4, .lane v j))
    ∧ (canStart s sc = true → (∀ j : Fin 32, picks s pm j = true → fault .store j = none
        ∧ sourceBusy s (ea j) 4 = false) →
      (∀ j : Fin 32, picks s pm j = true → (∀ k : Fin 32, k < j → picks s pm k = false) →
          logStalls s.cn (ea j) 4 = true →
        ∃ t, exec sc s = .next t ∧ Kept [.names] s t ∧ t.cc = blockedAs s sc .waitLog j.val)
      ∧ ((∀ j : Fin 32, picks s pm j = true → Unlogged s (ea j) 4) ∨ s.cn.rcv.logFill + 32 ≤ logStallPoint s.cn →
        (∀ j : Fin 32, picks s pm j = true → defers s (ea j) 4 = true) →
        CompletesAt s sc (goneOn s s.cc) ([.later, .names] ++ writeParts ++ logParts) fun t =>
          t.cn.later.map (fun l => (l.la, l.what)) = s.cn.later.map (fun l => (l.la, l.what)) ++
            ((List.range 32).filter (picks s pm ·)).map fun j =>
              (ea j, .store (leBytes 4 (lane (s.vr v).data j).toNat) (BitVec.allOnes 32))))
    ∧ (canStart s sc = true → (∀ j : Fin 32, picks s pm j = true → fault .store j = none
        ∧ sourceBusy s (ea j) 4 = false ∧ defers s (ea j) 4 = false) → memWf s.cn.mem.mem = true →
      (∀ j : Fin 32, picks s pm j = true → Unlogged s (ea j) 4) ∨ s.cn.rcv.logFill + 32 ≤ logStallPoint s.cn →
      ∃ t, exec sc s = .next t ∧ Kept (storeParts ++ logParts) s t ∧ t.cc = goneOn s s.cc
        ∧ (∀ j : Fin 32, picks s pm j = true → (∀ k : Fin 32, j < k → picks s pm k = true → ea k ≠ ea j) →
            BytesAt t s.cur.core (ea j) (leBytes 4 (lane (s.vr v).data j).toNat))
        ∧ ∀ c, (∀ j : Fin 32, picks s pm j = true → inRange c (ea j) 4 = false) → laRange c ≠ some .regs →
            inLog s.cn c 1 = false → laByte t.cn c = laByte s.cn c)
    ∧ ∀ (j : Fin 32) (t : TrapOf), s.cur.ctx ≠ 7 → picks s pm j = true →
        (canStart s ga = true → (∀ k : Fin 32, k < j → picks s pm k = true → fault .load k = none) →
          fault .load j = some t → TrapsAt s ga t.code (BitVec.ofNat 64 (ea j)))
        ∧ (canStart s sc = true → (∀ k : Fin 32, picks s pm k = true → sourceBusy s (ea k) 4 = false) →
          (∀ k : Fin 32, k < j → picks s pm k = true → fault .store k = none) → fault .store j = some t →
          TrapsAt s sc t.code (BitVec.ofNat 64 (ea j)))

/-- R216, R218–R223: the lane-wise vector forms. -/
def Obligations.VectorLanes : Prop :=
  Sys2Proof.Claims.VectorArithmetic
    ∧ Sys2Proof.Claims.VectorTagTraps
    ∧ Sys2Proof.Claims.SpecialValues
    ∧ Sys2Proof.Claims.VectorBitsAndShifts

/-- R55–R57, R224, R225, R230–R232: the forms that work across the lanes, and across the links to the neighbours. -/
def Obligations.VectorLinks : Prop :=
  Sys2Proof.Claims.VectorCarries
    ∧ Sys2Proof.Claims.ReductionsAndScans
    ∧ Sys2Proof.Claims.LinearRecurrence

/-- R29, R47, R229, R241: moves, and what a vector register remembers of its type. -/
def Obligations.VectorRegisters : Prop :=
  Sys2Proof.Claims.VectorMoves
    ∧ Sys2Proof.Claims.VectorTags

/-- R193, R239, R240, R320: vector loads and stores, gathers and scatters. -/
def Obligations.VectorMemory : Prop :=
  Sys2Proof.Claims.VectorLoadsAndStores
    ∧ Sys2Proof.Claims.GathersAndScatters


/-! ### The matrix unit -/

namespace Sys2Proof.Claims

/-- R36, R244: the value of element `e` of an image row or an input row. -/
def unitValue (ctab : Vector (BitVec 16) 16) (ty : VTy) (v : VData) (e : Nat) : Ext :=
  let b := (elem ty.width e v).toNat
  if ty = .cb4 then decodeFloat .bf16 (ctab[b % 16]?.getD 0).toNat else decodeFloat ty.ffmt b

/-- R52: the exact dot product of `n` elements from the element `lo` on. -/
def unitDot (ctab : Vector (BitVec 16) 16) (ty : VTy) (x w : VData) (lo n : Nat) : Ext :=
  exactDot ((List.range n).map fun i => (unitValue ctab ty x (lo + i), unitValue ctab ty w (lo + i)))

/-- R51, R52, R245: column `n` of a row operation: without scales, one rounding of the start value plus the exact dot
product; with scales, one group after another, each product of a rounded dot product and a rounded scale. -/
def unitColumn (ctab : Vector (BitVec 16) 16) (w : Weight) (ty : VTy) (sc : Bool) (x : VVal) (start : BitVec 32)
    (n : Nat) : BitVec 32 :=
  let row := w.tile[n]?.getD 0
  let group (size : Nat) (sx : Nat → Ext) (sw : Nat → Ext) (acc : Ext) (g : Nat) : Ext :=
    let d := f32 (rneF32 (unitDot ctab ty x.data row (g * size) size))
    let m := f32 (rneF32 ((sx g).mul (sw g)))
    f32 (rneF32 (acc.add .rne (f32 (rneF32 (d.mul m)))))
  if !sc then rneF32 ((f32 start).add .rne (unitDot ctab ty x.data row 0 ty.count))
  else if ty = .e2m1 then
    rneF32 ((List.range 8).foldl (group 32 (fun g => decodeE8M0 (x.side.extractLsb' (8 * g) 8).toNat)
      (fun g => decodeE8M0 ((if n < 16 then w.scale0 else w.scale1).extractLsb' (8 * ((8 * n + g) % 128)) 8).toNat))
      (f32 start))
  else
    rneF32 ((List.range 1).foldl (group ty.count (fun _ => f32 (x.side.extractLsb' 0 32))
      (fun _ => f32 (lane w.scale0 n))) (f32 start))

/-- R53: a row operation gives one value for each column. -/
def IsRow (a : VData) (ctab : Vector (BitVec 16) 16) (w : Weight) (ty : VTy) (sc : Bool) (x : VVal) (start : VData) :
    Prop :=
  ∀ n : Fin 32, lane a n = unitColumn ctab w ty sc x (lane start n) n

/-- R247: the instruction enters the matrix operation queue as `o`, and the context goes on. -/
def Enqueues (s : State) (i : Instr) (k : Ctx) (more : List Part) (o : MxOp) (q : State → Prop) : Prop :=
  CompletesAt s i (goneOn s k) (.queue :: more) fun t => t.cn.mx.queue = s.cn.mx.queue ++ [o] ∧ q t

/-- R257: the weight register, as of issue, fits an operation. -/
def Fits (s : State) (wn : Nat) (ty : VTy) (sc : Bool) : Prop :=
  (issuedFormat s.cn wn).1 = ty.tag
    ∧ (sc = true → 3 ≤ ty.tag.toNat ∧ ty.tag.toNat ≤ 6 ∧ (issuedFormat s.cn wn).2 = true)

/-- R257: the input register fits an operation. -/
def InputFits (s : State) (va : VReg) (ty : VTy) (sc : Bool) : Prop :=
  (s.vr va).tag = ty.tag ∧ (sc = true → (s.vr va).sp = true)

/-- R257, R260: the links that an operation uses exist. -/
def Linked (s : State) (west east : Bool) : Prop :=
  (west = true → (neighbour s s.cur.core 3).isSome = true) ∧ (east = true → (neighbour s s.cur.core 1).isSome = true)

/-- R254: a value that `MX_CFG` takes. -/
structure CfgOk (v : Word) : Prop where
  reserved : v.extractLsb' 48 16 = 0 ∧ v.extractLsb' 38 2 = 0 ∧ v.extractLsb' 29 3 = 0 ∧ v.extractLsb' 7 9 = 0
  chan : (v.extractLsb' 0 5).toNat < 24
  src : v.extractLsb' 25 2 ≠ 3
  dst : v.extractLsb' 27 2 ≠ 3

/-- R251: what `mx.ldw` may read. -/
structure TileAt (s : State) (ea : Word) (ty : VTy) (sc : Bool) : Prop where
  aligned : ea.toNat % 128 = 0
  range : laRangeOf ea.toNat (tileBytes ty sc) = some .scratch ∨ laRangeOf ea.toNat (tileBytes ty sc) = some .shelf
  allowed : localCheck s s.cur.core s.cur.ctx .load ea (tileBytes ty sc) = none
  scaled : ¬(ty = .bf16 ∧ sc = true)

/-- R253: what `mx.scw` needs. -/
def ScaleFits (s : State) (wn : WReg) (va : VReg) (part : Bool) : Prop :=
  let f := (issuedFormat s.cn wn).1.toNat
  3 ≤ f ∧ f ≤ 6 ∧ (part = true → f = 5) ∧ (s.vr va).tag = if f = 5 then 8 else 1

/-- R254, R260: what `mx.run` needs. -/
structure RunFits (s : State) (ty : VTy) (sc : Bool) : Prop where
  weight : Fits s (s.cn.mx.cfg.extractLsb' 5 2).toNat ty sc
  chan : (s.cn.chan (s.cn.mx.cfg.extractLsb' 0 5).toNat).isSome = true
  send : s.cn.mx.cfg.extractLsb' 27 2 = 1 →
    ∃ set, sendSet s s.cur.core (s.cn.mx.cfg.extractLsb' 32 6).toNat = some set ∧ set.getLsbD 15 = true
      ∧ set.getLsbD 4 = true
  links : Linked s (s.cn.mx.cfg.extractLsb' 25 2 == 2) (s.cn.mx.cfg.extractLsb' 27 2 == 2)

/-- R247: the operation at the head of the queue has performed. -/
def Left (n : Node) (s t : State) (rest : List MxOp) : Prop :=
  (t.core n).mx.queue = rest ∧ (t.core n).mx.done = (s.core n).mx.done + 1

/-- R248, R251, R253: only one weight register has changed. -/
def OnlyWeight (n : Node) (wn : WReg) (s t : State) (w : Weight) : Prop :=
  (t.core n).mx.w = (s.core n).mx.w.set wn w

/-- R244, R251: the rows of a tile and of its scale image become a weight register. -/
def Tiled (old : Weight) (ty : VTy) (sc : Bool) (row : Nat → VData) (w : Weight) : Prop :=
  (∀ j : Fin 32, w.tile[j] = row j) ∧ w.wfmt = ty.tag ∧ w.wsp = sc
    ∧ w.scale0 = (if sc then row 32 else old.scale0)
    ∧ w.scale1 = if sc && decide (ty = .e2m1) then row 33 else old.scale1

/-- The accumulator row of core `n`. -/
def rowAt (s : State) (n : Node) (row : Nat) : VData := vdataOf (laBytes (s.core n) (0x100000 + 128 * (row % 512)) 128)

/-- R249: only some accumulator rows have changed, each to what `f` gives. -/
def RowsWritten (n : Node) (rows : List Nat) (f : Nat → VData) (s t : State) : Prop :=
  ∀ r, r < 512 → rowAt t n r = if r ∈ rows then f r else rowAt s n r

/-- R258: the word that the unit sends east. -/
def eastWord (s : State) (n : Node) (a : VData) : MsgKind :=
  .nbWord ((neighbour s n 1).getD 0) 3 { data := a, tag := 1, sp := false, side := 0 }

/-- R54, R247: no byte of memory changes but the accumulator rows. -/
def OnlyRows (n : Node) (s t : State) : Prop :=
  ∀ a, inRange a 0x100000 0x10000 = false → laRange a ≠ some .regs → laByte (t.core n) a = laByte (s.core n) a

end Sys2Proof.Claims

/-- R247, R251–R257, R260, R262: the matrix forms enter the operation queue with the operands that they captured, and
the context goes on; `mx.cfg` swaps `MX_CFG` at once, `mx.rd` leaves its register awaiting the unit, `mx.ldwc` blocks
until the unit has taken its words, and `mx.sync` waits for the operations that are queued. -/
def Sys2Proof.Claims.MatrixIssue : Prop :=
  ∀ (wn : WReg) (v : VReg) (d a : SReg) (off : BitVec 16) (ty : VTy) (sc : Bool) (s : State),
    let ctab := s.cn.mx.ctab
    (canStart s (.mxLdw wn a off ty sc) = true → TileAt s (s.sr a + off.signExtend 64) ty sc →
      Enqueues s (.mxLdw wn a off ty sc) s.cc [] (.ldw wn (s.sr a + off.signExtend 64).toNat ty sc s.cur.ctx [])
        fun _ => True)
    ∧ (∀ ch : Fin 32, canStart s (.mxLdwc wn ch ty sc) = true → (s.cn.chan ch).isSome = true →
      ¬(ty = .bf16 ∧ sc = true) →
      ∃ t, exec (.mxLdwc wn ch ty sc) s = .next t ∧ Kept [.queue, .names] s t
        ∧ t.cc = blockedAs s (.mxLdwc wn ch ty sc) .waitRecv ch
        ∧ t.cn.mx.queue = s.cn.mx.queue ++ [.ldwc wn ch ty sc s.cur.ctx s.nextId []])
    ∧ (∀ part, canStart s (.mxScw wn v part) = true → ScaleFits s wn v part →
      Enqueues s (.mxScw wn v part) s.cc [] (.scw wn (s.vr v).data part) fun _ => True)
    ∧ (canStart s (.mxCfg d (some a)) = true → CfgOk (s.sr a) →
      Enqueues s (.mxCfg d (some a)) (s.cc.setSreg d s.cn.mx.cfg) [.mxCfg] .cfg fun t => t.cn.mx.cfg = s.sr a)
    ∧ (canStart s (.mxCfg d none) = true →
      Enqueues s (.mxCfg d none) (s.cc.setSreg d s.cn.mx.cfg) [] .cfg fun _ => True)
    ∧ (∀ (row : Fin 512) (n : Fin 1024), canStart s (.mxClr row n) = true →
      Enqueues s (.mxClr row n) s.cc [] (.clr row n) fun _ => True)
    ∧ (∀ row : Fin 512, canStart s (.mxMac wn v row ty sc) = true → Fits s wn ty sc → InputFits s v ty sc →
      Enqueues s (.mxMac wn v row ty sc) s.cc [] (.mac wn (s.vr v) row sc .acc .acc ctab s.cur.ctx ty none)
        fun _ => True)
    ∧ (∀ (row : Fin 512) (cin : MacIn) (cout : MacOut), canStart s (.mxMacp wn v row ty sc cin cout) = true →
      Fits s wn ty sc → InputFits s v ty sc → Linked s (cin == .w) (cout != .acc) →
      Enqueues s (.mxMacp wn v row ty sc cin cout) s.cc [] (.mac wn (s.vr v) row sc cin cout ctab s.cur.ctx ty none)
        fun _ => True)
    ∧ (∀ (n : BitVec 16) (k : Option (Fin 64)), canStart s (.mxRun ty sc n k) = true → RunFits s ty sc →
      Enqueues s (.mxRun ty sc n k) s.cc [.names] (.run s.nextId s.cn.mx.cfg ty sc n.toNat 0 k ctab s.cur.ctx
        s.cc.fires s.cur.pc none) fun t => t.nextId = s.nextId + 1)
    ∧ (∀ (row : Fin 512) (clr : Bool), canStart s (.mxRd v row clr) = true →
      Enqueues s (.mxRd v row clr)
        { s.cc with pending := s.cc.pending.filter (fun p => p.1 ≠ .v v) ++ [(.v v, .request s.nextId)] } [.names]
        (.rd row clr s.cur.ctx v s.nextId) fun t => t.nextId = s.nextId + 1)
    ∧ (canStart s .mxSync = true →
      (s.cn.mx.queue = [] → CompletesAt s .mxSync (goneOn s s.cc) [] fun _ => True)
      ∧ (s.cn.mx.queue ≠ [] → ∃ t, exec .mxSync s = .next t ∧ Kept [.names] s t
        ∧ t.cc = blockedAs s .mxSync .waitMxu (s.cn.mx.done + s.cn.mx.queue.length)))

/-- R251–R257, R260: the faults of the matrix forms, taken precisely before anything is queued. -/
def Sys2Proof.Claims.MatrixTraps : Prop :=
  ∀ (wn : WReg) (v : VReg) (d a : SReg) (off : BitVec 16) (ty : VTy) (sc : Bool) (s : State), s.cur.ctx ≠ 7 →
    (canStart s (.mxLdw wn a off ty sc) = true →
      let ea := s.sr a + off.signExtend 64
      (ea.toNat % 128 ≠ 0 → TrapsAt s (.mxLdw wn a off ty sc) 0x03 ea)
      ∧ (2 ^ 32 ≤ ea.toNat → ea.toNat % 128 = 0 → TrapsAt s (.mxLdw wn a off ty sc) 0x04 ea)
      ∧ (ea.toNat < 2 ^ 32 → ea.toNat % 128 = 0 →
        laRangeOf ea.toNat (tileBytes ty sc) ≠ some .scratch → laRangeOf ea.toNat (tileBytes ty sc) ≠ some .shelf →
          TrapsAt s (.mxLdw wn a off ty sc) 0x04 ea)
      ∧ (ea.toNat < 2 ^ 32 → ea.toNat % 128 = 0 →
        laRangeOf ea.toNat (tileBytes ty sc) = some .scratch ∨ laRangeOf ea.toNat (tileBytes ty sc) = some .shelf →
          (∀ t, localCheck s s.cur.core s.cur.ctx .load ea (tileBytes ty sc) = some t →
            TrapsAt s (.mxLdw wn a off ty sc) t.code t.val)
          ∧ (localCheck s s.cur.core s.cur.ctx .load ea (tileBytes ty sc) = none → ty = .bf16 → sc = true →
            TrapsAt s (.mxLdw wn a off ty sc) 0x06 0)))
    ∧ (∀ ch : Fin 32, canStart s (.mxLdwc wn ch ty sc) = true →
      (s.cn.chan ch = none → TrapsAt s (.mxLdwc wn ch ty sc) 0x04 (BitVec.ofNat 64 ch))
      ∧ ((s.cn.chan ch).isSome = true → ty = .bf16 → sc = true → TrapsAt s (.mxLdwc wn ch ty sc) 0x06 0))
    ∧ (∀ part, canStart s (.mxScw wn v part) = true → ¬ScaleFits s wn v part → TrapsAt s (.mxScw wn v part) 0x06 0)
    ∧ (canStart s (.mxCfg d (some a)) = true → ¬CfgOk (s.sr a) → TrapsAt s (.mxCfg d (some a)) 0x04 (s.sr a))
    ∧ (∀ row : Fin 512, canStart s (.mxMac wn v row ty sc) = true → ¬(Fits s wn ty sc ∧ InputFits s v ty sc) →
      TrapsAt s (.mxMac wn v row ty sc) 0x06 0)
    ∧ (∀ (row : Fin 512) (cin : MacIn) (cout : MacOut), canStart s (.mxMacp wn v row ty sc cin cout) = true →
      (¬(Fits s wn ty sc ∧ InputFits s v ty sc) → TrapsAt s (.mxMacp wn v row ty sc cin cout) 0x06 0)
      ∧ (Fits s wn ty sc → InputFits s v ty sc →
        (cin = .w → neighbour s s.cur.core 3 = none → TrapsAt s (.mxMacp wn v row ty sc cin cout) 0x04 3)
        ∧ (cout ≠ .acc → neighbour s s.cur.core 1 = none → (cin = .w → (neighbour s s.cur.core 3).isSome = true) →
          TrapsAt s (.mxMacp wn v row ty sc cin cout) 0x04 1)))
    ∧ ∀ (n : BitVec 16) (k : Option (Fin 64)), canStart s (.mxRun ty sc n k) = true →
      ¬Fits s (s.cn.mx.cfg.extractLsb' 5 2).toNat ty sc → TrapsAt s (.mxRun ty sc n k) 0x06 0

/-- R247, R249, R251–R258: what the unit does with the operation at the head of its queue. -/
def Sys2Proof.Claims.MatrixOperations : Prop :=
  ∀ (s : State) (n : Node) (rest : List MxOp), isFrozen s n = false →
    let c := s.core n
    let runs (but : List Part) (q : State → Prop) : Prop :=
      ∃ t, exec (.mxOpPerform n) s = .next t ∧ EventKept n ([.queue, .mxDone] ++ but) s t ∧ Left n s t rest ∧ q t
    (∀ wn ea ty sc x, c.mx.queue = .ldw wn ea ty sc x [] :: rest → ea % 128 = 0 →
      anyExpired s n ea (tileBytes ty sc) = false → laRangeOf ea (tileBytes ty sc) = some .shelf
        ∨ (laRangeOf ea (tileBytes ty sc) = some .scratch ∧ ∀ g ∈ granules ea (tileBytes ty sc), classAt c g ≠ 2) →
      runs [.weights, .l1, .copiesShr, .logged, .beat, .draws] fun t => ∃ w, OnlyWeight n wn s t w
        ∧ Tiled c.mx.w[wn] ty sc (fun r => vdataOf (laBytes c (ea + 128 * r) 128)) w)
    ∧ (∀ wn data part, c.mx.queue = .scw wn data part :: rest →
      runs [.weights] fun t => OnlyWeight n wn s t { c.mx.w[wn] with
        wsp := true, scale0 := if part then c.mx.w[wn].scale0 else data
        scale1 := if part then data else c.mx.w[wn].scale1 })
    ∧ (c.mx.queue = .cfg :: rest → runs [] fun _ => True)
    ∧ (∀ row k, c.mx.queue = .clr row k :: rest → inLog c 0x100000 0x10000 = false →
      runs [.bytes] fun t => OnlyRows n s t
        ∧ RowsWritten n ((List.range k).map fun j => (row + j) % 512) (fun _ => 0) s t)
    ∧ (∀ row clr x vd id, c.mx.queue = .rd row clr x vd id :: rest → inLog c 0x100000 0x10000 = false →
      (s.ctx n x).pending.any (fun p => p.2 == .request id) = true →
      ∃ t, exec (.mxOpPerform n) s = .next t ∧ Left n s t rest
        ∧ KeptAt n x [.queue, .mxDone, .own, .bytes] s t
        ∧ t.ctx n x = (s.ctx n x).fillV id vd { data := rowAt s n row, tag := 1, sp := false, side := 0 }
        ∧ ((∀ p ∈ (s.ctx n x).poked, p.1 ≠ id) →
            (t.ctx n x).v[vd] = { data := rowAt s n row, tag := 1, sp := false, side := 0 })
        ∧ RowsWritten n (if clr then [row % 512] else []) (fun _ => 0) s t)
    ∧ ∀ wn x row sc cin cout ctab ctx ty since, c.mx.queue = .mac wn x row sc cin cout ctab ctx ty since :: rest →
      inLog c 0x100000 0x10000 = false →
      let at_ := since.getD s.nextId
      let west := vget c.comm.nb none 3
      (cin = .w → west.isSome = true ∧ contextFirst c (.nb 3) .waitNb at_ = false) →
      (cout ≠ .acc → nbBusy s n 1 = false ∧ (neighbour s n 1).isSome = true) →
      let start := match cin with
        | .acc => rowAt s n row
        | .zero => 0
        | .w => (west.getD {}).data
      ∃ a, IsRow a ctab c.mx.w[wn] ty sc x start
        ∧ runs [.bytes, .ports, .net, .names] fun t => OnlyRows n s t
          ∧ RowsWritten n (if cout = .e then [] else [row % 512]) (fun _ => a) s t
          ∧ (t.core n).comm.nb = (if cin = .w then vset c.comm.nb 3 none else c.comm.nb)
          ∧ Sent s t (if cout = .acc then [] else [eastWord s n a])

/-- R252: `mx.ldwc` takes one word after another from its channel; with the last the weight register is replaced and
the context goes on, within two cycles (R132); a word of the wrong kind ends it with a precise `E_FMT` whose TRAP_VAL is the word's index. -/
def Sys2Proof.Claims.MatrixWordsTaken : Prop :=
  ∀ (s : State) (n : Node) (wn : WReg) (ch : Nat) (ty : VTy) (sc : Bool) (x : Fin 8) (since : Nat)
    (taken : List VData) (rest : List MxOp) (q : Chan) (w : ChWord) (ws : List ChWord) (b : Blocked),
    let c := s.core n
    let total := 32 + if sc then (if ty = .e2m1 then 2 else 1) else 0
    let tag : BitVec 4 := if taken.length < 32 then ty.tag else if ty = .e2m1 then 8 else 1
    let ok : Prop := validPair w.val = true ∧ w.val.tag = tag
    isFrozen s n = false → c.mx.queue = .ldwc wn ch ty sc x since taken :: rest → c.chan ch = some q → q.spill = [] →
      q.queue = w :: ws → contextFirst c (.chan ch) .waitRecv since = false → taken.length < total →
      (s.ctx n x).blocked = some b → (s.ctx n x).reports = [] →
      (ok → taken.length + 1 < total → ∃ t, exec (.mxLdwcWordTake n) s = .next t
        ∧ EventKept n [.queue, .chans, .net, .names, .lots] s t
        ∧ (t.core n).mx.queue = .ldwc wn ch ty sc x 0 (taken ++ [w.val.data]) :: rest
        ∧ (t.core n).chan ch = some { q with queue := ws })
      ∧ (ok → taken.length + 1 = total → ∃ t w' d, d ≤ 2 ∧ exec (.mxLdwcWordTake n) s = .next t
        ∧ KeptAt n x [.own, .queue, .mxDone, .weights, .watch, .chans, .net, .names, .lots] s t ∧ Left n s t rest
        ∧ OnlyWeight n wn s t w' ∧ Tiled c.mx.w[wn] ty sc (fun r => (taken ++ [w.val.data])[r]?.getD 0) w'
        ∧ (t.core n).chan ch = some { q with queue := ws }
        ∧ t.ctx n x = wokenAs (s.ctx n x) b (cycleOf s n + d))
      ∧ (¬ok → x ≠ 7 → ∃ t, exec (.mxLdwcWordTake n) s = .next t
        ∧ KeptAt n x [.own, .queue, .mxDone, .traps] s t ∧ Left n s t rest
        ∧ t.ctx n x = { s.ctx n x with st := .trapped, blocked := none }
        ∧ (t.core n).rcv.traps = c.rcv.traps ++ [{ code := 0x06, reported := false, orphan := false, pc := b.pc
                                                   val := BitVec.ofNat 64 taken.length, rpc := b.pc, ctx := some x
                                                   stamp := cycleOf s n }])

/-- R260, R261: `mx.run` takes a word for each row, starts from the row of RSRC, and places the result where RDST says:
an accumulator row, the output stream, or the east; after the last row its counter counts. An input word of the wrong
kind ends the run with a reported `E_FMT` whose TRAP_VAL is the row's number. -/
def Sys2Proof.Claims.MatrixRuns : Prop :=
  ∀ (s : State) (n : Node) (id : Nat) (cfg : Word) (ty : VTy) (sc : Bool) (total q : Nat) (k : Option (Fin 64))
    (ctab : Vector (BitVec 16) 16) (x : Fin 8) (fires : Nat) (pc : BitVec 32) (since : Option Nat) (rest : List MxOp)
    (ch : Chan) (w : ChWord) (ws : List ChWord),
    let c := s.core n
    let num := (cfg.extractLsb' 0 5).toNat
    let src := cfg.extractLsb' 25 2
    let dst := cfg.extractLsb' 27 2
    let stream := (cfg.extractLsb' 32 6).toNat
    let row := ((cfg.extractLsb' 16 9).toNat + q) % 512
    let at_ := since.getD s.nextId
    let west := vget c.comm.nb none 3
    let ok : Prop := w.val.tag = ty.tag ∧ (sc = true → w.val.sp = true) ∧ validPair w.val = true
    let weight := c.mx.w[(cfg.extractLsb' 5 2).toNat]?.getD {}
    let start := if src = 0 then rowAt s n row else if src = 1 then 0 else (west.getD {}).data
    isFrozen s n = false → c.mx.queue = .run id cfg ty sc total q k ctab x fires pc since :: rest → q < total →
      c.chan num = some ch → ch.spill = [] → ch.queue = w :: ws → contextFirst c (.chan num) .waitRecv at_ = false →
      (src = 2 → west.isSome = true ∧ contextFirst c (.nb 3) .waitNb at_ = false) → src ≠ 3 → dst ≠ 3 →
      (dst = 1 → maySend s n stream = true ∧ egressOf s n stream = none) →
      (dst = 2 → nbBusy s n 1 = false ∧ (neighbour s n 1).isSome = true) → inLog c 0x100000 0x10000 = false →
      (ok → ∃ t a, exec (.mxRunRow n) s = .next t ∧ IsRow a ctab weight ty sc w.val start
        ∧ EventKept n [.queue, .mxDone, .chans, .net, .names, .lots, .bytes, .ports, .credits, .counters] s t
        ∧ (t.core n).chan num = some { ch with queue := ws }
        ∧ (t.core n).comm.nb = (if src = 2 then vset c.comm.nb 3 none else c.comm.nb)
        ∧ OnlyRows n s t ∧ RowsWritten n (if dst = 0 then [row] else []) (fun _ => a) s t
        ∧ (dst = 2 → ∃ m, t.net.getLast? = some m ∧ m.kind = eastWord s n a)
        ∧ (dst = 1 → ∃ m lot, t.net.getLast? = some m ∧ m.kind = .word n 4
            { val := { data := a, tag := 1, sp := false, side := 0 }, htag := cfg.extractLsb' 40 8, usr := false
              mark := false, src := n, stream := stream, lot := lot, chunk := none })
        ∧ (q + 1 < total → (t.core n).mx.queue = .run id cfg ty sc total (q + 1) k ctab x fires pc (some 0) :: rest
          ∧ (t.core n).sync.k = c.sync.k)
        ∧ (q + 1 = total → Left n s t rest ∧ ∀ j : Fin 64, (t.core n).sync.k[j] =
            if k = some j then c.sync.k[j] + 1 else c.sync.k[j]))
      ∧ (¬ok → x ≠ 7 → (s.ctx n x).fires = fires → (s.ctx n x).st = .ready → (s.ctx n x).kick = none →
        ldwcTaken { c with mx := { c.mx with queue := rest } } x = none →
        ∃ t, exec (.mxRunRow n) s = .next t ∧ KeptAt n x [.own, .queue, .mxDone, .traps, .watch] s t
          ∧ (t.ctx n x).st = .trapped
          ∧ (t.core n).rcv.traps = c.rcv.traps ++ [{ code := 0x06, reported := true, orphan := false, pc := pc
                                                     val := BitVec.ofNat 64 q, rpc := (s.ctx n x).pc, ctx := some x
                                                     stamp := cycleOf s n }])

/-- R247, R251–R257, R260, R262: what the matrix instructions do as they issue, and the traps that they take. -/
def Obligations.MatrixForms : Prop :=
  Sys2Proof.Claims.MatrixIssue
    ∧ Sys2Proof.Claims.MatrixTraps

/-- R247, R249, R251–R258, R260, R261: what the matrix unit does with a queued operation. -/
def Obligations.MatrixUnit : Prop :=
  Sys2Proof.Claims.MatrixOperations
    ∧ Sys2Proof.Claims.MatrixWordsTaken
    ∧ Sys2Proof.Claims.MatrixRuns


/-! ### CSRs, traps, collectives and seals -/

namespace Sys2Proof.Claims

/-- R113: the numbers that name a CSR. -/
def csrNumbers : List Nat :=
  [0x000, 0x001, 0x002, 0x003, 0x004, 0x005, 0x008, 0x009, 0x00A, 0x00B, 0x010, 0x011, 0x012, 0x030, 0x031, 0x032,
    0x033, 0x040, 0x041, 0x042, 0x043, 0x044, 0x048, 0x049, 0x04A, 0x04B, 0x050, 0x051, 0x052, 0x053, 0x054, 0x055,
    0x056] ++ (List.range 16).map (0x020 + ·) ++ (List.range 64).map (0x080 + ·)

/-- R113, R340: the CSRs that are wholly read-only. -/
def csrReadOnly : List Nat :=
  [0x000, 0x001, 0x002, 0x003, 0x004, 0x005, 0x011, 0x033, 0x050, 0x051, 0x052, 0x055]
    ++ (List.range 64).map (0x080 + ·)

/-- R36, R96, R121, R276, R321, R335: CSRs that read back the RW fields as written, those fields, and the part of the
core that holds them. -/
def csrPlain : List (Fin 8192 × Word × Part) :=
  [(0x010, 0x1F03, .trgCtl), (0x012, 0xFFFF, .flags), (0x030, 0x1FF00000007, .prot), (0x040, 0x3FF, .trapRegs),
    (0x041, 0xFFFFFFFF, .trapRegs), (0x042, 0xFFFFFFFFFFFFFFFF, .trapRegs), (0x043, 0x2FFFFFFFF, .trapRegs),
    (0x044, 0x100FFFFFFFF, .trapRegs), (0x048, 0xFFFFFFFFFFFFFFFF, .ctab), (0x049, 0xFFFFFFFFFFFFFFFF, .ctab),
    (0x04A, 0xFFFFFFFFFFFFFFFF, .ctab), (0x04B, 0xFFFFFFFFFFFFFFFF, .ctab), (0x056, 0xF81, .log)]

/-- R340: the writing forms. -/
def csrForm : CsrForm → SReg → SReg → Fin 8192 → Instr
  | .wr => .csrWr
  | .set => .csrSet
  | .clr => .csrClr

/-- R340: what the RW fields take. -/
def csrTaken (f : CsrForm) (old a : Word) : Word :=
  match f with
  | .wr => a
  | .set => old ||| a
  | .clr => old &&& ~~~a

/-- R340: a CSR with RW fields `rw` after a write. -/
def csrMerged (f : CsrForm) (rw old a : Word) : Word := (old &&& ~~~rw) ||| (csrTaken f old a &&& rw)

/-- The value that a CSR reads as for the issuing context. -/
def csrNow (s : State) (k : Nat) : Option Word := csrRead s s.cur.core s.cur.ctx k

/-- R82, R87, R96, R321, R335: what a restricted write needs. -/
def csrAllowed (s : State) (k : Nat) : Prop :=
  (k = 0x030 ∨ k = 0x040 ∨ k = 0x041 ∨ k = 0x042 ∨ k = 0x044 → s.cur.ctx = 7)
    ∧ (k = 0x031 ∨ k = 0x032 ∨ k = 0x053 ∨ k = 0x054 → s.cc.sts.getLsbD 4 = true)

/-- R130, R336: the registers of a context that starts. -/
def StartedAt (k old : Ctx) (pc : BitVec 32) (now : Nat) (regs : List Word) : Prop :=
  k.st = .ready ∧ k.pc = pc ∧ now + 2 ≤ k.notBefore ∧ (∀ r : SReg, k.sreg r = regs.getD r.val 0)
    ∧ (∀ r : VReg, k.vreg r = { data := 0, tag := 8, sp := false, side := 0 }) ∧ (∀ r : PReg, k.preg r = 0)
    ∧ k.lpCnt = 0 ∧ k.lpBeg = 0 ∧ k.lpEnd = 0 ∧ k.sts = old.sts &&& 0x10 ∧ k.blocked = none ∧ k.pending = []

/-- R130: `s2`, the coordinates of a core in its region. -/
def coordWord (s : State) (n : Node) : Word := BitVec.ofNat 64 ((relXY s n).1 + (relXY s n).2 * 2 ^ 16)

/-- R336: a trap comes before another in the pending set: by the cycle in which it entered, and in one cycle by context,
orphan reports in put-tracker order and then `E_THERM_ADV`. -/
def Before (t u : PTrap) : Prop :=
  let place (x : PTrap) : Nat := match x.ctx with | some c => c.val | none => if x.orphan then 8 else 9
  t.stamp < u.stamp ∨ t.stamp = u.stamp ∧ (place t < place u
    ∨ place t = 8 ∧ place u = 8 ∧ t.pos < u.pos)

/-- R322: the domain has a seal request, which goes out to each of its cores. -/
def Requested (s t : State) (d : Nat) : Prop :=
  (t.domain d).req = true ∧ t.nextId = s.nextId + (domCores s d).length
    ∧ ∃ l, t.net = s.net ++ l ∧ l.map (·.kind) = (domCores s d).map .sealReq

/-- R23: the sequence number of the seal point at the executing instruction. -/
def sealNumber (s : State) : Nat := (AMap.find s.cn.rcv.sealPoints s.cur.pc.toNat).getD 0

/-- R332: the context that holds the core's arrival, or 8. -/
def holder (s : State) : Nat := (s.cn.rcv.arrival.map (·.val)).getD 8

/-- R332: the issuing context may arrive. -/
def MayArrive (s : State) : Prop := s.cc.sts.getLsbD 4 = false ∧ s.cur.ctx ≠ 7 ∧ s.cn.rcv.arrival = none

/-- R332: the core's arrival is that of the issuing context. -/
def Arrived (s t : State) : Prop := t.cn.rcv.arrival = some s.cur.ctx ∧ t.cn.rcv.sealSeq = sealNumber s

/-- R293: an accepted kick. -/
def kickOf (c : Node) (vec : Nat) (sb sc : Word) : Kick := { vec := vec, sb := sb, sc := sc, kicker := c }

end Sys2Proof.Claims

/-- R113, R340: `csr.rd` reads the CSR of its number into `sd`; a number that R113 does not list takes `E_PERM` with
that number, in every form. -/
def Sys2Proof.Claims.CsrReads : Prop :=
  (∀ (s : State) (n : Node) (x : Fin 8) (k : Nat), (csrRead s n x k).isSome = csrNumbers.contains k)
    ∧ (∀ (s : State) (n : Node) (x : Fin 8),
      let c := s.core n
      (isSite n = false → csrRead s n x 0x000 = some (BitVec.ofNat 64 (nodeNum n))
        ∧ csrRead s n x 0x001 = some (BitVec.ofNat 64 (clusterOf n))
        ∧ ∀ i, slotOf s n = some i → csrRead s n x 0x002 = some (BitVec.ofNat 64 i))
      ∧ ∀ p ∈ [(0x003, BitVec.ofNat 64 (s.module (nodeWafer n)).wafer), (0x005, BitVec.ofNat 64 (cycleOf s n)),
          (0x004, BitVec.ofNat 64 x.val), (0x008, (s.ctx n x).sts), (0x009, (s.ctx n x).lpCnt.setWidth 64),
          (0x00A, (s.ctx n x).lpBeg.setWidth 64), (0x00B, (s.ctx n x).lpEnd.setWidth 64), (0x010, c.trg.ctl),
          (0x012, c.sync.flags.setWidth 64), (0x030, c.comm.prot), (0x040, c.rcv.trapCause), (0x041, c.rcv.trapPc),
          (0x042, c.rcv.trapVal), (0x043, c.rcv.trapVec), (0x044, c.rcv.trapCtx), (0x050, c.rcv.rin.setWidth 64),
          (0x051, c.rcv.rinSealed.setWidth 64), (0x052, c.rcv.rbCount.setWidth 64),
          (0x053, c.rcv.logBase.setWidth 64), (0x054, c.rcv.logSize.setWidth 64), (0x056, c.rcv.logCtl)],
        csrRead s n x p.1 = some p.2)
    ∧ (∀ (s : State) (n : Node) (x : Fin 8) (k : Fin 64),
      csrRead s n x (0x080 + k.val) = some ((s.core n).sync.k[k].setWidth 64))
    ∧ (∀ (s : State) (n : Node) (x : Fin 8) (i : Fin 8),
      csrRead s n x (0x020 + 2 * i.val) = some (s.core n).comm.win[i].w0
        ∧ csrRead s n x (0x021 + 2 * i.val) = some (s.core n).comm.win[i].param)
    ∧ ∀ (s : State) (d a : SReg) (k : Fin 8192),
      (∀ v, canStart s (.csrRd d k) = true → csrNow s k = some v →
        CompletesAt s (.csrRd d k) (goneOn s (s.cc.setSreg d v)) [] fun _ => True)
      ∧ (csrNow s k = none → s.cur.ctx ≠ 7 →
        ∀ i ∈ [Instr.csrRd d k, .csrWr d a k, .csrSet d a k, .csrClr d a k], canStart s i = true →
          TrapsAt s i 0x04 (BitVec.ofNat 64 k))

/-- R340, R113: `csr.wr`, `csr.set` and `csr.clr` give the old value to `sd` and write the RW fields, `sa` itself, or
the old value with the bits of `sa` set or cleared; every other field stays, and a wholly read-only CSR ignores the
write. W1C flags of `STS` clear where `sa` has a one. A restricted write takes `E_PERM` with the number. -/
def Sys2Proof.Claims.CsrWrites : Prop :=
  ∀ (f : CsrForm) (d a : SReg) (s : State),
    let v := s.sr a
    (∀ k : Fin 8192, k.val ∈ csrReadOnly → canStart s (csrForm f d a k) = true → ∀ old, csrNow s k = some old →
      CompletesAt s (csrForm f d a k) (goneOn s (s.cc.setSreg d old)) [] fun _ => True)
    ∧ (∀ p ∈ csrPlain, canStart s (csrForm f d a p.1) = true → csrAllowed s p.1 → ∀ old, csrNow s p.1 = some old →
      CompletesAt s (csrForm f d a p.1) (goneOn s (s.cc.setSreg d old)) [p.2.2] fun t =>
        csrNow t p.1 = some (csrMerged f p.2.1 old v)
          ∧ ∀ k, k ≠ p.1.val → k ∉ [0x008, 0x009, 0x00A, 0x00B] → csrNow t k = csrNow s k)
    ∧ (∀ p ∈ [((0x009 : Fin 8192), s.cc.lpCnt, fun (k : Ctx) x => { k with lpCnt := x }),
        (0x00A, s.cc.lpBeg, fun k x => { k with lpBeg := x }), (0x00B, s.cc.lpEnd, fun k x => { k with lpEnd := x })],
      canStart s (csrForm f d a p.1) = true →
      CompletesAt s (csrForm f d a p.1) (goneOn s ((p.2.2 s.cc
        ((csrTaken f (p.2.1.setWidth 64) v).extractLsb' 0 32)).setSreg d (p.2.1.setWidth 64))) [] fun _ => True)
    ∧ (canStart s (csrForm f d a 0x008) = true →
      CompletesAt s (csrForm f d a 0x008) (goneOn s (({ s.cc with
        sts := if f = .clr then s.cc.sts else s.cc.sts &&& ~~~(v &&& 7) } : Ctx).setSreg d s.cc.sts)) [] fun _ => True)
    ∧ (∀ i : Fin 8, canStart s (csrForm f d a (Fin.ofNat 8192 (0x021 + 2 * i.val))) = true →
      let w := s.cn.comm.win[i]
      CompletesAt s (csrForm f d a (Fin.ofNat 8192 (0x021 + 2 * i.val))) (goneOn s (s.cc.setSreg d w.param)) [.windows]
        fun t => t.cn.comm.win[i] = { w with staged := csrTaken f w.param v }
          ∧ ∀ j : Fin 8, j ≠ i → t.cn.comm.win[j] = s.cn.comm.win[j])
    ∧ (∀ i : Fin 8, canStart s (csrForm f d a (Fin.ofNat 8192 (0x020 + 2 * i.val))) = true →
      let w := s.cn.comm.win[i]
      let new := csrMerged f 0xFFFFFFFF3FFC0000 w.w0 v
      let bad : Prop := s.cc.sts.getLsbD 4 = true ∨ winValid new w.staged = false
        ∨ s.cur.ctx = 7 ∧ w.writer ≠ 7 ∧ (s.ctx s.cur.core w.writer).st ≠ .free
      (¬bad → CompletesAt s (csrForm f d a (Fin.ofNat 8192 (0x020 + 2 * i.val))) (goneOn s (s.cc.setSreg d w.w0))
        [.windows] fun t => t.cn.comm.win[i] = { w0 := new, param := w.staged, staged := w.staged, writer := s.cur.ctx }
          ∧ ∀ j : Fin 8, j ≠ i → t.cn.comm.win[j] = s.cn.comm.win[j])
      ∧ (bad → s.cur.ctx ≠ 7 → TrapsAt s (csrForm f d a (Fin.ofNat 8192 (0x020 + 2 * i.val))) 0x04
          (BitVec.ofNat 64 (0x020 + 2 * i.val))))
    ∧ (canStart s (csrForm f d a 0x031) = true → csrAllowed s 0x031 → ∀ old, csrNow s 0x031 = some old →
      let next := (csrTaken f old v).extractLsb' 32 16
      CompletesAt s (csrForm f d a 0x031) (goneOn s (s.cc.setSreg d old)) [.banks, .net, .names, .domains] fun t =>
        t.cn.mem.bankLive = s.cn.mem.bankLive
          ∧ (popcount next < 14 → t.cn.mem.bankNext = s.cn.mem.bankNext ∧ t.net = s.net)
          ∧ (14 ≤ popcount next → t.cn.mem.bankNext = next)
          ∧ (next = s.cn.mem.bankLive → t.net = s.net)
          ∧ (14 ≤ popcount next → next ≠ s.cn.mem.bankLive → ∀ e, domainOf s s.cur.core = some e → Requested s t e))
    ∧ (canStart s (csrForm f d a 0x032) = true → csrAllowed s 0x032 → ∀ old, csrNow s 0x032 = some old →
      CompletesAt s (csrForm f d a 0x032) (goneOn s (s.cc.setSreg d old)) [.modules] fun t =>
        csrNow t 0x032 = some (csrMerged f 0xBC0FFF old v)
          ∧ ∀ w, t.module w = { s.module w with rmapWritten := (t.module w).rmapWritten })
    ∧ (∀ p ∈ [((0x053 : Fin 8192), s.cn.rcv.logBase), (0x054, s.cn.rcv.logSize)],
      canStart s (csrForm f d a p.1) = true → csrAllowed s p.1 →
      CompletesAt s (csrForm f d a p.1) (goneOn s (s.cc.setSreg d (p.2.setWidth 64))) [.log, .net, .names, .domains]
        fun t =>
        let new := (csrTaken f (p.2.setWidth 64) v).extractLsb' 0 32
        t.cn.rcv = (if p.1 = 0x053 then { s.cn.rcv with stagedBase := some new }
            else { s.cn.rcv with stagedSize := some new })
          ∧ (domainOf s s.cur.core = none → t.net = s.net)
          ∧ ∀ e, domainOf s s.cur.core = some e → Requested s t e)
    ∧ ∀ k : Fin 8192, canStart s (csrForm f d a k) = true → s.cur.ctx ≠ 7 → csrNumbers.contains k.val = true →
        ¬csrAllowed s k → TrapsAt s (csrForm f d a k) 0x04 (BitVec.ofNat 64 k)

/-- R334, R336, R341: `trap` and `brk` complete and take their after trap, with the successor as RPC; `eret` makes the
trapped context READY at RPC, or ends it, and context 7 FREE; `idle` leaves context 7 IDLE; `frz` freezes its domain.
The forms of context 7 take `E_PERM` elsewhere, and `frz` in service mode. -/
def Sys2Proof.Claims.SystemForms : Prop :=
  ∀ s : State,
    (∀ imm : BitVec 16, ∀ p ∈ [(Instr.trap imm, (0x0D : BitVec 8), imm.setWidth 64), (.brk, 0x0E, 0)],
      canStart s p.1 = true →
      (s.cur.ctx ≠ 7 →
        CompletesAt s p.1 { s.cc with pc := s.cur.succ, st := .trapped, blocked := none } [.traps] fun t =>
          t.cn.rcv.traps = s.cn.rcv.traps ++ [ownTrap s p.2.1 s.cur.pc s.cur.succ p.2.2])
      ∧ (s.cur.ctx = 7 → ∀ d, domainOf s s.cur.core = some d → (s.domain d).phase.pastCheck = false →
        CompletesAt s p.1 { s.cc with pc := s.cur.succ } (.trapRegs :: freezeParts) fun t =>
          (t.domain d).frozen = true ∧ Described t.cn
            { ownTrap s p.2.1 s.cur.pc s.cur.succ p.2.2 with ctx := some 7 } s.cn.rcv.traps.length))
    ∧ (canStart s .eret = true → s.cur.ctx = 7 →
      let freed : Ctx := { s.cc with st := .free, blocked := none, bind0 := 0, bind1 := 0, reports := [], fences := [] }
      let kill := s.cn.rcv.trapCtx.getLsbD 40
      let c : Fin 8 := Fin.ofNat 8 (s.cn.rcv.trapCtx.extractLsb' 32 3).toNat
      CompletesAt s .eret freed [.otherContexts, .trapRegs, .traps, .arrival, .queue, .mxDone, .watch] fun t =>
        t.cn.rcv.trapCtx = s.cn.rcv.trapCtx &&& ~~~(1#64 <<< 40)
          ∧ (∀ x, x ≠ c → x ≠ 7 → t.ctx s.cur.core x = s.ctx s.cur.core x)
          ∧ (c ≠ 7 → kill = false → (s.ctx s.cur.core c).reports = [] → t.ctx s.cur.core c =
              { s.ctx s.cur.core c with
                st := .ready, pc := s.cn.rcv.trapCtx.extractLsb' 0 32, notBefore := s.cycle + 2 })
          ∧ (c ≠ 7 → kill = true → (t.ctx s.cur.core c).st = .free))
    ∧ (canStart s .idle = true → s.cur.ctx = 7 →
      CompletesAt s .idle { goneOn s s.cc with st := .idle } [] fun _ => True)
    ∧ (∀ i ∈ [Instr.eret, .idle], canStart s i = true → s.cur.ctx ≠ 7 → TrapsAt s i 0x04 0)
    ∧ ∀ a : SReg, canStart s (.frz a) = true →
        (s.cc.sts.getLsbD 4 = true → s.cur.ctx ≠ 7 → TrapsAt s (.frz a) 0x04 0)
        ∧ (s.cc.sts.getLsbD 4 = false → ∀ d, domainOf s s.cur.core = some d →
          ((s.domain d).phase.pastCheck = false → CompletesAt s (.frz a) (goneOn s s.cc) freezeParts fun t =>
            (t.domain d).frozen = true ∧ (t.domain d).reason = (s.sr a).extractLsb' 0 32)
          ∧ ((s.domain d).phase.pastCheck = true → CompletesAt s (.frz a) (goneOn s s.cc) [.domains] fun t =>
            t.domain d = { s.domain d with wantFreeze := some ((s.sr a).extractLsb' 0 32) }))
        ∧ (s.cc.sts.getLsbD 4 = false → domainOf s s.cur.core = none →
          CompletesAt s (.frz a) (goneOn s s.cc) [] fun _ => True)

/-- R336: while context 7 is FREE or IDLE and the region is not frozen, the trap that entered the pending set earliest
is delivered, once that cycle is over: the trap CSRs describe it, it leaves the set, and context 7 starts at the handler, or goes on there from
IDLE with its registers. Without a handler the domain freezes and the trap stays. -/
def Sys2Proof.Claims.TrapDelivery : Prop :=
  ∀ (s : State) (n : Node) (l1 l2 : List PTrap) (p : PTrap),
    let c := s.core n
    let hpc : BitVec 32 := c.rcv.trapVec.extractLsb' 0 32
    c.rcv.traps = l1 ++ p :: l2 → (∀ u ∈ l1, Before p u) → (∀ u ∈ l2, ¬Before u p) →
      (s.ctx n 7).st = .free ∨ (s.ctx n 7).st = .idle → isFrozen s n = false →
      (cycleOf s n ≤ p.stamp → exec (.trapDeliver n) s = .next s)
      ∧ (p.stamp < cycleOf s n → (hpc ≠ 0 → ∃ t, exec (.trapDeliver n) s = .next t ∧ KeptAt n 7 [.own, .trapRegs, .traps] s t
        ∧ (t.core n).rcv.trapVec = c.rcv.trapVec ∧ (t.core n).rcv.traps = l1 ++ l2
        ∧ Described (t.core n) p (l1.length + l2.length)
        ∧ ((s.ctx n 7).st = .free → StartedAt (t.ctx n 7) (s.ctx n 7) hpc (cycleOf s n)
            [0, BitVec.ofNat 64 (nodeNum n), coordWord s n, 0x200])
        ∧ ((s.ctx n 7).st = .idle → t.ctx n 7 = { s.ctx n 7 with
            st := .ready, pc := hpc, notBefore := cycleOf s n + 2 }))
      ∧ (hpc = 0 → ∀ d, domainOf s n = some d → (s.domain d).phase.pastCheck = false →
        ∃ t, exec (.trapDeliver n) s = .next t ∧ EventKept n (.trapRegs :: freezeParts) s t
          ∧ (t.domain d).frozen = true ∧ (t.core n).rcv.traps = c.rcv.traps
          ∧ Described (t.core n) p (l1.length + l2.length)))

/-- R293: `coll.kick` sends a kick to its Dealer once the writes that R199 names have performed, the words that the context
has sent among them, and its context waits for the answer; a GA that names no Dealer takes `E_PERM`. An accepted kick enters the Dealer's queue and the context
goes on; a refused or busy one leaves the Dealer as it is, and the context takes `E_NACK` or `E_DECK_BUSY` precisely.
Kicks that reach a Dealer in one of its cycles are answered by ascending kicker: one whose turn is over waits. -/
def Sys2Proof.Claims.Kicks : Prop :=
  (∀ (a b c : SReg) (vec : Fin 8) (s : State), canStart s (.collKick a b c vec) = true →
    let ga := s.sr a
    let dealer : Prop := isHub (gaNode ga) = true ∨ isBridge (gaNode ga) = true
    (gaBad s ga = false → dealer → ga.extractLsb' 0 32 = 0 → ∀ p, physGa s (nodeWafer s.cur.core) ga = some p →
      CompletesAt s (.collKick a b c vec) { s.cc with kick := some s.cur.succ } [.net, .names] fun t =>
        ∃ m, t.net = s.net ++ [m] ∧ m.src = s.cur.core
          ∧ m.kind = .kick s.cur.core s.cur.ctx (gaNode p) vec (s.sr b) (s.sr c) s.cur.pc
          ∧ (let within (h : Node) : Prop :=
                if isHub (gaNode p) then
                  isCore h = true ∧ nodeWafer h = nodeWafer (gaNode p) ∧ clusterOf h = clusterOf (gaNode p)
                else ∃ r ∈ regionsOf s h, r ∈ regionsOf s s.cur.core
              ∀ k, k ∈ m.after ↔
                (∃ e ∈ s.cn.comm.tracker, e.ctx = s.cur.ctx ∧ e.isWriteT = true ∧ e.id = k
                  ∧ within (homeOf s (nodeWafer s.cur.core) e.ga))
                ∨ (within s.cur.core ∧ ∃ l ∈ s.cn.later, l.ctx = s.cur.ctx ∧ l.isStore = true ∧ l.id = k)
                ∨ k ∈ wordsOut s s.cur.core s.cur.ctx))
    ∧ (s.cur.ctx ≠ 7 → gaBad s ga = false → dealer → ga.extractLsb' 0 32 = 0 → physGa s (nodeWafer s.cur.core) ga = none →
      TrapsAt s (.collKick a b c vec) 0x05 ga)
    ∧ (s.cur.ctx ≠ 7 → gaBad s ga = true ∨ ¬dealer ∨ ga.extractLsb' 0 32 ≠ 0 →
      TrapsAt s (.collKick a b c vec) 0x04 ga))
    ∧ ∀ (s : State) (m : Nat) (msg : Msg) (c d : Node) (x : Fin 8) (vec : Nat) (sb sc : Word) (pc succ : BitVec 32),
      arriving s m = some msg → msg.kind = .kick c x d vec sb sc pc → (s.ctx c x).kick = some succ →
      (s.ctx c x).reports = [] →
      let deal := s.dealer d
      let met : Nat × Nat := (dealerCycle s d + 1, kickPlace s c)
      let k : Ctx := { s.ctx c x with kick := none }
      let refused : Prop := servedTarget s d c = false ∨ deal.st = .halted ∨ deal.deck = none
        ∨ ∃ deck, deal.deck = some deck ∧ (deck.vectors[vec]?.getD 0xFFFF) = 0xFFFF
      let answered (code : BitVec 8) : Prop := ∃ t, exec (.kickArrive m) s = .next t
        ∧ KeptAt c x [.own, .traps, .net, .hubs, .bridges] s t ∧ Delivered s t m []
        ∧ t.dealer d = { deal with kickAt := met }
        ∧ t.ctx c x = { k with st := .trapped, blocked := none }
        ∧ (t.core c).rcv.traps = (s.core c).rcv.traps ++ [{ code := code, reported := false, orphan := false, pc := pc
                                                            val := dealerGa s d, rpc := pc, ctx := some x
                                                            stamp := cycleOf s c }]
      (kickLate s d c = true → exec (.kickArrive m) s = .next s)
      ∧ (kickLate s d c = false → (¬refused → deal.kicks.length < 2 → ∃ t, exec (.kickArrive m) s = .next t
        ∧ KeptAt c x [.own, .net, .hubs, .bridges] s t ∧ Delivered s t m []
        ∧ t.dealer d = { deal with kicks := deal.kicks ++ [kickOf c vec sb sc], kickAt := met }
        ∧ t.ctx c x = k.goOn pc succ (cycleOf s c))
      ∧ (x ≠ 7 → refused → answered 0x05)
      ∧ (x ≠ 7 → ¬refused → 2 ≤ deal.kicks.length → answered 0x08))

/-- R295, R296, R309: `coll.wait` takes its mailbox word once COUNT has reached `sa`[31:0], and otherwise blocks in
WAIT_COLL; `coll.rng` shows which range-table entries are armed at the end of its cycle, with the arms and clears that reach
the core in that cycle, and which of those hold the byte at `sa`[31:0]; a mailbox write counts and sets VALUE. -/
def Sys2Proof.Claims.MailboxesAndRanges : Prop :=
  (∀ (d a : SReg) (m : Fin 4) (s : State), canStart s (.collWait d a m) = true →
    let w := s.cn.sync.mb[m]
    let reached : Prop := (w.extractLsb' 0 32 - (s.sr a).extractLsb' 0 32).toNat < 2 ^ 31
    (reached → CompletesAt s (.collWait d a m) (goneOn s (s.cc.setSreg d w)) [] fun _ => True)
    ∧ (¬reached → ∃ t, exec (.collWait d a m) s = .next t ∧ Kept [.names] s t
      ∧ t.cc = blockedAs s (.collWait d a m) .waitColl 0))
    ∧ (∀ (d a : SReg) (s : State), canStart s (.collRng d a) = true →
      (d = 0 → CompletesAt s (.collRng d a) (goneOn s s.cc) [] fun _ => True)
      ∧ (d ≠ 0 → CompletesAt s (.collRng d a) (pendingOn s d s.nextId) [.ranges, .names] fun t =>
          t.cn.comm = { s.cn.comm with rangeAsk := s.cn.comm.rangeAsk ++
            [{ id := s.nextId, ctx := s.cur.ctx, fires := s.cc.fires, dest := d
               la := ((s.sr a).extractLsb' 0 32).toNat }] }))
    ∧ (∀ (s : State) (n : Node) (q : RangeAsk), (s.core n).comm.rangeAsk = [q] →
      let t := endRanges s n
      let k := s.ctx n q.ctx
      let entry (e : Fin 8) : Word :=
        (((s.core n).comm.rangeNext.filter (·.1 == e.val)).getLast?.map (·.2)).getD (s.core n).comm.range[e]
      KeptAt n q.ctx [.own, .ranges] s t ∧ (t.core n).comm.rangeNext = [] ∧ (t.core n).comm.rangeAsk = []
        ∧ (∀ e : Fin 8, (t.core n).comm.range[e] = entry e)
        ∧ (¬(k.fires = q.fires ∧ k.pending.any (fun p => p.2 == .request q.id) = true) → t.ctx n q.ctx = k)
        ∧ (k.fires = q.fires → k.pending.any (fun p => p.2 == .request q.id) = true →
          ∃ v : Word, t.ctx n q.ctx = (k.fillS q.id q.dest v).arrived q.id ∧ v.extractLsb' 16 48 = 0
            ∧ ∀ e : Fin 8,
              let w := entry e
              let len := 128 * (if w.extractLsb' 0 19 = 0 then 262144 else (w.extractLsb' 0 19).toNat)
              let base := (w.extractLsb' 32 32).toNat
              v.getLsbD e = w.getLsbD 31 ∧ v.getLsbD (8 + e.val) = (w.getLsbD 31 && inRange q.la base len)))
    ∧ ∀ (s : State) (m : Nat) (msg : Msg) (n : Node) (b : Fin 4) (v : BitVec 32), arriving s m = some msg →
      msg.kind = .mailbox n b v →
      ∃ t, exec (.mailboxWriteArrive m) s = .next t ∧ EventKept n [.net, .mailboxes] s t ∧ Delivered s t m []
        ∧ (t.core n).sync.mb[b].extractLsb' 32 32 = v
        ∧ (t.core n).sync.mb[b].extractLsb' 0 32 = (s.core n).sync.mb[b].extractLsb' 0 32 + 1
        ∧ ∀ c : Fin 4, c ≠ b → (t.core n).sync.mb[c] = (s.core n).sync.mb[c]

/-- R332, R322: `seal.arr` takes the core's arrival, `seal.wait` blocks until the seal, `seal.req` asks for one,
`egr.now` does all three and waits for its delivery point; a form that may not arrive or wait takes `E_SEAL_PROTO`, and
an `egr.now` without its endpoint `E_EGRESS`, whose RPC is its TRAP_VAL (R334). A seal request that reaches a core sets `LOG_CTL.REQ`, and its flag. -/
def Sys2Proof.Claims.SealForms : Prop :=
  (∀ (d : SReg) (st : Fin 64) (s : State),
    (canStart s (.sealArr d) = true → MayArrive s →
      CompletesAt s (.sealArr d) (goneOn s (s.cc.setSreg d (s.cn.rcv.rin.setWidth 64))) [.arrival] (Arrived s))
    ∧ (canStart s (.sealArr d) = true → ¬MayArrive s → s.cur.ctx ≠ 7 →
      TrapsAt s (.sealArr d) 0x13 (BitVec.ofNat 64 (holder s)))
    ∧ (canStart s (.sealWait d) = true → s.cc.sts.getLsbD 4 = false → s.cn.rcv.arrival = some s.cur.ctx →
      ∃ t, exec (.sealWait d) s = .next t ∧ Kept [.names] s t ∧ t.cc = blockedAs s (.sealWait d) .waitSeal 0)
    ∧ (canStart s (.sealWait d) = true → s.cc.sts.getLsbD 4 = true ∨ s.cn.rcv.arrival ≠ some s.cur.ctx →
      s.cur.ctx ≠ 7 → TrapsAt s (.sealWait d) 0x13 8)
    ∧ (canStart s .sealReq = true → s.cc.sts.getLsbD 4 = true ∨ domainOf s s.cur.core = none →
      CompletesAt s .sealReq (goneOn s s.cc) [] fun _ => True)
    ∧ (canStart s .sealReq = true → s.cc.sts.getLsbD 4 = false → ∀ e, domainOf s s.cur.core = some e →
      CompletesAt s .sealReq (goneOn s s.cc) [.net, .names, .domains] fun t => Requested s t e)
    ∧ (canStart s (.egrNow d st) = true → MayArrive s → (egressEndpoint s st).isSome = true →
      ∀ e, domainOf s s.cur.core = some e →
      ∃ t b, exec (.egrNow d st) s = .next t ∧ Kept [.net, .names, .domains, .arrival] s t ∧ Arrived s t
        ∧ (t.domain e).req = true ∧ t.cc = { s.cc with st := .waitSeal, blocked := some b }
        ∧ b.instr = .egrNow d st ∧ b.pc = s.cur.pc ∧ b.succ = s.cur.succ
        ∧ b.arg = 128 * (AMap.find s.cn.comm.sent st).getD 0)
    ∧ (canStart s (.egrNow d st) = true → s.cc.sts.getLsbD 4 = false → egressEndpoint s st = none → s.cur.ctx ≠ 7 →
      ∃ t, exec (.egrNow d st) s = .next t ∧ Kept [.traps] s t ∧ t.cc = { s.cc with st := .trapped, blocked := none }
        ∧ t.cn.rcv.traps = s.cn.rcv.traps ++ [ownTrap s 0x14 s.cur.pc (BitVec.ofNat 32 st) (BitVec.ofNat 64 st)])
    ∧ (canStart s (.egrNow d st) = true → s.cc.sts.getLsbD 4 = true → s.cur.ctx ≠ 7 →
      TrapsAt s (.egrNow d st) 0x13 (BitVec.ofNat 64 (holder s))))
    ∧ ∀ (s : State) (m : Nat) (msg : Msg) (n : Node), arriving s m = some msg → msg.kind = .sealReq n →
      let ctl := (s.core n).rcv.logCtl
      ∃ t, exec (.sealRequestArrive m) s = .next t ∧ EventKept n [.net, .log, .flags] s t ∧ Delivered s t m []
        ∧ (t.core n).rcv = { (s.core n).rcv with logCtl := ctl ||| 0x4000 }
        ∧ (ctl.getLsbD 7 = false → (t.core n).sync.flags = (s.core n).sync.flags)
        ∧ (ctl.getLsbD 7 = true →
          (t.core n).sync.flags = (s.core n).sync.flags ||| (1#16 <<< (ctl.extractLsb' 8 4).toNat))

/-- R113, R340: reads and writes of the CSRs. -/
def Obligations.SpecialRegisters : Prop :=
  Sys2Proof.Claims.CsrReads
    ∧ Sys2Proof.Claims.CsrWrites

/-- R134, R156, R334, R336, R341: traps that programs raise, their delivery to context 7, and the end of handlers. -/
def Obligations.SystemInstructions : Prop :=
  Sys2Proof.Claims.SystemForms
    ∧ Sys2Proof.Claims.TrapDelivery
    ∧ Sys2Proof.Claims.EndOfHandler

/-- R322, R332: seal instructions and seal requests. -/
def Obligations.SealInstructions : Prop :=
  Sys2Proof.Claims.SealForms

/-- R293, R295, R296, R309: what cores ask of Dealers and of each other. -/
def Obligations.CollectiveForms : Prop :=
  Sys2Proof.Claims.Kicks
    ∧ Sys2Proof.Claims.MailboxesAndRanges


/-! ### Dealers and Decks -/

namespace Sys2Proof.Claims

/-- The Dealer that executes. -/
def self (s : State) : Dealer := s.dealer s.cur.dealer

/-- R299: the executing Dealer as it issues: it issues no other word in this cycle. -/
def issuing (s : State) : Dealer := { self s with issueFrom := dealerCycle s s.cur.dealer + 1 }

/-- R299, R344, R349: the executing Dealer may issue its word. -/
def CanDeal (s : State) : Prop :=
  ((self s).st = .running ∨ (self s).st = .waiting) ∧ (self s).issueFrom ≤ dealerCycle s s.cur.dealer
    ∧ dealerFrozen s s.cur.dealer = false ∧ powered s s.cur.dealer = true

/-- The Dealer of node `n` becomes `d`, and nothing else of any hub or bridge changes. -/
def DealerIs (s t : State) (n : Node) (d : Dealer) : Prop :=
  (∀ m, t.hub m = if isHub n = true ∧ m = n then { s.hub m with dealer := d } else s.hub m)
    ∧ ∀ m, t.bridge m = if isHub n = false ∧ m = n then { s.bridge m with dealer := d } else s.bridge m

/-- The Dealer of node `n` becomes `d`; of the rest only the listed parts of core `c` change. -/
def Deals (s t : State) (n : Node) (d : Dealer) (c : Node) (but : List Part) : Prop :=
  EventKept c (.hubs :: .bridges :: but) s t ∧ DealerIs s t n d

/-- The word takes effect: the executing Dealer becomes `d`, and no core changes. -/
def DealsAt (s : State) (i : Instr) (d : Dealer) (but : List Part) (q : State → Prop) : Prop :=
  ∃ t, exec i s = .next t ∧ (∀ c, Deals s t s.cur.dealer d c but) ∧ q t

/-- R299: the word has to wait. -/
def Waits (s : State) (i : Instr) : Prop := DealsAt s i { self s with st := .waiting } [] fun _ => True

/-- R298: the word fails its check: the Dealer takes a fault with that cause at `DK_PC`. -/
def FaultsAt (s : State) (i : Instr) (cause : Nat) : Prop :=
  exec i s = .next (deckFault s s.cur.dealer cause (self s).pc)

/-- R308: the Dealer goes to word `pc`. -/
def Dealt (d : Dealer) (pc : Nat) : Dealer := { d with pc := pc, st := .running }

/-- R298, R306, R307: a GA names `t`, a node of this pod that the executing Dealer's module reaches. -/
def Names (s : State) (ga : Word) (t : Node) : Prop :=
  gaBadAt s (nodeWafer s.cur.dealer) ga = false ∧ ∃ p, physGa s (nodeWafer s.cur.dealer) ga = some p ∧ gaNode p = t

/-- R298: a GA names a core of a region that the executing Dealer serves. -/
def NamesCore (s : State) (ga : Word) (t : Node) : Prop :=
  Names s ga t ∧ isCore t = true ∧ servedTarget s s.cur.dealer t = true

/-- R306: a range that an entry can hold. -/
def Armable (s : State) (t : Node) (a n : Nat) : Prop :=
  a % 128 = 0 ∧ n % 128 = 0 ∧ 128 ≤ n ∧ n ≤ 2 ^ 25
    ∧ (laRangeOf a n = some .scratch ∨ laRangeOf a n = some .shelf ∧ a + n ≤ shelfTop (s.core t))

/-- R199, R307, R309: nothing of the executing Dealer is in its engine, and no arm, disarm or signal of it is on its
way. -/
def Quiet (s : State) : Prop :=
  (self s).engine = [] ∧ ∀ m ∈ s.net, (∀ t e b n p, m.kind ≠ .arm s.cur.dealer t e b n p)
    ∧ (m.src = s.cur.dealer → ∀ t g, m.kind ≠ .signal t g)

/-- R297: the effective stream of a word. -/
def streamOf (s : State) (rc : DReg) (st : Fin 64) : Nat := (st.val + ((self s).reg rc).toNat) % 64

/-- R300, R365, R312: the message by which a Dealer's word leaves: into the mesh, or over its optical port. A word of a
bridge's Dealer names the domain of its Deck. -/
def leaves (s : State) (n : Node) (w : ChWord) : List MsgKind :=
  let w := { w with dom := if isBridge n then dealerDomain s n else none }
  if isBridge n = true ∧ 60 ≤ w.stream then ((opticalPeer s n w.stream).map fun p => .chunk p w).toList
  else [.word (dealerRouter n) 4 w]

/-- R365: a Dealer can send on a stream: the link of an optical stream is up. -/
def CanSend (s : State) (n : Node) (st : Nat) : Prop :=
  isBridge n = true ∧ 60 ≤ st → (opticalPeer s n st).isSome = true

/-- R297: a buffer span is aligned and lies in the Deck area. -/
def SpanOk (o n : Nat) : Prop := o % 256 = 0 ∧ o + n ≤ 0x180000

/-- R299: a data word of the executing Dealer as it enters the engine. -/
def entered (s : State) (i : Instr) (off : Nat) (ga : Word) (st : Nat) : DkOp :=
  { id := s.nextId, instr := i, pc := (self s).pc, off := off, ga := ga, stream := st
    inst := ((self s).reg 4).toNat % 4, todo := sourcePieces i ga, got := [], sent := false }

/-- R299: a data word enters the engine with what it read, while eight are not in progress, and otherwise waits. -/
def Enters (s : State) (i : Instr) (off : Nat) (ga : Word) (st : Nat) : Prop :=
  let d := issuing s
  (8 ≤ d.engine.length → Waits s i)
    ∧ (d.engine.length < 8 → DealsAt s i (Dealer.goOn { d with engine := d.engine ++ [entered s i off ga st] }) [.names]
        fun t => t.nextId = s.nextId + 1)

/-- R299: a data word in a Dealer's engine that is not frozen. -/
def InEngine (s : State) (n : Node) (id : Nat) (o : DkOp) : Prop :=
  dealerFrozen s n = false ∧ (s.dealer n).engine.find? (fun e => e.id == id) = some o

/-- R299: the data word has ended. -/
def ended (d : Dealer) (o : DkOp) : Dealer := { d with engine := d.engine.filter fun e => e.id ≠ o.id }

/-- R299: the data word goes on as `o`. -/
def going (d : Dealer) (o : DkOp) : Dealer := { d with engine := d.engine.map fun e => if e.id = o.id then o else e }

/-- The Dealer of `n` becomes `d` but for its Deck area, in which `bs` stands at `a` and nothing else changes. -/
def AreaTakes (s t : State) (n : Node) (d : Dealer) (a : Nat) (bs : List Byte) : Prop :=
  memWf d.area = true → ∃ d', DealerIs s t n d' ∧ d' = { d with area := d'.area, undef := d'.undef } ∧ d'.read a bs.length = bs
    ∧ ∀ b k, overlaps b k a bs.length = false → d'.read b k = (s.dealer n).read b k

/-- R58, R302: the values of a chunk's or piece's bytes: FP32, or BF16 widened. -/
def elements (wide : Bool) (bs : List Byte) : List (BitVec 32) := if wide then widen16 bs else words32 bs

/-- R302, R303: the bytes that combining leaves in an area. -/
def combined (d : Dealer) (op : ROp) (a : Nat) (xs : List (BitVec 32)) : List Byte :=
  bytes32 (List.zipWith (reduceElem op) (words32 (d.read a (4 * xs.length))) xs)

/-- R300: a word of a chunk. -/
def chunkPart (n : Node) (o : DkOp) (sz : Nat) (tag : BitVec 8) (k : Nat) (bs : List Byte) : ChWord :=
  { val := { data := BitVec.ofNat 1024 (leNat bs) }, src := n, stream := o.stream, lot := o.id
    chunk := some { sz := sz, ctag := tag, inst := o.inst, sender := n, index := k } }

/-- R177, R302, R303: the data word reads the piece of its remote source that the machine takes next of those it has still
to read, unless a `put.h` that waits at the target's port holds it back (R126): a piece that may not be read is fault 4; `q`
holds of the piece's core, the word as it goes on, and what follows. -/
def ReadsPiece (s : State) (n : Node) (i : Instr) (o : DkOp) (q : Node → DkOp → State → Prop) : Prop :=
  ∃ p, o.todo[chosen s o.todo.length]? = some p ∧
    let ga := o.ga + BitVec.ofNat 64 p.1
    let c := homeOf s (nodeWafer n) ga
    (portHeld s n c none = true → exec i s = .next s)
    ∧ (portHeld s n c none = false → remoteBad s n ga p.2 .read = true → exec i s = .next (deckFault s n 4 o.pc))
    ∧ (portHeld s n c none = false → remoteBad s n ga p.2 .read = false → ∃ t, exec i s = .next t ∧ t.draws = s.draws + 1
      ∧ q c { o with todo := o.todo.erase p, got := AMap.put o.got p.1 (laBytes (s.core c) (gaLa ga) p.2) } t)

/-- R304, R306: entry `e` of a range table at the end of the cycle. -/
def entryAtEnd (c : Core) (e : Nat) : Word :=
  ((c.comm.rangeNext.filter fun p => p.1 == e).getLast?.map fun p => p.2).getD (c.comm.range[e]?.getD 0)

/-- R304, R306: entry `ent` of core `c` becomes `w` at the end of the cycle. -/
def Changes (s t : State) (c : Node) (ent : Nat) (w : Word) : Prop :=
  (t.core c).comm.range = (s.core c).comm.range ∧ (t.core c).comm.rangeNext = (s.core c).comm.rangeNext ++ [(ent, w)]

/-- R301: the place that the first word of a chunk opens in the holding area. -/
def firstPart (h : ChunkHdr) (w : ChWord) : Held :=
  { sender := h.sender, stream := w.stream, sz := h.sz, ctag := h.ctag, inst := h.inst, data := [w.val.data] }

/-- R304, R306: the pending operation of a delivered tile at its Dealer. -/
def tilePc (s : State) (d : Node) (op : Nat) : Nat :=
  (((s.dealer d).engine.find? fun o => o.id == op).map (·.pc)).getD (s.dealer d).pc

/-- R305: the owner of an armed entry is the Dealer. -/
def OwnedBy (d : Node) (w : Word) : Prop :=
  if isBridge d then w.getLsbD 30 = true ∧ (w.extractLsb' 20 10).toNat = nodeNum d - 0xFF00
  else w.getLsbD 30 = false ∧ (w.extractLsb' 20 10).toNat = clusterOf d

end Sys2Proof.Claims

/-- R290, R308: `d0` reads as zero and discards writes; a Dealer goes on to the next word, or at the end of a loop
body back to its beginning while two or more rounds are left. The control words write their register, test it, and go
to their target; a target past the Deck is fault 7. -/
def Sys2Proof.Claims.DeckControl : Prop :=
  (∀ (d : Dealer) (r q : DReg) (v : Word), d.reg 0 = 0 ∧ d.setReg 0 v = d
      ∧ (r ≠ 0 → (d.setReg r v).reg q = if q = r then v else d.reg q))
    ∧ (∀ d : Dealer,
      (d.pc ≠ d.lpEnd ∨ d.lpCnt = 0 → d.goOn = Dealt d (d.pc + 1))
      ∧ (d.pc = d.lpEnd → d.lpCnt = 1 → d.goOn = Dealt { d with lpCnt := 0 } (d.pc + 1))
      ∧ (d.pc = d.lpEnd → 2 ≤ d.lpCnt.toNat → d.goOn = Dealt { d with lpCnt := d.lpCnt - 1 } d.lpBeg))
    ∧ ∀ (a b c : DReg) (imm : BitVec 32) (target : Fin 8192) (g : Fin 8) (s : State), CanDeal s →
      let d := issuing s
      let sets (i : Instr) (v : Word) : Prop := DealsAt s i (d.setReg a v).goOn [] fun _ => True
      let goes (i : Instr) (k : Dealer) : Prop := DealsAt s i k [] fun _ => True
      let y := d.reg c + imm.signExtend 64
      sets (.dkSet a false imm) (imm.signExtend 64)
        ∧ sets (.dkSet a true imm) (imm ++ (d.reg a).extractLsb' 0 32)
        ∧ sets (.dkAdd a b c .add imm) (d.reg b + y)
        ∧ sets (.dkAdd a b c .sub imm) (d.reg b - y)
        ∧ sets (.dkAdd a b c .and imm) (d.reg b &&& y)
        ∧ sets (.dkAdd a b c .shl imm) (d.reg b <<< (y.toNat % 64))
        ∧ (d.length ≤ target → ∀ i ∈ [Instr.dkJmp target, .dkBnz a target, .dkLoop a target], FaultsAt s i 7)
        ∧ (target < d.length →
          goes (.dkJmp target) (Dealt d target)
          ∧ (d.reg a ≠ 0 → goes (.dkBnz a target) (Dealt d target))
          ∧ (d.reg a = 0 → goes (.dkBnz a target) d.goOn)
          ∧ let n : BitVec 32 := (d.reg a).extractLsb' 0 32
            goes (.dkLoop a target) (Dealt { d with lpBeg := d.pc + 1, lpEnd := target, lpCnt := n }
              (if n = 0 then target + 1 else d.pc + 1)))
        ∧ let reached : Prop := (d.g[g] - (d.reg a).extractLsb' 0 32).toNat < 2 ^ 31
          (reached → goes (.dkWait a g) d.goOn) ∧ (¬reached → Waits s (.dkWait a g))

/-- R306, R307, R309: `dk.arm` and `dk.disarm` send their entry to the core once the earlier `dk.put` words to it have
left; `dk.sig` signals a Dealer of the domain, and `dk.done` writes a mailbox and ends the instance, once every earlier
word has completed; `dk.step` sends a marker and `dk.sealpt` stops for a seal once the engine is empty. Otherwise the
word waits; a GA that names no such node, and a range that no entry holds, are fault 4. -/
def Sys2Proof.Claims.DeckSync : Prop :=
  ∀ (a b c : DReg) (ent g : Fin 8) (m : Fin 4) (st : Fin 64) (s : State), CanDeal s →
    let d := issuing s
    let me := s.cur.dealer
    let ga := d.reg b
    let la : Nat := (ga.extractLsb' 0 32).toNat
    let len := (d.reg c).toNat
    let sends (i : Instr) (k : Dealer) (l : List MsgKind) : Prop := DealsAt s i k [.net, .names] fun t => Sent s t l
    (∀ t, NamesCore s ga t →
      let free : Prop := ∀ o ∈ d.engine, o.sent = false → homeOf s (nodeWafer me) o.ga = t →
        ∀ ra rb sz k dis e bf off, o.instr ≠ .dkPut ra rb sz k dis e bf off
      (Armable s t la len → free → sends (.dkArm b c ent) d.goOn [.arm me t ent la len d.pc])
      ∧ (Armable s t la len → ¬free → Waits s (.dkArm b c ent))
      ∧ (¬Armable s t la len → FaultsAt s (.dkArm b c ent) 4)
      ∧ (free → sends (.dkDisarm b ent) d.goOn [.arm me t ent 0 0 d.pc])
      ∧ (¬free → Waits s (.dkDisarm b ent))
      ∧ (Quiet s → sends (.dkDone a b m) { d.goOn with st := .idle, kicks := d.kicks.drop 1 }
          [.mailbox t m ((d.reg a).extractLsb' 0 32)])
      ∧ (¬Quiet s → Waits s (.dkDone a b m)))
    ∧ ((∀ t, ¬NamesCore s ga t) → ∀ i ∈ [Instr.dkArm b c ent, .dkDisarm b ent, .dkDone a b m], FaultsAt s i 4)
    ∧ (∀ t e, Names s ga t → isHub t = true ∨ isBridge t = true → dealerDomain s t = some e →
      dealerDomain s me = some e →
        (Quiet s → sends (.dkSig b g) d.goOn [.signal t g]) ∧ (¬Quiet s → Waits s (.dkSig b g)))
    ∧ ((∀ t e, Names s ga t → isHub t = true ∨ isBridge t = true → dealerDomain s t = some e →
      dealerDomain s me ≠ some e) → FaultsAt s (.dkSig b g) 4)
    ∧ (d.engine = [] → CanSend s me (streamOf s c st) →
      sends (.dkStep c st) d.goOn (leaves s me { mark := true, src := me, stream := streamOf s c st, lot := s.nextId }))
    ∧ (d.engine ≠ [] ∨ ¬CanSend s me (streamOf s c st) → Waits s (.dkStep c st))
    ∧ (d.engine = [] → DealsAt s .dkSealpt { d.goOn with st := .sealpt } [] fun _ => True)
    ∧ (d.engine ≠ [] → Waits s .dkSealpt)

/-- R297–R299, R302–R304: the data words enter the engine with their span, GA and effective stream; a span that is
not aligned or leaves the Deck area is fault 2, a remote access that may not be made fault 4. -/
def Sys2Proof.Claims.DeckDataIssue : Prop :=
  ∀ (a b c : DReg) (sz : Fin 9) (st k : Fin 64) (tag : BitVec 8) (rop : ROp) (wide flag : Bool) (ent : Fin 8)
    (off : Fin 8192) (s : State), CanDeal s →
    let d := issuing s
    let n := 256 * 2 ^ sz.val
    let o := (d.reg a + BitVec.ofNat 64 (256 * off.val)).toNat
    let two : Nat := if wide then 2 else 1
    let ga := d.reg b
    let bad (len : Nat) (use : RemoteUse) : Prop := remoteBad s s.cur.dealer ga len use = true
    let send := Instr.dkSend a b c sz st tag false off
    let sendG := Instr.dkSend a b c sz st tag true off
    let recv := Instr.dkRecv a c sz st tag off
    let rred := Instr.dkRred a c sz st tag rop wide off
    let copy := Instr.dkCopy a b sz rop wide flag off
    let put := Instr.dkPut a b sz k flag ent wide off
    (SpanOk o n → Enters s send o 0 (streamOf s c st) ∧ Enters s recv o 0 (streamOf s c st))
      ∧ (¬SpanOk o n → FaultsAt s send 2 ∧ FaultsAt s recv 2 ∧ FaultsAt s put 2)
      ∧ (¬bad n .read → Enters s sendG o ga (streamOf s c st)) ∧ (bad n .read → FaultsAt s sendG 4)
      ∧ (SpanOk o (n * two) → Enters s rred o 0 (streamOf s c st) ∧ (¬bad n .read → Enters s copy o ga 0)
          ∧ (bad n .read → FaultsAt s copy 4))
      ∧ (¬SpanOk o (n * two) → FaultsAt s rred 2 ∧ FaultsAt s copy 2)
      ∧ (SpanOk o n → ¬bad (n / two) .dealer → Enters s put o ga 0)
      ∧ (SpanOk o n → bad (n / two) .dealer → FaultsAt s put 4)

/-- R299–R304: what a data word does in the engine. `dk.recv` and `dk.rred` take their chunk once it is whole, and a
chunk of another size is fault 3; `dk.send` sends the words of its chunk in order and ends when they have left;
`dk.send` from a remote source and `dk.copy` first read its aligned pieces, one at a time, and `dk.copy` ends with its span
written; `dk.put` sends its pieces and ends when they have arrived. -/
def Sys2Proof.Claims.DataEngine : Prop :=
  ∀ (s : State) (n : Node) (id : Nat) (o : DkOp), InEngine s n id o →
    let d := s.dealer n
    let i := Instr.dealerDataWordComplete n id
    (∀ h (sz : Fin 9) a c st tag rop wide off,
      o.instr = .dkRecv a c sz st tag off ∨ o.instr = .dkRred a c sz st tag rop wide off →
      matchChunk d o = some h →
        (h.sz ≠ sz → exec i s = .next (deckFault s n 3 o.pc))
        ∧ (h.sz = sz → h.data.length = chunkWords sz → mayAccess d o = true →
          let bs := h.data.flatMap vbytes
          let left : Dealer := { ended d o with held := d.held.erase h }
          ∃ t, exec i s = .next t ∧ (∀ c, EventKept c [.hubs, .bridges] s t)
            ∧ (o.instr = .dkRecv a c sz st tag off → AreaTakes s t n left o.off bs)
            ∧ (o.instr = .dkRred a c sz st tag rop wide off →
                AreaTakes s t n left o.off (combined d rop o.off (elements wide bs)))))
    ∧ (∀ (sz : Fin 9) a b c st tag off, o.instr = .dkSend a b c sz st tag false off →
      (o.sent = false → mayAccess d o = true → reachFree s n d o = true → o.todo = [] → sendsBefore d o = false →
        CanSend s n o.stream → ∃ t, exec i s = .next t ∧ (∀ c, Deals s t n (going d { o with sent := true }) c [.net, .names])
          ∧ Sent s t ((List.range (2 * 2 ^ sz.val)).flatMap fun k =>
              leaves s n (chunkPart n o sz tag k (d.read (o.off + 128 * k) 128)))))
    ∧ (∀ (sz : Fin 9) a b c st tag g off, o.instr = .dkSend a b c sz st tag g off → o.sent = true →
        wordsAtRouter s n o = false → ∃ t, exec i s = .next t ∧ ∀ c, Deals s t n (ended d o) c [])
    ∧ (∀ (sz : Fin 9) a b c st tag off, o.instr = .dkSend a b c sz st tag true off → o.sent = false →
      mayAccess d o = true → reachFree s n d o = true →
        (o.todo ≠ [] → ReadsPiece s n i o fun c o' t =>
          Deals s t n (going d o') c [.draws, .l1, .copiesShr, .logged, .beat])
        ∧ (o.todo = [] → sendsBefore d o = false → CanSend s n o.stream →
          ∃ t, exec i s = .next t ∧ (∀ c, Deals s t n (going d { o with sent := true }) c [.net, .names])
            ∧ Sent s t ((List.range (2 * 2 ^ sz.val)).flatMap fun k =>
                leaves s n (chunkPart n o sz tag k (((o.got.flatMap (·.2)).drop (128 * k)).take 128)))))
    ∧ (∀ (sz : Fin 9) a b rop wide acc off, o.instr = .dkCopy a b sz rop wide acc off → mayAccess d o = true →
      reachFree s n d o = true →
        let fills (o' : DkOp) (t : State) : Prop :=
          let xs := elements wide (o'.got.flatMap (·.2))
          AreaTakes s t n (ended d o) o.off (if acc then combined d rop o.off xs else bytes32 xs)
        (o.todo ≠ [] → ReadsPiece s n i o fun c o' t =>
          EventKept c [.hubs, .bridges, .draws, .l1, .copiesShr, .logged, .beat] s t
          ∧ (o'.todo ≠ [] → DealerIs s t n (going d o')) ∧ (o'.todo = [] → fills o' t))
        ∧ (o.todo = [] → ∃ t, exec i s = .next t ∧ (∀ c, EventKept c [.hubs, .bridges] s t) ∧ fills o t))
    ∧ ∀ (sz : Fin 9) a b k dis ent bf off, o.instr = .dkPut a b sz k dis ent bf off →
      (o.sent = false → mayAccess d o = true → reachFree s n d o = true → putsBefore s n d o = false →
        let bs := putBytes d o sz bf
        (remoteBad s n o.ga bs.length .dealer = true → exec i s = .next (deckFault s n 4 o.pc))
        ∧ (remoteBad s n o.ga bs.length .dealer = false → ∀ p, physGa s (nodeWafer n) o.ga = some p →
          ∃ t, exec i s = .next t ∧ (∀ c, Deals s t n (going d { o with sent := true }) c [.net, .names])
            ∧ Sent s t ((pieces (gaLa p) bs.length).map fun q =>
                .dkPiece n o.id (p + BitVec.ofNat 64 q.1) ((bs.drop q.1).take q.2) k dis ent)))
      ∧ (o.sent = true → (∀ x ∈ s.net, pieceOf x.kind ≠ some (2 * o.id + 1)) →
        ∃ t, exec i s = .next t ∧ ∀ c, Deals s t n (ended d o) c [])

/-- R301: a word on a chunk stream joins the holding area of its Dealer: the first of a chunk opens a place, a later
one joins the open chunk of its sender and stream. A halted Dealer discards it, one without a Deck takes a machine
check, and a chunk of no current or next interval of the instance number is fault 6. -/
def Sys2Proof.Claims.ChunkWords : Prop :=
  ∀ (s : State) (m : Nat) (msg : Msg) (n : Node) (w : ChWord) (h : ChunkHdr),
    let d := s.dealer n
    let i := Instr.chunkWordArrive m
    let u := unpost s m
    arriving s m = some msg → msg.kind = .chunk n w →
      (w.chunk = none ∨ w.mark = true → exec i s = .next u)
      ∧ (w.chunk = some h → w.mark = false →
        (d.deck = none → exec i s = .next (machineCheckOf u (affected s h.sender) n 5 w.stream))
        ∧ (d.deck ≠ none → d.st = .halted → exec i s = .next u)
        ∧ (d.deck ≠ none → d.st ≠ .halted → h.index = 0 → 2 ≤ (h.inst + 4 - d.curInst % 4) % 4 →
          exec i s = .next (deckFault u n 6 d.pc))
        ∧ (d.deck ≠ none → d.st ≠ .halted → heldChunkBytes d + 128 ≤ 0x80000 →
          (h.index = 0 → (h.inst + 4 - d.curInst % 4) % 4 < 2 → ∃ t, exec i s = .next t
            ∧ Delivered s t m []
            ∧ ∀ c, Deals s t n { d with held := d.held ++ [firstPart h w] } c [.net])
          ∧ (0 < h.index → ∀ l1 l2 x, d.held = l1 ++ x :: l2 → x ∉ l1 → x ∉ l2 →
            (∀ y ∈ l1, ¬(y.sender = h.sender ∧ y.stream = w.stream ∧ y.data.length < chunkWords y.sz)) →
            x.sender = h.sender → x.stream = w.stream → x.data.length < chunkWords x.sz →
            ∃ t, exec i s = .next t ∧ Delivered s t m []
              ∧ ∀ c, Deals s t n { d with held := l1 ++ { x with data := x.data ++ [w.val.data] } :: l2 } c [.net])))

/-- R304, R316: a piece of a delivered tile is written at its core. The last of them disarms, at the end of the cycle, the
entry of its range where the word says so, and adds 1 to the counter; an entry that another Dealer armed is fault 5, a
refused piece fault 4; a piece whose tags are stale is discarded. -/
def Sys2Proof.Claims.TilePieces : Prop :=
  ∀ (s : State) (m : Nat) (msg : Msg) (d : Node) (op : Nat) (ga : Word) (bs : List Byte) (k : Fin 64) (dis : Bool)
    (ent : Fin 8),
    let c := gaNode ga
    let a := gaLa ga
    let i := Instr.dkPutArrive m
    let w := rangeEntry s c ent
    let last : Prop := ∀ x ∈ s.net, x.id ≠ m → pieceOf x.kind ≠ some (2 * op + 1)
    arriving s m = some msg → msg.kind = .dkPiece d op ga bs k dis ent →
      (staleTags s msg c = true → exec i s = .next (unpost s m))
      ∧ (staleTags s msg c = false → nacked s c d .dealer a bs.length = true →
        exec i s = .next (deckFault (dropPieces (unpost s m) (2 * op + 1)) d 4 (tilePc s d op)))
      ∧ (staleTags s msg c = false → nacked s c d .dealer a bs.length = false → laRange a ≠ some .regs → memWf (s.core c).mem.mem = true →
        inLog (s.core c) a bs.length = false → ¬last ∨ dis = false ∨ w.getLsbD 31 = false ∨ OwnedBy d w →
        ∃ t, exec i s = .next t ∧ EventKept c (writeParts ++ logParts ++ [.counters, .ranges]) s t
          ∧ BytesAt t c a bs ∧ OtherBytesKept c a bs.length s t
          ∧ (¬last → EventKept c (writeParts ++ logParts) s t)
          ∧ (last → (∀ q : Fin 64, (t.core c).sync.k[q] = (s.core c).sync.k[q] + if q = k then 1 else 0)
            ∧ (dis = true ∧ w.getLsbD 31 = true → Changes s t c ent 0)
            ∧ (¬(dis = true ∧ w.getLsbD 31 = true) → Part.ranges.same c 0 s t)))

/-- R294: an idle Dealer starts its oldest kick: `d1` and `d2` take the operands, `d3` the kicker, `d4` the instance
number, which then rises, and the Dealer runs from the vector's word. -/
def Sys2Proof.Claims.InstanceStarts : Prop :=
  ∀ (s : State) (n : Node) (deck : Deck) (q : Kick) (rest : List Kick),
    let d := s.dealer n
    d.deck = some deck → d.kicks = q :: rest → d.st = .idle → dealerFrozen s n = false →
      ∃ t, exec (.dealerInstanceStart n) s = .next t
        ∧ ∃ d', (∀ c, Deals s t n d' c []) ∧ d' = { d with
              d := d'.d, lpCnt := 0, lpBeg := 0, lpEnd := 0, inst := d.inst + 1, st := .running
              pc := (deck.vectors[q.vec]?.getD 0).toNat }
          ∧ ∀ r : DReg, d'.reg r =
              [0, q.sb, q.sc, BitVec.ofNat 64 (location s q.kicker), d.inst.setWidth 64].getD r.val 0

/-- R305–R307: at the end of the cycle an arm fills an entry that is not armed with its base, length and owner, and a
disarm clears one that its Dealer armed, and leaves one that is not armed; anything else is fault 5. What arrived earlier in
the cycle counts. A signal adds 1 to its counter. -/
def Sys2Proof.Claims.ArmsAndSignals : Prop :=
  (∀ (s : State) (m : Nat) (msg : Msg) (d c : Node) (ent : Nat) (base len pc : Nat),
    let w := rangeEntry s c ent
    let i := Instr.rangeArmArrive m
    arriving s m = some msg → msg.kind = .arm d c ent base len pc →
      (len ≠ 0 → w.getLsbD 31 = false → len ≤ 2 ^ 25 → ent < 8 →
        ∃ t v, exec i s = .next t ∧ EventKept c [.net, .ranges] s t ∧ Delivered s t m [] ∧ Changes s t c ent v
          ∧ v.getLsbD 31 = true ∧ v.extractLsb' 32 32 = BitVec.ofNat 32 base
              ∧ v.extractLsb' 0 19 = BitVec.ofNat 19 (len / 128) ∧ v.getLsbD 19 = false ∧ OwnedBy d v)
      ∧ (len = 0 → w.getLsbD 31 = false → exec i s = .next (unpost s m))
      ∧ (len = 0 → w.getLsbD 31 = true → OwnedBy d w →
        ∃ t, exec i s = .next t ∧ EventKept c [.net, .ranges] s t ∧ Delivered s t m [] ∧ Changes s t c ent 0)
      ∧ (w.getLsbD 31 = true → len ≠ 0 ∨ ¬OwnedBy d w → exec i s = .next (deckFault (unpost s m) d 5 pc)))
    ∧ (∀ (s : State) (n : Node) (e : Fin 8), rangeEntry s n e = entryAtEnd (s.core n) e)
    ∧ (∀ c : Core, (c.takeRange).comm.rangeNext = [] ∧ c.takeRange = { c with comm := c.takeRange.comm }
      ∧ ∀ e : Fin 8, c.takeRange.comm.range[e] = entryAtEnd c e)
    ∧ ∀ (s : State) (m : Nat) (msg : Msg) (d : Node) (g : Fin 8), arriving s m = some msg → msg.kind = .signal d g →
      ∃ t, exec (.signalArrive m) s = .next t ∧ Delivered s t m []
        ∧ ∃ d', (∀ c, Deals s t d d' c [.net]) ∧ d' = { s.dealer d with g := d'.g }
          ∧ ∀ q : Fin 8, d'.g[q] = (s.dealer d).g[q] + if q = g then 1 else 0

/-- R290, R306–R309: the Deck words that a Dealer performs by itself. -/
def Obligations.DeckWords : Prop :=
  Sys2Proof.Claims.DeckControl
    ∧ Sys2Proof.Claims.DeckSync

/-- R297–R304, R316: the Deck words that move data, the data engine, and the words and pieces that reach cores and
Dealers. -/
def Obligations.DeckData : Prop :=
  Sys2Proof.Claims.DeckDataIssue
    ∧ Sys2Proof.Claims.DataEngine
    ∧ Sys2Proof.Claims.ChunkWords
    ∧ Sys2Proof.Claims.TilePieces

/-- R294, R305–R307: what starts a collective, and what reaches a node from a Dealer. -/
def Obligations.DealerArrivals : Prop :=
  Sys2Proof.Claims.InstanceStarts
    ∧ Sys2Proof.Claims.ArmsAndSignals


/-! ### Seals and recovery -/

namespace Sys2Proof.Claims

/-- The parts that belong to no core. -/
def machineParts : List Part :=
  [.now, .hubs, .bridges, .modules, .domains, .net, .names, .draws, .lots, .agenda, .arriving, .cur]

/-- Outside the cores nothing changes but the listed parts. -/
def Outside (but : List Part) (s t : State) : Prop := ∀ p ∈ machineParts, p ∉ but → p.same 0 0 s t

/-- No core changes. -/
def CoresKept (s t : State) : Prop := ∀ n, t.core n = s.core n

/-- Each core of a list becomes what `f` says, and no other core changes. -/
def CoresAre (s t : State) (l : List Node) (f : Core → Core) : Prop :=
  ∀ n, t.core n = if n ∈ l then f (s.core n) else s.core n

/-- The domain `d` becomes `x`, and no other domain changes. -/
def OnlyDomain (s t : State) (d : Nat) (x : Domain) : Prop := ∀ e, t.domain e = if e = d then x else s.domain e

/-- The module `w` becomes `m`, and no other module changes. -/
def OnlyModule (s t : State) (w : Nat) (m : Module) : Prop := ∀ v, t.module v = if v = w then m else s.module v

/-- The hub `h` becomes `x`, and no other hub changes. -/
def OnlyHub (s t : State) (h : Node) (x : Hub) : Prop := ∀ g, t.hub g = if g = h then x else s.hub g

/-- R323: what a core needs to be ready to seal. -/
structure QuietCore (s : State) (n : Node) : Prop where
  contexts : ∀ i : Fin 8, i ≠ 7 →
    (s.ctx n i).reports = []
      ∧ if (s.core n).rcv.arrival = some i then (s.ctx n i).st = .waitSeal else ctxQuiet s n (s.ctx n i) = true
  seven : (s.ctx n 7).st = .free ∨ (s.ctx n 7).st = .idle
  entries : ∀ e, e < 32 → entryReady (s.core n) e = false
  pseudo : (s.core n).trg.pseudo = []
  queues : ∀ p ∈ (s.core n).comm.chans, p.2.queue = [] ∧ p.2.spill = []
  ports : ∀ i : Fin 4, (s.core n).comm.nb[i] = none
  tracker : (s.core n).comm.tracker = []
  copies : (s.core n).comm.copies = []
  unit : (s.core n).mx.queue = []
  later : (s.core n).later = [] ∧ (s.core n).mem.fills = []

/-- R324, R365: a seal may begin. -/
structure SealMayBegin (s : State) (d : Nat) : Prop where
  phase : (s.domain d).phase = .open_
  running : (s.domain d).frozen = false ∧ (s.domain d).rolling = false
  launched : launchedSlots s d ≠ []
  wanted : sealWanted s d = true
  linked : domainLinked s d = true
  cores : ∀ p ∈ launchedSlots s d, ∀ n ∈ slotCores s p.1 p.2, QuietCore s n
  hubs : ∀ p ∈ launchedSlots s d, ∀ h ∈ slotHubs s p.1 p.2, hubReady s h = true
  bridges : ∀ b ∈ domBridges s d, bridgeReady s d b = true

/-- R325: a checkpoint holds the state of a core. -/
structure Saved (c : Core) (k : Ckpt) : Prop where
  ctxs : ∀ (x : Fin 8) (y : Ctx), (x, y) ∈ k.ctxs ↔ x ≠ 7 ∧ y = c.ctx x ∧ y.st ≠ .free
  armed : ∀ e : Fin 32, k.armed.getLsbD e = c.trg.entries[e].tctl.getLsbD 0
  trgCtl : k.trgCtl = c.trg.ctl
  sync : k.flags = c.sync.flags ∧ k.k = c.sync.k ∧ k.mb = c.sync.mb ∧ k.bar = c.sync.bar
  comm : k.win = c.comm.win ∧ k.prot = c.comm.prot ∧ k.sent = c.comm.sent
  ranges : ∀ e : Fin 8, k.range[e] = entryAtEnd c e
  curs : ∀ st, AMap.find k.curs st = (AMap.find c.comm.routes st).map (·.cur)
  unit : k.w = c.mx.w ∧ k.mxCfg = c.mx.cfg ∧ k.ctab = c.mx.ctab
  seq : k.sealSeq = c.rcv.sealSeq
  rows : ∀ a, memGet k.acc a = if inRange a 0x100000 0x10000 then memGet c.mem.mem a else 0

/-- R310: a Dealer's checkpoint holds its state. -/
def DealerSaved (d : Dealer) (k : Option DkCkpt) : Prop :=
  k = some { d := d.d, pc := d.pc, lpCnt := d.lpCnt, lpBeg := d.lpBeg, lpEnd := d.lpEnd, inst := d.inst, g := d.g
             kicks := d.kicks, st := d.st, cause := d.cause, faultPc := d.faultPc }

/-- R324: a core after FLIP. -/
def flipped (c : Core) : Core :=
  { c with
    mem := { c.mem with logged := [] }
    rcv := { c.rcv with
      rinSealed := c.rcv.rin, rin := c.rcv.rin + 1, active := !c.rcv.active, logFill := 0
      logCtl := c.rcv.logCtl &&& ~~~0xC000#64 } }

/-- R330: at CHANGE nothing waits but bank masks that are taken, staged log registers, and retirements for the seal that
follows. -/
structure PlainChange (s : State) (d : Nat) : Prop where
  distinct : (domCores s d).Nodup
  banks : ∀ n ∈ domCores s d, (s.core n).mem.bankNext = (s.core n).mem.bankLive ∨ remapRefused s n = false
  commands : ∀ w ∈ wafers s, (s.module w).retireReqs = [] ∧ (s.module w).colmoves = []
  slots : ∀ p ∈ memberSlots s d, ((s.module p.1).slot p.2).unloading = false
    ∧ ∀ cl ∈ ((s.module p.1).slot p.2).clusters, clusterAvailable (s.module p.1) cl = true
  joined : ∀ p ∈ launchedSlots s d, ∀ b, b < 15 → isWide s p.1 p.2 b = true →
    ((s.module p.1).slot p.2).joined.getLsbD b = true

/-- R89, R330: a core after such a CHANGE, but for the bytes that its log leaves. -/
def changed (c : Core) : Core :=
  let moved : BitVec 32 :=
    if c.mem.bankNext = c.mem.bankLive then c.rcv.logBase
    else BitVec.ofNat 32 (0x40000000 + popcount c.mem.bankNext * 0x200000 - c.rcv.logSize.toNat)
  { c with
    mem := { c.mem with bankLive := c.mem.bankNext, undef := [] }
    rcv := { c.rcv with
      logBase := c.rcv.stagedBase.getD moved, logSize := c.rcv.stagedSize.getD c.rcv.logSize
      stagedBase := none, stagedSize := none } }

/-- The contents of a core but for which bytes are undefined. -/
def noSpans (c : Core) : Core := { c with mem := { c.mem with undef := [] } }

/-- R103, R324: a core at RELEASE, apart from its contexts. -/
def released (c : Core) : Core :=
  { c with mem := { c.mem with lineHist := [], icache := [] }, rcv := { c.rcv with arrival := none } }

/-- R132, R332: a context of a core whose `seal.wait` ends in a cycle. -/
def sealWaitDone (c : Core) (k : Ctx) (sd : SReg) (b : Blocked) (cycle : Nat) : Ctx :=
  wokenAs (k.setSreg sd (c.rcv.rbCount ++ c.rcv.rinSealed)) b cycle

/-- R23: the sequence numbers of the seal points whose checkpoints the cores of a list hold, each with its core. -/
def pointsHeld (s : State) (l : List Node) : List (Nat × Nat) :=
  l.filterMap fun n => (if (s.core n).rcv.active then (s.core n).rcv.slot1 else (s.core n).rcv.slot0).map fun k =>
    (location s n, k.sealSeq)

/-- R309: a Dealer that waits at its seal point goes on. -/
def goesOn (d : Dealer) : Dealer := if d.st = .sealpt then { d with st := .running } else d

/-- R343: a ring takes a record and keeps the 64 newest. -/
def Appended (r r' : Ring) (x : McRecord) : Prop :=
  r'.count = r.count + 1 ∧ r'.recs.length ≤ 64 ∧ r'.recs.getLast? = some x
    ∧ (r.recs.length < 64 → r'.recs = r.recs ++ [x])

/-- R23, R343: the record of a machine check that a node detects. -/
structure RecordOf (s : State) (n : Node) (src action detail : Nat) (rin rb : BitVec 32) (seals : List (Nat × Nat))
    (x : McRecord) : Prop where
  cause : x.cause = if src ≤ 2 then 0x10 else 0x11
  src : x.src = BitVec.ofNat 8 src
  action : x.action = BitVec.ofNat 8 action
  loc : x.loc = BitVec.ofNat 32 (location s n)
  interval : x.rin = rin ∧ x.rb = rb
  detail : x.detail = BitVec.ofNat 64 detail
  cycle : x.cycle = BitVec.ofNat 64 (cycleOf s n)
  points : x.seals = seals

/-- R326: a machine check resets the domain instead of rolling it back. -/
def Resets (s : State) (d : Nat) (n : Node) (src detail : Nat) : Prop :=
  src = 6 ∨ src = 5 ∧ bits detail 24 8 = 6
    ∨ unrecoverable s d = true ∧ (s.domain d).phase ≠ .flip ∧ (s.domain d).phase ≠ .change
      ∧ (s.domain d).phase ≠ .release
    ∨ (s.domain d).rolling = true ∧ (s.domain d).restored = false ∧ src = 1 ∧ inRecords (s.core n) detail = true

/-- R325, R327: a core holds what a checkpoint of it says. -/
structure Restored (c : Core) (k : Ckpt) : Prop where
  saved : ∀ x y, k.ctxs.find? (fun p => p.1 == x) = some (x, y) → c.ctx x =
    { y with st := if y.st = .waitSeal then .waitSeal else .ready
             blocked := if y.st = .waitSeal then y.blocked else none
             pending := [], fences := [], reports := [], kick := none, poked := [], stuck := false }
  others : ∀ x, k.ctxs.find? (fun p => p.1 == x) = none → (c.ctx x).st = .free
  armed : ∀ e : Fin 32, c.trg.entries[e].tctl.getLsbD 0 = k.armed.getLsbD e
  trgCtl : c.trg.ctl = k.trgCtl
  sync : c.sync.flags = k.flags ∧ c.sync.k = k.k ∧ c.sync.mb = k.mb ∧ c.sync.bar = k.bar
  comm : c.comm.win = k.win ∧ c.comm.prot = k.prot ∧ c.comm.range = k.range ∧ c.comm.sent = k.sent
  unit : c.mx.w = k.w ∧ c.mx.cfg = k.mxCfg ∧ c.mx.ctab = k.ctab ∧ c.mx.queue = []
  arrived : c.rcv.sealSeq = k.sealSeq ∧ c.rcv.arrival = none
  dropped : c.comm.tracker = [] ∧ c.comm.copies = [] ∧ c.trg.pseudo = [] ∧ c.sync.watch = []
    ∧ (∀ p ∈ c.comm.chans, p.2.queue = [] ∧ p.2.spill = []) ∧ (∀ i : Fin 4, c.comm.nb[i] = none)
    ∧ c.later = [] ∧ c.comm.rangeNext = [] ∧ c.comm.rangeAsk = [] ∧ c.comm.out = []
  log : c.rcv.logFill = 0 ∧ c.mem.logged = [] ∧ c.rcv.logCtl.getLsbD 14 = false ∧ c.rcv.logCtl.getLsbD 15 = false
  traps : c.rcv.traps = [] ∧ c.rcv.trapCause = 0 ∧ c.rcv.trapPc = 0 ∧ c.rcv.trapVal = 0 ∧ c.rcv.trapCtx = 0x700000000

/-- R326: a rollback of the domain has begun. -/
def RollsBack (s : State) (d : Nat) : Prop := (s.domain d).rolling = true ∧ (s.domain d).restored = false

/-- R317: where log record `i` of a core lies. -/
def recordAt (c : Core) (i : Nat) : Nat := c.rcv.logBase.toNat + 0x40000 + 144 * i

/-- R319: the granule that log record `i` of a core names. -/
def recordGranule (c : Core) (i : Nat) : Nat := leNat (laBytes c (recordAt c i + 4) 4)

/-- R90, R317, R319: the log lies in the Shelf, outside every volatile range and spill area, and its records name
granules of scratchpad and Shelf outside it. -/
structure SoundLog (c : Core) : Prop where
  canonical : memWf c.mem.mem = true
  shelf : 0x40000000 ≤ c.rcv.logBase.toNat
  room : 0x40000 + 144 * c.rcv.logFill ≤ c.rcv.logSize.toNat
  apart : (∀ r ∈ c.mem.classes, r.cls = 1 → inLog c r.base r.bytes = false)
    ∧ ∀ p ∈ c.comm.chans, inLog c p.2.spillLa 4096 = false
  granules : ∀ i, i < c.rcv.logFill → (laRange (recordGranule c i) = some .scratch ∧ recordGranule c i + 128 ≤ 0x40000
      ∨ laRange (recordGranule c i) = some .shelf) ∧ inLog c (recordGranule c i) 128 = false

end Sys2Proof.Claims

/-- R322–R325, R328: the seal sequence takes each of its phases in turn. HOLD begins once a seal is wanted and the whole
domain is ready; CHECK goes back to OPEN when it no longer is, and otherwise cleans the caches; CKPT saves each core in
its inactive slot; POINT records the interval in the bridges and saves hubs, Dealers, endpoints and barriers; FLIP makes
the saved state the sealed one. -/
def Sys2Proof.Claims.SealPhases : Prop :=
  (∀ (s : State) (n : Node), coreReady s n = true ↔ QuietCore s n)
    ∧ ∀ (s : State) (d : Nat),
      let x := s.domain d
      (SealMayBegin s d → ∃ t, exec (.sealHold d) s = .next t ∧ Outside [.domains] s t ∧ CoresKept s t
        ∧ OnlyDomain s t d { x with phase := .hold, ingressPause := true })
      ∧ (¬SealMayBegin s d → exec (.sealHold d) s = .next s)
      ∧ (x.phase = .hold → inFlight s d = true → exec (.sealCheck d) s = .next s)
      ∧ (x.phase = .hold → inFlight s d = false → allReady s d = false → ∃ t, exec (.sealCheck d) s = .next t
        ∧ Outside [.domains] s t ∧ CoresKept s t ∧ OnlyDomain s t d { x with phase := .open_ })
      ∧ (x.phase = .hold → inFlight s d = false → allReady s d = true → ∃ t, exec (.sealCheck d) s = .next t
        ∧ Outside [.domains] s t ∧ OnlyDomain s t d { x with phase := .clean }
        ∧ CoresAre s t (domCores s d) fun c =>
            { c with mem := { c.mem with l1 := c.mem.l1.map fun l => { l with dirty := 0 } } })
      ∧ (x.phase = .clean → ∃ t, exec (.sealCkpt d) s = .next t
        ∧ Outside [.domains] s t ∧ OnlyDomain s t d { x with phase := .ckpt }
        ∧ (∀ n, n ∉ domCores s d → t.core n = s.core n)
        ∧ ∀ n ∈ domCores s d, ∃ k, Saved (s.core n) k ∧ t.core n = (if (s.core n).rcv.active
            then { s.core n with rcv := { (s.core n).rcv with slot0 := some k } }
            else { s.core n with rcv := { (s.core n).rcv with slot1 := some k } }))
      ∧ (x.phase = .ckpt → ∃ t, exec (.sealPoint d) s = .next t
        ∧ Outside [.domains, .hubs, .bridges, .modules] s t ∧ CoresKept s t
        ∧ OnlyDomain s t d { x with phase := .flip, wideCkpt := x.wide }
        ∧ (∀ h, h ∉ domHubs s d → t.hub h = s.hub h)
        ∧ (∀ h ∈ domHubs s d, DealerSaved (s.hub h).dealer (t.hub h).dealer.ckpt ∧ t.hub h = { s.hub h with
            barCkpt := (s.hub h).bar, dealer := { (s.hub h).dealer with ckpt := (t.hub h).dealer.ckpt } })
        ∧ (∀ b, b ∉ domBridges s d → t.bridge b = s.bridge b)
        ∧ (∀ b ∈ domBridges s d, t.bridge b = { s.bridge b with
              commits := (t.bridge b).commits, dealer := { (s.bridge b).dealer with ckpt := (t.bridge b).dealer.ckpt } }
          ∧ AMap.find (t.bridge b).commits d = some ((domainRin s d + 1) % 2 ^ 32)
            ∧ (nodeIn s d b = true → DealerSaved (s.bridge b).dealer (t.bridge b).dealer.ckpt))
        ∧ (∀ p ∈ memberSlots s d, p.2 < 32 → ((t.module p.1).slot p.2).epsCkpt
          = ((s.module p.1).slot p.2).eps.map Endpoint.covered)
        ∧ ∀ w, (t.module w).ports = (s.module w).ports)
      ∧ (x.phase = .flip → (domCores s d).Nodup → ∃ t, exec (.sealFlip d) s = .next t
        ∧ Outside [.domains] s t ∧ OnlyDomain s t d { x with phase := .change, req := false }
        ∧ CoresAre s t (domCores s d) flipped)

/-- R89, R324, R330, R357: CHANGE gives each core its new bank mask, moves its log below the new capacity, and takes the
staged writes of the log registers; a RETIRE of a core of the domain that arrived in CHANGE is due at the next seal. -/
def Sys2Proof.Claims.SealChanges : Prop :=
  ∀ (s : State) (d : Nat), (s.domain d).phase = .change → PlainChange s d →
    ∃ t, exec (.sealChange d) s = .next t ∧ Outside [.domains, .draws, .modules] s t
      ∧ (∀ w, t.module w = { s.module w with retireReqs := (t.module w).retireReqs, retireNext := (t.module w).retireNext }
        ∧ ∀ k, (k ∈ (t.module w).retireReqs ↔ k ∈ (s.module w).retireReqs
              ∨ k ∈ (s.module w).retireNext ∧ domainOf s (mkNode w k) = some d)
          ∧ (k ∈ (t.module w).retireNext ↔ k ∈ (s.module w).retireNext ∧ domainOf s (mkNode w k) ≠ some d))
      ∧ OnlyDomain s t d { s.domain d with phase := .release }
      ∧ (∀ n, n ∉ domCores s d → t.core n = s.core n)
      ∧ ∀ n ∈ domCores s d, noSpans (t.core n) = changed (s.core n)
          ∧ ((s.core n).mem.bankNext = (s.core n).mem.bankLive → (t.core n).mem.undef = (s.core n).mem.undef)

/-- R103, R309, R324, R332: RELEASE opens the domain again: arrivals are cleared, a `seal.wait` gives its context the
rollback count and the sealed interval, Dealers at a seal point go on, and code caches are empty. -/
def Sys2Proof.Claims.SealReleases : Prop :=
  ∀ (s : State) (d : Nat), (s.domain d).phase = .release → (s.domain d).wantFreeze = none →
    ∃ t, exec (.sealRelease d) s = .next t ∧ Outside [.domains, .hubs, .bridges, .modules] s t
      ∧ OnlyDomain s t d { s.domain d with phase := .open_, ingressPause := false }
      ∧ (∀ h, t.hub h = if h ∈ domHubs s d then { s.hub h with dealer := goesOn (s.hub h).dealer } else s.hub h)
      ∧ (∀ b, t.bridge b = if b ∈ domBridges s d ∧ nodeIn s d b = true
          then { s.bridge b with dealer := goesOn (s.bridge b).dealer } else s.bridge b)
      ∧ (∀ n, n ∉ domCores s d → t.core n = s.core n)
      ∧ ∀ n ∈ domCores s d,
          let c := s.core n
          (c.rcv.arrival = none → t.core n = released c)
          ∧ ∀ x b, c.rcv.arrival = some x → (c.ctx x).blocked = some b → (c.ctx x).st = .waitSeal →
            (∀ sd, b.instr = .sealWait sd → (c.ctx x).reports = [] → ∃ e, e ≤ 2 ∧
              t.core n = ((released c).setCtx x (sealWaitDone c (c.ctx x) sd b (cycleOf s n + e))).refreshWatch)
            ∧ (∀ sd st, b.instr = .egrNow sd st → t.core n = released c)

/-- R326, R331, R342, R343, R372: a machine check that affects no domain goes into the module's own ring and tells both
ports. One that affects a domain goes into the ring of each of its slots and tells their owners, and the domain begins
a rollback; where R326 says so it is reset: its regions are stopped and unloaded. In CHANGE, some of the six operations have
finished, and where the next one changes the banks or the site of the core, it fails, and the core is to be retired. Where
the place of a failed link or DRAM sector decides, the domains that it carries are affected and some of those that it may
carry, and an optical link goes down at both ends. The context of a core in service mode that meets a memory fault stays
blocked. That a record without a domain has 0 for RIN and RB_COUNT is the model's choice (log 116), and so is the place of
the seal points that a rollback's record names (log 105). -/
def Sys2Proof.Claims.MachineChecks : Prop :=
  ∀ (s : State) (n : Node) (src : Fin 7) (detail : Nat),
    let i := Instr.machineCheck n src detail
    let w := nodeWafer n
    let stops : Prop := src.val ≤ 2 ∧ (isCore n = true ∨ isSite n = true) ∧ (s.ctx n 0).st ≠ .free
    (openDomains s n src detail = none → affected s n = [] → ∃ t r, exec i s = .next t ∧ Outside [.modules] s t
      ∧ (¬stops → CoresKept s t)
      ∧ (stops → KeptAt n 0 [.own, .later, .modules] s t ∧ t.ctx n 0 = { s.ctx n 0 with stuck := true }
        ∧ (t.core n).later = (s.core n).later.filter fun l => l.ctx != 0 || !l.isLoad)
      ∧ RecordOf s n src 4 detail 0 0 [] r ∧ Appended (s.module w).ring (t.module w).ring r
      ∧ OnlyModule s t w { s.module w with ring := (t.module w).ring, msix := (2, 32) :: (1, 32) :: (s.module w).msix })
    ∧ (∀ d, openDomains s n src detail = none → affected s n = [d] →
      let c := (s.core ((domCores s d).headD 0)).rcv
      (¬Resets s d n src detail → (memberSlots s d).Nodup → (s.domain d).phase ≠ .change →
        ∃ t r, exec i s = .next t ∧ Outside [.domains, .modules] s t
        ∧ RecordOf s n src (if (s.domain d).frozen then 2 else 0) detail c.rin (c.rbCount + 1) (pointsHeld t (domCores s d)) r
        ∧ (∀ p ∈ memberSlots s d, p.2 < 32 ∧ Appended ((s.module p.1).slot p.2).ring ((t.module p.1).slot p.2).ring r
          ∧ (((s.module p.1).slot p.2).owner, 32) ∈ (t.module p.1).msix)
        ∧ (∀ e, e ≠ d → t.domain e = s.domain e) ∧ RollsBack t d ∧ (t.domain d).phase = .open_
        ∧ ((s.domain d).phase ≠ .flip → CoresKept s t)
        ∧ ((s.domain d).phase = .flip → (domCores s d).Nodup → CoresAre s t (domCores s d) flipped))
      ∧ (¬Resets s d n src detail → (s.domain d).phase = .change →
        ∃ t k, exec i s = .next t ∧ Outside [.domains, .modules, .draws] s t ∧ RollsBack t d
          ∧ k ≤ 6 ∧ (t.domain d).finished = k
          ∧ (t.domain d).failed = (s.domain d).failed ++ (if changeAt s d n k then [n] else [])
          ∧ CoresAre s t (if k = 0 ∧ changeAt s d n 0 = true then [n] else [])
              fun k => { k with mem := { k.mem with bankNext := k.mem.bankLive } })
      ∧ (Resets s d n src detail → ∃ t, exec i s = .next t ∧ AMap.find t.domains d = none
        ∧ (∀ p ∈ memberSlots s d, ((t.module p.1).slot p.2).st = .unloaded ∧ ((t.module p.1).slot p.2).image = none)
        ∧ ∀ c ∈ domCores s d, ∀ x, (t.ctx c x).st = .free))
    ∧ ∀ ds may, openDomains s n src detail = some (ds, may) → ∃ l, (∀ d ∈ ds, d ∈ l) ∧ (∀ d ∈ l, d ∈ ds ∨ d ∈ may)
        ∧ exec i s = .next (machineCheckOf (failLink (drawn s) n src detail) l n src detail)
        ∧ (isBridge n = true → src = 3 ∨ src = 4 →
            (vget ((failLink (drawn s) n src detail).bridge n).ports {} (detail % 4)).up = false
            ∧ ∀ b, (vget (s.bridge n).ports {} (detail % 4)).up = true → farEnd s n (detail % 4) = some b →
              (vget ((failLink (drawn s) n src detail).bridge b).ports {} (detail % 4)).up = false)

/-- R298, R372: a Deck fault halts its Dealer with the fault's cause and place, disarms every entry that the Dealer
armed, and machine-checks the domains that it serves with `DK_STS` as its detail. -/
def Sys2Proof.Claims.DeckFaults : Prop :=
  ∀ (s : State) (n : Node) (cause : Nat) (pc : Nat),
    let d := s.dealer n
    let t := deckFault s n cause pc
    isHub n = true ∨ isBridge n = true → d.kicks.length ≤ 2 → cause < 8 → pc < 8192 →
      (affected s n = [] → DealerIs s t n { d with
          st := .halted, cause := BitVec.ofNat 8 cause, faultPc := pc, engine := [] })
      ∧ ∀ e, affected s n = [e] → cause ≠ 6 → unrecoverable s e = false →
        DealerIs s t n { d with st := .halted, cause := BitVec.ofNat 8 cause, faultPc := pc, engine := [] }
          ∧ RollsBack t e
          ∧ (∀ c ∈ servedCores s n, ∀ k : Fin 8,
              let w := (s.core c).comm.range[k]
              let own : Prop := w.getLsbD 31 = true ∧ OwnedBy n w
              (own → (t.core c).comm.range[k] = 0) ∧ (¬own → (t.core c).comm.range[k] = w)
                ∧ ∀ p ∈ (t.core c).comm.rangeNext, ¬(p.2.getLsbD 31 = true ∧ OwnedBy n p.2))
          ∧ ∀ p ∈ memberSlots s e, (memberSlots s e).Nodup → ∃ r, ((t.module p.1).slot p.2).ring.recs.getLast? = some r
              ∧ r.src = 5
              ∧ r.detail = BitVec.ofNat 64 (4 + d.kicks.length * 2 ^ 8 + cause * 2 ^ 24 + pc * 2 ^ 32)

/-- R310, R325, R327, R331, R335: a rollback drops what is in flight in the domain and its queues, puts every core back to
its sealed checkpoint and empties its log, and puts the hubs' barriers and the Dealers back to theirs. After a check in
CHANGE the operations that had finished stand, in their order, and a core whose operation failed is retired. -/
def Sys2Proof.Claims.Rollbacks : Prop :=
  (∀ (s : State) (d : Nat) (n : Node), RollsBack s d → n ∈ (s.domain d).failed → ∃ t, exec (.rollback d) s = .next t
      ∧ nodeNum n ∈ (t.module (nodeWafer n)).retiredCores ∧ (t.domain d).failed = [] ∧ (t.domain d).finished = 0)
    ∧ (∀ (s : State) (d k : Nat), RollsBack s d → (s.domain d).failed = [] → (s.domain d).finished = k → 0 < k →
      let began := s.modDomain d fun x => { x with finished := 0 }
      let ops := [changeCores, changeRetired, changeColumns, changeRegions, changeWide, changeLogs]
      exec (.rollback d) s = exec (.rollback d) (stopWithdrawn ((ops.take k).foldl (fun u f => f u d) began) d))
    ∧ ∀ (s : State) (d : Nat), RollsBack s d → (s.domain d).failed = [] → (s.domain d).finished = 0 →
      (domCores s d).Nodup → (domHubs s d).Nodup →
    ∃ t, exec (.rollback d) s = .next t
      ∧ Outside [.domains, .hubs, .bridges, .modules, .net, .lots, .draws] s t
      ∧ OnlyDomain s t d { s.domain d with
          wide := (s.domain d).wideCkpt, req := false, ingressPause := false, restored := true }
      ∧ t.net = s.net.filter (fun m => !discarded s d m)
      ∧ (∀ n, n ∉ domCores s d → t.core n = s.core n)
      ∧ (∀ n ∈ domCores s d, ∀ k, (if (s.core n).rcv.active then (s.core n).rcv.slot1 else (s.core n).rcv.slot0) = some k →
        Restored (t.core n) k ∧ (t.core n).rcv.rin = (s.core n).rcv.rin
          ∧ (t.core n).rcv.rbCount = (s.core n).rcv.rbCount ∧ (t.core n).rcv.trapVec = (s.core n).rcv.trapVec)
      ∧ ∀ h ∈ domHubs s d, (t.hub h).bar = (s.hub h).barCkpt ∧ (t.hub h).dealer.engine = []
          ∧ (t.hub h).dealer.held = []
          ∧ ∀ k, (s.hub h).dealer.ckpt = some k → DealerSaved (t.hub h).dealer (some k)

/-- R319, R320, R327: UNDO writes the log's records back, newest first, so that the granule of the oldest record that
names it holds what it held when the interval began; an empty log writes nothing. -/
def Obligations.UndoRestores : Prop :=
  ∀ (s : State) (d : Nat) (n : Node) (k : Ckpt), RollsBack s d → (s.domain d).failed = [] → (s.domain d).finished = 0 →
    (domCores s d).Nodup → n ∈ domCores s d →
    (if (s.core n).rcv.active then (s.core n).rcv.slot1 else (s.core n).rcv.slot0) = some k → SoundLog (s.core n) →
      k.wf → ∃ t, exec (.rollback d) s = .next t
        ∧ (∀ i, i < (s.core n).rcv.logFill → (∀ j, j < i →
            overlaps (recordGranule (s.core n) j) 128 (recordGranule (s.core n) i) 128 = false) →
          laBytes (t.core n) (recordGranule (s.core n) i) 128 = laBytes (s.core n) (recordAt (s.core n) i + 16) 128)
        ∧ ∀ a, laRange a = some .scratch ∨ laRange a = some .shelf → inLog (s.core n) a 1 = false →
            (∀ r ∈ (s.core n).mem.classes, r.cls = 1 → inRange a r.base r.bytes = false) →
            (∀ p ∈ (s.core n).comm.chans, inRange a p.2.spillLa 4096 = false) →
            (∀ i, i < (s.core n).rcv.logFill → inRange a (recordGranule (s.core n) i) 128 = false) →
            laByte (t.core n) a = laByte (s.core n) a

/-- R309, R327, R332: RESUME counts the rollback in every core, clears its arrival, ends the waits for the seal that its
contexts held, and lets the domain run. A barrier at which no core arrives begins again (log 50). -/
def Sys2Proof.Claims.Resumes : Prop :=
  ∀ (s : State) (d : Nat), (s.domain d).rolling = true → (s.domain d).restored = true → (domCores s d).Nodup →
    (s.domain d).wantFreeze = none → (∀ p ∈ memberSlots s d, ((s.module p.1).slot p.2).wakes = false) →
    (∀ n ∈ domCores s d, ∀ x, (s.ctx n x).reports = []) →
    ∃ t, exec (.rollbackResume d) s = .next t ∧ Outside [.domains, .hubs, .bridges, .net, .names] s t
      ∧ (∃ l, t.net = s.net ++ l ∧ ∀ m ∈ l, (∃ h b p cp, m.kind = .relHub h b p cp) ∨ ∃ e b w i p cp, m.kind = .wide e b w i p cp)
      ∧ ((∀ p ∈ launchedSlots s d, ∀ b, b < 15 → ∀ h ∈ slotHubs s p.1 p.2,
          (s.hub h).barUsed.getLsbD b = true → silentRoot s h b = false) → t.net = s.net ∧ t.nextId = s.nextId)
      ∧ OnlyDomain s t d { s.domain d with rolling := false, restored := false }
      ∧ (∀ n, n ∉ domCores s d → t.core n = s.core n)
      ∧ (∀ h, t.hub h = if h ∈ domHubs s d then { s.hub h with dealer := goesOn (s.hub h).dealer } else s.hub h)
      ∧ ∀ n ∈ domCores s d,
          let c := s.core n
          let r := { c.rcv with rbCount := c.rcv.rbCount + 1, arrival := none }
          t.core n = { c with
              ctxs := (t.core n).ctxs, rcv := r, mem := { c.mem with lineHist := [], icache := [] }
              sync := { c.sync with watch := (t.core n).sync.watch } }
            ∧ ∀ x : Fin 8,
              let k := s.ctx n x
              (∀ sd b, x ≠ 7 → k.st = .waitSeal → k.blocked = some b → b.instr = .sealWait sd →
                ∃ e, e ≤ 2 ∧ t.ctx n x = sealWaitDone { c with rcv := r } k sd b (cycleOf s n + e))
              ∧ (x = 7 ∨ k.st ≠ .waitSeal ∨ (∀ b sd, k.blocked = some b → b.instr ≠ .sealWait sd) → t.ctx n x = k)

/-- R187, R345: a debug freeze takes hold of a domain that is not past CHECK: its queues spill, and its reason is kept;
past CHECK it waits for RELEASE, and a frozen domain does not change. -/
def Sys2Proof.Claims.DebugFreezes : Prop :=
  ∀ (s : State) (d : Nat) (r : BitVec 32),
    let x := s.domain d
    (x.frozen = true → exec (.debugFreeze d r) s = .next s)
      ∧ (x.frozen = false → x.phase.pastCheck = true → ∃ t, exec (.debugFreeze d r) s = .next t
        ∧ Outside [.domains] s t ∧ CoresKept s t ∧ OnlyDomain s t d { x with wantFreeze := some r })
      ∧ (x.frozen = false → x.phase.pastCheck = false → ∃ t, exec (.debugFreeze d r) s = .next t
        ∧ Outside [.domains, .modules] s t
        ∧ OnlyDomain s t d { x with frozen := true, reason := r, wantFreeze := none, phase := .open_ }
        ∧ (∀ n, n ∉ domCores s d → t.core n = s.core n)
        ∧ ∀ n ∈ domCores s d, (∀ y, KeptAt n y [.chans, .bytes, .otherCores, .modules, .domains] s t)
            ∧ (((s.core n).comm.chans.map (·.1)).Nodup → ∀ c q, AMap.find (s.core n).comm.chans c = some q →
                AMap.find (t.core n).comm.chans c
                  = some (if q.queue = [] then q else { q with spill := q.spill ++ q.queue, queue := [] })))

/-- R89, R103, R309, R322–R325, R328, R330, R332, R357: a seal, from its hold to its release. -/
def Obligations.SealSequence : Prop :=
  Sys2Proof.Claims.SealPhases
    ∧ Sys2Proof.Claims.SealChanges
    ∧ Sys2Proof.Claims.SealReleases

/-- R187, R298, R309, R310, R325–R327, R331, R332, R335, R342, R343, R345, R372: machine checks, rollbacks, resumption
and debug freezes. -/
def Obligations.Recovery : Prop :=
  Sys2Proof.Claims.MachineChecks
    ∧ Sys2Proof.Claims.DeckFaults
    ∧ Sys2Proof.Claims.Rollbacks
    ∧ Sys2Proof.Claims.Resumes
    ∧ Sys2Proof.Claims.DebugFreezes


/-! ### Power, service phases and the host -/

namespace Sys2Proof.Claims

/-- R348: a field of THERM_CFG. -/
def thermField (h : Hub) (lo : Nat) : Nat := (h.thermCfg.extractLsb' lo 8).toNat

/-- R349: a trip after a sample: on at its temperature, off below it less the hysteresis, and between them as before. -/
def trips (on : Bool) (temp trip hyst : Nat) : Bool := decide (trip ≤ temp) || on && decide (trip ≤ temp + hyst)

/-- R206: the hub of a cluster. -/
def hubNode (w cl : Nat) : Node := mkNode w (0xF000 + cl)

/-- R7, R362: what a module keeps through power-off. -/
def unpowered (m : Module) (host : Vector Port 2) : Module :=
  { fuseDead := m.fuseDead, retired := m.retired, fuseBanks := m.fuseBanks, fieldRet := m.fieldRet, serial := m.serial
    fwDigest := m.fwDigest, keyIndex := m.keyIndex, msix := m.msix, ports := host }

/-- Everything volatile of the nodes of a wafer is gone; where no link leads to it, nothing of other wafers changes. -/
structure Emptied (s t : State) (w : Nat) : Prop where
  here : ∀ n, nodeWafer n = w → t.core n = {} ∧ t.hub n = {} ∧ t.bridge n = {}
  elsewhere : ∀ n, nodeWafer n ≠ w → t.core n = s.core n ∧ t.hub n = s.hub n ∧ t.bridge n = s.bridge n
  ports : ∀ p : Fin 2, (t.module w).ports[p] =
    { hostMem := ((s.module w).ports[p]).hostMem, unreadable := ((s.module w).ports[p]).unreadable }
  others : ∀ v, v ≠ w → t.module v = s.module v

/-- R206: the bridge controller may prepare a window. -/
structure MayBringUp (s : State) (w : Nat) (px py width height : Nat) : Prop where
  present : (s.module w).present = true
  shape : px % 33 = 0 ∧ px < 264 ∧ width = 33 ∧ py % 8 = 0 ∧ height % 8 = 0 ∧ 0 < height ∧ py + height ≤ 240
  idle : (s.module w).phase = none
  unloaded : windowLoaded s w (px / 33) py height = false
  unchanged : ∀ i ∈ changedSegs (s.module w) (rmapOf (s.module w)), ∀ cl ∈ segClusters i,
    slotOf s (hubNode w cl) = none

/-- R82: the entry that a segment has once the written ones apply. -/
def entryNow (m : Module) (i : Nat) : BitVec 32 := (AMap.find m.rmapWritten i).getD (rmapEntry m i)

/-- R66: the port of a module whose command ends with a code. -/
def PortEnds (s t : State) (w p code : Nat) : Prop :=
  1 ≤ p → p ≤ 2 → ((t.module w).port p).busy = false ∧ ((t.module w).port p).code = BitVec.ofNat 8 code
    ∧ ((t.module w).port p).running = none ∧ ((t.module w).port p).args = ((s.module w).port p).args
    ∧ (p, 0) ∈ (t.module w).msix

/-- R61–R65, R67, R354, R370: the checks that come before those of a command itself. -/
structure Accepted (s : State) (w p op slot : Nat) : Prop where
  present : (s.module w).present = true
  idle : ((s.module w).port p).busy = false
  listed : opOk op slot = true
  holds : holdsSem s w p (opSem op slot) = true
  manned : orphanBars s w op slot = false

/-- R66, R370: a command of port `p` ends with a code: BUSY is clear, the port latched `CMD_OP`, MSI-X vector 0 is
sent; the other port, the other modules and everything outside the modules stay. -/
structure CmdEnds (s t : State) (w p op slot code : Nat) : Prop where
  own : (t.module w).port p = { (s.module w).port p with
    cmdOp := BitVec.ofNat 32 (op + slot * 2 ^ 8 + 2 ^ 31), busy := false, code := BitVec.ofNat 8 code, running := none
    hostMem := ((t.module w).port p).hostMem }
  other : (t.module w).port (3 - p) = (s.module w).port (3 - p)
  msix : (t.module w).msix = (p, 0) :: (s.module w).msix
  modules : ∀ v, v ≠ w → t.module v = s.module v

/-- R370: a command that a check refuses changes nothing but its port. -/
def Refused (s : State) (i : Instr) (w p op slot code : Nat) : Prop :=
  ∃ t, exec i s = .next t ∧ Outside [.modules] s t ∧ CoresKept s t ∧ CmdEnds s t w p op slot code
    ∧ ((t.module w).port p).hostMem = ((s.module w).port p).hostMem
    ∧ t.module w = { s.module w with ports := (t.module w).ports, msix := (t.module w).msix }

/-- R64: the lease of a slot's semaphore restarts; the other semaphores stay. -/
def LeaseRestarts (s t : State) (w slot : Nat) : Prop :=
  ∀ n, (t.module w).sem n = if n = slot + 2 ∧ n < 32 then { (s.module w).sem n with expires := leaseEnd s w }
    else (s.module w).sem n

/-- The slot `k` of a module becomes `x`, and no other slot of it changes. -/
def OnlySlot (s t : State) (w k : Nat) (x : Slot) : Prop :=
  ∀ j, j < 32 → (t.module w).slot j = if j = k then x else (s.module w).slot j

/-- R67, R74: a command on a slot takes effect: the slot becomes `x`, its lease restarts, and nothing else changes but
the ports. -/
def SlotTakes (s : State) (i : Instr) (w p op slot : Nat) (x : Slot) : Prop :=
  ∃ t, exec i s = .next t ∧ Outside [.modules] s t ∧ CoresKept s t ∧ CmdEnds s t w p op slot 0
    ∧ ((t.module w).port p).hostMem = ((s.module w).port p).hostMem
    ∧ LeaseRestarts s t w slot ∧ OnlySlot s t w slot x
    ∧ t.module w = { s.module w with
        ports := (t.module w).ports, msix := (t.module w).msix, hsem := (t.module w).hsem, slots := (t.module w).slots }

/-- R66: a command goes on, with BUSY set. -/
def StillRuns (s t : State) (w p op slot : Nat) : Prop :=
  (t.module w).port p = { (s.module w).port p with
    cmdOp := BitVec.ofNat 32 (op + slot * 2 ^ 8 + 2 ^ 31), busy := true
    running := some { op := op, slot := slot, args := ((s.module w).port p).args, since := s.now } }

/-- An argument of a port. -/
def argOf (s : State) (w p i : Nat) : Nat := (((s.module w).port p).args[i]?.getD 0).toNat

/-- R66: a command writes bytes into the memory of its host and ends with code 0; besides, `m` is its module. -/
def Delivers (s t : State) (w p op slot a : Nat) (bs : List Byte) : Prop :=
  CmdEnds s t w p op slot 0 ∧ (memWf ((s.module w).port p).hostMem = true →
    hostRead t w p a bs.length = bs
      ∧ ∀ b n, overlaps b n a bs.length = false → hostRead t w p b n = hostRead s w p b n)

end Sys2Proof.Claims

/-- R349, R367: the clock of a cluster is stretched: THROT_ON is set, and the cluster has power good. -/
def Sys2Proof.Claims.stretching (h : Hub) : Bool := h.thermSts.getLsbD 9 && h.power == .good

/-- R366, R367, R348: a freed inrush token goes to the oldest request, whose cluster begins its ramp; power good ends the
ramp, and a THROTTLE that tripped in it stretches the cluster's cycles from then on, with `CYCLE` as it stands; a ramp of 2^20 cycles without it withdraws the cluster and returns its token. -/
def Sys2Proof.Claims.InrushTokens : Prop :=
  ∀ (s : State) (w : Fin 16) (cl : Nat),
    let h := hubNode w cl
    (∀ c rest, (s.module w).inrush = c :: rest →
      (tokensHeld s w < 16 → ∃ t, exec (.inrushTokenGrant w) s = .next t ∧ Outside [.hubs, .modules] s t ∧ CoresKept s t
        ∧ OnlyModule s t w { s.module w with inrush := rest }
        ∧ OnlyHub s t (hubNode w c) { s.hub (hubNode w c) with power := .ramping s.now })
      ∧ (16 ≤ tokensHeld s w → exec (.inrushTokenGrant w) s = .next s))
    ∧ ((s.module w).inrush = [] → exec (.inrushTokenGrant w) s = .next s)
    ∧ ∀ since, cl < 960 → (s.hub h).power = .ramping since →
      ((s.hub h).thermSts.getLsbD 9 = false → ∃ t, exec (.powerGood w cl) s = .next t ∧ Outside [.hubs] s t
        ∧ CoresKept s t ∧ OnlyHub s t h { s.hub h with power := .good })
      ∧ ((s.hub h).thermSts.getLsbD 9 = true → ∃ t, exec (.powerGood w cl) s = .next t ∧ Outside [.hubs] s t
        ∧ OnlyHub s t h { s.hub h with power := .good, stretchAt := s.now, thermSts := (t.hub h).thermSts }
        ∧ (t.hub h).thermSts.extractLsb' 32 32 = (s.hub h).thermSts.extractLsb' 32 32
        ∧ (t.hub h).thermSts.extractLsb' 0 11 = (s.hub h).thermSts.extractLsb' 0 11
        ∧ (∀ q ∈ clusterCores w cl, cycleOf t q = cycleOf s q)
        ∧ ∀ q, t.core q = { s.core q with cycBase := (t.core q).cycBase, cycAt := (t.core q).cycAt })
      ∧ (s.now < since + 2 ^ 20 → exec (.inrushTimeout w cl) s = .next s)
      ∧ (since + 2 ^ 20 ≤ s.now → ∃ t, exec (.inrushTimeout w cl) s = .next t ∧ Outside [.hubs, .modules] s t
        ∧ CoresKept s t ∧ OnlyHub s t h { s.hub h with power := .off }
        ∧ OnlyModule s t w { s.module w with withdrawn := (t.module w).withdrawn }
        ∧ ∀ c, c ∈ (t.module w).withdrawn ↔ c = cl ∨ c ∈ (s.module w).withdrawn)

/-- R7, R76, R362, R364, R366: a module that loses power keeps its fuses, its retirement record and its key indices, and
everything volatile is gone, and each optical link to it goes down at its other end; at power-on reset it is present,
and its 960 clusters queue for wake. -/
def Sys2Proof.Claims.PowerCycles : Prop :=
  ∀ (s : State) (w : Fin 16),
    let alone : Prop := (s.module w).present = true → linksTo s w = []
    let clears (i : Instr) (x : Module → Module) : Prop := ∃ t, exec i s = .next t
      ∧ (∀ n, nodeWafer n = w.val → t.core n = {} ∧ t.hub n = {} ∧ t.bridge n = {})
      ∧ ((s.module w).present = true → ∀ l ∈ linksTo s w, ∀ q : Fin 4, q.val = l.2 → ((t.bridge l.1).ports[q]).up = false)
      ∧ (alone → Emptied s t w ∧ Outside [.hubs, .bridges, .modules, .net, .lots] s t
        ∧ t.module w = x (unpowered (s.module w) (t.module w).ports))
    (∀ l, l ∈ linksTo s w ↔ nodeWafer l.1 ≠ w.val ∧ ∃ q : Fin 4, q.val = l.2 ∧ ∃ b ∈ s.bridges, b.1 = l.1
        ∧ (b.2.ports[q]).up = true ∧ ((b.2.ports[q]).entry.extractLsb' 16 4).toNat = (s.module w).wafer)
    ∧ ((s.module w).present = true → clears (.powerLoss w) id)
    ∧ clears (.powerOnReset w) fun m => { m with present := true, since := s.now, inrush := List.range 960 }

/-- R1, R348, R349: a sample of a cluster's sensor sets TEMP and the trips, and STRETCH counts half of the cycles that
passed throttled. `CYCLE` goes on from its value. A new ADVISE trip tells the slot's owner, or both ports, and leaves
`E_THERM_ADV` pending in each core that asks for it, once; a SHUTDOWN trip powers the cluster down and resets its
domain. -/
def Sys2Proof.Claims.ThermalTrips : Prop :=
  ∀ (s : State) (w : Fin 16) (cl : Nat) (temp : BitVec 8), (s.module w).present = true → cl < 960 →
    let n := hubNode w cl
    let h := s.hub n
    let sts := h.thermSts
    let hyst := thermField h 32
    let adv := trips (sts.getLsbD 8) temp.toNat (thermField h 8) hyst
    let throt := trips (sts.getLsbD 9) temp.toNat (thermField h 16) hyst
    let i := Instr.thermalSample w cl temp
    let half (at_ : Nat) : Nat := if Sys2Proof.Claims.stretching h then s.now - (s.now - at_) % 2 else s.now
    (temp.toNat < thermField h 24 ∨ h.power = .shut → ∃ t, exec i s = .next t ∧ Outside [.hubs, .modules] s t
      ∧ OnlyHub s t n { h with thermSts := (t.hub n).thermSts, stretchAt := half h.stretchAt }
      ∧ (let u := (t.hub n).thermSts
         u.extractLsb' 0 8 = temp ∧ u.getLsbD 8 = adv ∧ u.getLsbD 9 = throt ∧ u.getLsbD 10 = (sts.getLsbD 10 || thermField h 24 ≤ temp.toNat)
          ∧ u.extractLsb' 32 32 = sts.extractLsb' 32 32
              + BitVec.ofNat 32 (if Sys2Proof.Claims.stretching h then (s.now - h.stretchAt) / 2 else 0))
      ∧ (∀ q ∈ clusterCores w cl, cycleOf s q ≤ cycleOf t q ∧ cycleOf t q ≤ cycleOf s q + 1
          ∧ ((sts.getLsbD 9 = true → throt = true) → cycleOf t q = cycleOf s q))
      ∧ (∀ q, q ≠ n → q ∉ clusterCores w cl → t.core q = s.core q)
      ∧ (∀ q, t.core q = { s.core q with cycBase := (t.core q).cycBase, cycAt := (t.core q).cycAt
                                         rcv := { (s.core q).rcv with traps := (t.core q).rcv.traps } })
      ∧ (adv = false ∨ sts.getLsbD 8 = true →
          (∀ v, t.module v = s.module v) ∧ ∀ q, (t.core q).rcv.traps = (s.core q).rcv.traps)
      ∧ (adv = true → sts.getLsbD 8 = false →
        (∀ q ∈ clusterCores w cl, (t.core q).rcv.traps = (s.core q).rcv.traps ++
          if (s.core q).rcv.trapVec.getLsbD 33 = true ∧ ∀ p ∈ (s.core q).rcv.traps, p.code ≠ 0x12 then
            [{ code := 0x12, reported := false, orphan := false, pc := 0
               val := BitVec.ofNat 64 (temp.toNat + cl * 2 ^ 16), rpc := 0, ctx := none, stamp := cycleOf t q }]
          else [])
        ∧ (∀ q, q ∉ clusterCores w cl → (t.core q).rcv.traps = (s.core q).rcv.traps)
        ∧ OnlyModule s t w { s.module w with msix := (match slotOf s n with
            | some k => [(((s.module w).slot k).owner, 33)]
            | none => [(2, 33), (1, 33)]) ++ (s.module w).msix }))
    ∧ (thermField h 24 ≤ temp.toNat → h.power ≠ .shut → ∃ t, exec i s = .next t
      ∧ (t.hub n).power = .shut ∧ (t.hub n).thermSts.getLsbD 10 = true
      ∧ (∀ q ∈ clusterCores w cl, ∀ x, (t.ctx q x).st = .free)
      ∧ ∀ d, domainOf s n = some d → AMap.find t.domains d = none)

/-- R368: after low coolant flow every cluster of the module is shut down, and SHUT_HIT is set in each. -/
def Sys2Proof.Claims.CoolantShutsDown : Prop :=
  ∀ (s : State) (w : Fin 16), (s.module w).present = true →
    ∃ t, exec (.coolantFlowLow w) s = .next t ∧ Outside [.hubs, .bridges, .modules, .domains, .net] s t
      ∧ ∀ cl, cl < 960 → (t.hub (hubNode w cl)).power = .shut
        ∧ (t.hub (hubNode w cl)).thermSts.getLsbD 10 = true
        ∧ ((s.hub (hubNode w cl)).power ≠ .shut →
          (∀ q ∈ clusterCores w cl, ∀ x, (t.ctx q x).st = .free)
          ∧ ∀ d, domainOf s (hubNode w cl) = some d → AMap.find t.domains d = none)

/-- R76–R83: under the repair map of R83 every available logical core is served by a live site of its own. -/
def Obligations.RepairMapServes : Prop :=
  ∀ (m : Module) (x y x' y' : Nat), m.rmap = rmapOf m → x < 256 → y < 240 → x' < 256 → y' < 240 →
    rmapAvail (rmapEntry m (y * 8 + x / 32)) = true →
      (let p := siteOfXY m x y
       p.1 < 264 ∧ p.2 < 240 ∧ siteDead m p.1 p.2 = false)
      ∧ (rmapAvail (rmapEntry m (y' * 8 + x' / 32)) = true → siteOfXY m x y = siteOfXY m x' y' → x = x' ∧ y = y')

/-- R206, R209–R211, R356: a window that may be prepared gets its mapping phase, with every live site at the service
program's first head, or where that cannot run the map of R83 directly. A phase that is done in time applies its map,
with the entries elsewhere that R83 changes, or goes on with LOAD; one that takes 2^26 cycles fails. -/
def Sys2Proof.Claims.ServicePhases : Prop :=
  ∀ (s : State) (w : Fin 16) (px py width height : Nat) (slot : Fin 32),
    let m := s.module w
    let fx := px / 33
    let up := Instr.windowBringUp w px py width height
    (¬MayBringUp s w px py width height → exec up s = .next s)
    ∧ (MayBringUp s w px py width height → mappable m fx py height = true → ∃ t p, exec up s = .next t
      ∧ Outside [.modules] s t ∧ OnlyModule s t w { m with phase := some p }
      ∧ p.delivery = false ∧ p.port = 0 ∧ p.px0 = px ∧ p.py0 = py ∧ p.width = 33 ∧ p.height = height
      ∧ p.started = s.now ∧ p.sites = (liveSites m fx py height).map (fun q => siteNode w q.1 q.2)
      ∧ (∀ n, n ∉ p.sites → t.core n = s.core n)
      ∧ ∀ q ∈ liveSites m fx py height, ∀ n, n = siteNode w q.1 q.2 →
          (t.ctx n 0).st = .ready ∧ (t.ctx n 0).pc = 0x41800002 ∧ (t.ctx n 0).sts = 0x10
            ∧ (t.ctx n 0).sreg 1 = BitVec.ofNat 64 (q.1 + q.2 * 2 ^ 16)
            ∧ (t.ctx n 0).sreg 2 = BitVec.ofNat 64 (px + py * 2 ^ 16)
            ∧ BytesAt t n 0x41800000 svcProgram)
    ∧ (MayBringUp s w px py width height → mappable m fx py height = false → ∃ t, exec up s = .next t
      ∧ Outside [.modules] s t ∧ (t.module w).phase = none
      ∧ (∀ i, i < 1920 → rmapEntry (t.module w) i = (AMap.find (rmapOf m) i).getD rmapReset)
      ∧ ∀ n, t.core n = { s.core n with mem := { (s.core n).mem with
          bankLive := (t.core n).mem.bankLive, bankNext := (t.core n).mem.bankNext } })
    ∧ (∀ p, m.phase = some p →
      let segs := windowSegs (p.px0 / 33) p.py0 p.height
      let late : Prop := p.started + 2 ^ 26 ≤ s.now
      (phaseDone s p = false ∨ late → exec (.servicePhaseEnd w) s = .next s)
      ∧ (¬late → exec (.mappingTimeout w) s = .next s ∧ exec (.codeDeliveryTimeout w slot) s = .next s)
      ∧ (p.delivery = false → phaseDone s p = true → ¬late → mapValid (entryNow m) segs = true →
        (m.rmap.map (·.1)).Pairwise (· < ·) →
        ∃ t, exec (.servicePhaseEnd w) s = .next t ∧ (t.module w).phase = none ∧ PortEnds s t w p.port 0
          ∧ (∀ i, rmapEntry (t.module w) i = if i ∈ segs then entryNow m i
              else (AMap.find (rmapOf m) i).getD (rmapEntry m i))
          ∧ (∀ n ∈ p.sites, AMap.find t.cores n = none)
          ∧ ∀ i ∈ segs, ∀ n ∈ segCores w i, n ∉ p.sites → coreAvailable (t.module w) (nodeNum n) = true →
              let q := siteOf t n
              t.core n = (s.core (siteNode w q.1 q.2)).leaveService.emptied)
      ∧ (p.delivery = false → (m.rmap.map (·.1)).Pairwise (· < ·) →
        let withdrawn (i : Instr) : Prop := ∃ t, exec i s = .next t ∧ (t.module w).phase = none ∧ PortEnds s t w p.port 0
          ∧ (∀ i, rmapEntry (t.module w) i = if i ∈ segs then rmapReset else rmapEntry m i)
          ∧ ∀ n ∈ p.sites, AMap.find t.cores n = none
        (phaseDone s p = true → ¬late → mapValid (entryNow m) segs = false → withdrawn (.servicePhaseEnd w))
          ∧ (late → withdrawn (.mappingTimeout w)))
      ∧ (p.delivery = true → phaseDone s p = true → ¬late → p.slot < 32 → ∃ t, exec (.servicePhaseEnd w) s = .next t
        ∧ (t.module w).phase = none ∧ PortEnds s t w p.port 0 ∧ ((t.module w).slot p.slot).st = .loaded)
      ∧ (p.delivery = true → p.slot = slot.val → late → ∃ t, exec (.codeDeliveryTimeout w slot) s = .next t
        ∧ (t.module w).phase = none ∧ PortEnds s t w p.port 9 ∧ ((t.module w).slot slot).st = .unloaded
        ∧ (∀ n ∈ p.sites, (t.core n).trg = (s.core n).trg ∧ (t.core n).rcv = (s.core n).rcv ∧ (t.core n).mx = (s.core n).mx
            ∧ (t.ctx n 0).st = .free ∧ (∀ x : Fin 8, x ≠ 0 → t.ctx n x = s.ctx n x) ∧ (t.core n).comm.chans = []
            ∧ (t.core n).later = [])
        ∧ ∀ n, n ∉ p.sites → t.core n = s.core n))
    ∧ ∃ t, exec (.shelfZeroingDone w slot) s = .next t ∧ Outside [.modules] s t ∧ CoresKept s t
      ∧ (∀ v, v ≠ w → t.module v = s.module v) ∧ OnlySlot s t w slot { m.slot slot with zeroing := [] }
      ∧ t.module w = { m with slots := (t.module w).slots }

/-- R62–R65: a read takes a free semaphore for its port with a new lease, and changes nothing while one holds it; of two
reads in a cycle the port that the last tie did not favour takes it, and finds no further tie. The owner renews its lease
or releases it; a lease that runs out frees it and tells both ports, at the latest as the block meets the semaphore. A
semaphore that becomes free orphans the claimed slot that it guards. -/
def Sys2Proof.Claims.Semaphores : Prop :=
  ∀ (s : State) (w : Fin 16) (p : Fin 2) (n : Fin 32), (s.module w).present = true →
    let m := s.module w
    let x := m.sem n
    let me := p.val + 1
    let mine : Hsem := { owner := me, expires := leaseEnd s w }
    let ranOut : Prop := x.owner ≠ 0 ∧ ∃ e, x.expires = some e ∧ e ≤ s.now
    let free : Prop := x.owner = 0 ∨ ranOut
    let told : List (Nat × Nat) := if leaseOver s w n then [(1, 1), (2, 1)] else []
    let takes (i : Instr) (q : Nat) (z : Option (Nat × Nat)) (y : Hsem) (msix : List (Nat × Nat)) : Prop :=
      ∃ t, exec i s = .next t ∧ Outside [.modules] s t ∧ CoresKept s t ∧ (∀ v, v ≠ w → t.module v = s.module v)
        ∧ (∀ k, k < 32 → (t.module w).sem k = if k = n.val then y else m.sem k) ∧ (t.module w).tieTo = q
        ∧ (t.module w).tied = z
        ∧ (∃ new, (t.module w).msix = new ++ m.msix ∧ ∀ v ∈ msix, v ∈ new)
        ∧ (x.owner ≠ 0 → y.owner = 0 → 2 ≤ n.val → (m.slot (n.val - 2)).st ≠ .empty →
            ((t.module w).slot (n.val - 2)).orphaned = true)
        ∧ (y.owner = me → 2 ≤ n.val → (m.slot (n.val - 2)).st ≠ .empty → (m.slot (n.val - 2)).owner = me →
            ((t.module w).slot (n.val - 2)).orphaned = false ∨ x.owner = me)
        ∧ ∀ k, k < 32 → k + 2 ≠ n.val → (t.module w).slot k = m.slot k
    (leaseOver s w n = true ↔ ranOut)
    ∧ (¬free → exec (.hsemAcquireRead w p n) s = .next s)
    ∧ (free → tiedRead s w me n = false → takes (.hsemAcquireRead w p n) m.tieTo none mine told)
    ∧ (free → tiedRead s w me n = true → m.tieTo = me → takes (.hsemAcquireRead w p n) (3 - me) m.tied mine told)
    ∧ (free → tiedRead s w me n = true → m.tieTo ≠ me →
        takes (.hsemAcquireRead w p n) (3 - m.tieTo) (some (n.val, m.tieTo)) (if x.owner = 0 then x else {}) told)
    ∧ (m.tied = some (n.val, me) → tiedRead s w me n = false)
    ∧ (x.owner = me → ¬ranOut → takes (.hsemRenew w p n) m.tieTo m.tied { x with expires := leaseEnd s w } []
        ∧ takes (.hsemRelease w p n) m.tieTo m.tied {} [])
    ∧ (x.owner ≠ me ∨ ranOut → exec (.hsemRenew w p n) s = .next s ∧ exec (.hsemRelease w p n) s = .next s)
    ∧ (ranOut → takes (.leaseExpiry w n) m.tieTo m.tied {} [(1, 1), (2, 1)])
    ∧ (¬ranOut → exec (.leaseExpiry w n) s = .next s)
    ∧ leaseEnd s w = (if m.lease = 0 then none else some (s.now + m.lease.toNat * 2 ^ 20))

/-- R60, R66, R67, R72, R351: writes of a port's registers: the arguments, OVR, the lease period, `CMD_OP`, the
semaphores, `EP_LIMIT` and `VB_INJ`; what the table does not name ignores them. -/
def Sys2Proof.Claims.HostRegisters : Prop :=
  ∀ (s : State) (w : Fin 16) (p : Fin 2) (v : Word), (s.module w).present = true →
    let m := s.module w
    let me := p.val + 1
    let writes (off : Nat) : Instr := .registerWrite w p off v
    let sets (off : Nat) (x : Module) : Prop :=
      ∃ t, exec (writes off) s = .next t ∧ Outside [.modules] s t ∧ CoresKept s t ∧ OnlyModule s t w x
    let port (x : Port) : Module := { m with ports := m.ports.set p x }
    (∀ i : Fin 6, sets (0x108 + 8 * i.val) (port { m.port me with args := (m.port me).args.set i v }))
    ∧ (v.getLsbD 30 = true → sets 0x140 (port { m.port me with ovr := false }))
    ∧ (v.getLsbD 30 = false → exec (writes 0x140) s = .next s)
    ∧ (holdsSem s w me 0 = true → sets 0x80 { m with lease := v.extractLsb' 0 16 })
    ∧ (holdsSem s w me 0 = false → exec (writes 0x80) s = .next s)
    ∧ (v.getLsbD 31 = false → sets 0x100 (port { m.port me with cmdOp := (v.extractLsb' 0 16).setWidth 32 }))
    ∧ (∀ n : Fin 32,
      (v.getLsbD 1 = true → exec (writes (4 * n.val)) s = exec (.hsemRelease w p n) s)
      ∧ (v.getLsbD 1 = false → v.getLsbD 2 = true → exec (writes (4 * n.val)) s = exec (.hsemRenew w p n) s)
      ∧ (v.getLsbD 1 = false → v.getLsbD 2 = false → exec (writes (4 * n.val)) s = .next s))
    ∧ (∀ (k : Fin 30) (e : Fin 64), exec (writes (0x1000 + 0x800 * k.val + 0x20 * e.val + 8)) s
        = exec (.epLimitWrite w p (k.castLE (by omega)) e v) s)
    ∧ (∀ off, 0x148 ≤ off → off < 0x1000 → exec (writes off) s = .next s)
    ∧ ∃ t, exec (.vbInjWrite w v) s = .next t ∧ Outside [.bridges] s t ∧ CoresKept s t
        ∧ ∀ b, t.bridge b = if b = portBridge w 1 then { s.bridge b with vbInj := v &&& 0x8000FFFFFFFFFFFF } else s.bridge b

/-- R60, R62, R66, R69, R72: what a read of a port's registers answers: a free semaphore 0 to the reader that takes it,
a held one LOCKED, its owner and the units of its lease that are left; the port's number; the command registers;
`CMD_STS`; an endpoint's position, limit, held bytes and `EP_CTL`; zero where the table names nothing. -/
def Sys2Proof.Claims.HostReads : Prop :=
  ∀ (s : State) (w : Fin 16) (p : Fin 2),
    let m := s.module w
    let me := p.val + 1
    let x := m.port me
    let reads := registerRead s w me
    (∀ n : Fin 32, let h := m.sem n
      let ranOut : Prop := ∃ e, h.expires = some e ∧ e ≤ s.now
      let free : Prop := h.owner = 0 ∨ ranOut
      (free → tiedRead s w me n = false ∨ m.tieTo = me → reads (4 * n.val) = 0)
      ∧ (free → tiedRead s w me n = true → m.tieTo ≠ me → (reads (4 * n.val)).testBit 0 = true
          ∧ reads (4 * n.val) / 16 % 4 = 3 - me)
      ∧ (¬ranOut → h.owner = 1 ∨ h.owner = 2 → (reads (4 * n.val)) % 2 ^ 16 = h.owner * 16 + 1)
      ∧ ∀ e, h.owner = 1 ∨ h.owner = 2 → h.expires = some e → s.now < e →
          let left := reads (4 * n.val) / 2 ^ 16
          e - s.now ≤ left * 2 ^ 20 ∧ (left * 2 ^ 20 < e - s.now + 2 ^ 20))
    ∧ reads 0x80 = m.lease.toNat ∧ reads 0x84 = me ∧ reads 0x100 = x.cmdOp.toNat
    ∧ (∀ i : Fin 6, reads (0x108 + 8 * i.val) = (x.args[i]).toNat)
    ∧ ((reads 0x140).testBit 31 = x.busy ∧ (reads 0x140).testBit 30 = x.ovr ∧ reads 0x140 % 2 ^ 30 = x.code.toNat)
    ∧ (∀ (k : Fin 30) (e : Fin 64), let base := 0x1000 + 0x800 * k.val + 0x20 * e.val
      (∀ y, (m.slot k).eps[e.val]? = some y →
        reads base = y.pos ∧ reads (base + 8) = y.limit ∧ reads (base + 0x10) = 128 * y.held.length
          ∧ (y.bound = true → (reads (base + 0x18)).testBit 0 = true ∧ (reads (base + 0x18)).testBit 1 = y.egress)
          ∧ (y.bound = false → reads (base + 0x18) % 4 = 0))
      ∧ ((m.slot k).eps[e.val]? = none → reads base = 0 ∧ reads (base + 8) = 0 ∧ reads (base + 0x10) = 0)
      ∧ (reads (base + 0x18)).testBit 2 = (m.slot k).limErr.getLsbD e.val)
    ∧ ∀ off, (0x148 ≤ off ∧ off < 0x1000) ∨ 0x10000 ≤ off → reads off = 0

/-- R72, R73: a write of `EP_LIMIT` by the slot's port takes a rising multiple of 128 that the extent allows, and sealed
egress below it is delivered; another value sets LIM_ERR. Others' writes do nothing. -/
def Sys2Proof.Claims.EndpointLimits : Prop :=
  ∀ (s : State) (w : Fin 16) (p : Fin 2) (k : Fin 32) (e : Fin 64) (v : Word),
    let m := s.module w
    let t0 := m.slot k
    let i := Instr.epLimitWrite w p k e v
    let owns : Prop := if t0.st = .empty then holdsSem s w (p.val + 1) (k.val + 2) = true
      else t0.owner = p.val + 1 ∧ t0.orphaned = false
    (¬owns ∨ 30 ≤ k.val → exec i s = .next s)
    ∧ (owns → k.val < 30 → ∀ x, t0.eps[e.val]? = some x →
      x.bound = true ∧ x.limit ≤ v.toNat ∧ v.toNat ≤ x.pos + x.extent ∧ v.toNat % 128 = 0 →
      let n := if x.egress then min x.held.length ((min x.sealedUpTo v.toNat - x.pos) / 128) else 0
      ∃ t, exec i s = .next t ∧ Outside [.modules] s t ∧ CoresKept s t ∧ (∀ u, u ≠ w → t.module u = s.module u)
        ∧ OnlySlot s t w k { t0 with eps := ((t.module w).slot k).eps }
        ∧ ((t.module w).slot k).eps.length = t0.eps.length
        ∧ (∀ f, f ≠ e.val → ((t.module w).slot k).eps[f]? = t0.eps[f]?)
        ∧ ((t.module w).slot k).eps[e.val]? = some { x with
            limit := v.toNat, pos := x.pos + 128 * n, held := x.held.drop n }
        ∧ (t.module w).msix = (if n = 0 then [] else [(t0.owner, 2 + k.val)]) ++ m.msix)
    ∧ (owns → k.val < 30 → (∀ x, t0.eps[e.val]? = some x →
        ¬(x.bound = true ∧ x.limit ≤ v.toNat ∧ v.toNat ≤ x.pos + x.extent ∧ v.toNat % 128 = 0)) →
      ∃ t, exec i s = .next t ∧ Outside [.modules] s t ∧ CoresKept s t ∧ (∀ u, u ≠ w → t.module u = s.module u)
        ∧ OnlySlot s t w k { t0 with limErr := t0.limErr ||| (1#64 <<< e.val) })

/-- R66, R67, R370: while BUSY is set a command only sets OVR; otherwise an OP or SLOT that no table lists ends with
0x20, a port without the semaphore with 0x21, and what an orphaned slot does not take with 0x24. A write of `CMD_OP`
with GO and no reserved bit is the command that it names. -/
def Sys2Proof.Claims.CommandChecks : Prop :=
  ∀ (s : State) (w : Fin 16) (p : Fin 2) (slot op : BitVec 8), (s.module w).present = true →
    let m := s.module w
    let me := p.val + 1
    ∀ c ∈ [((0x01 : Nat), Instr.claim w p slot), (0x02, .load w p slot), (0x03, .launch w p slot),
        (0x04, .unload w p slot), (0x05, .unclaim w p slot), (0x06, .rebind w p slot), (0x10, .attest w p slot),
        (0x11, .mcread w p slot), (0x12, .readout w p slot), (0x13, .therm w p slot), (0x14, .retire w p slot),
        (0x15, .colmove w p slot), (0x16, .wake w p slot), (0x17, .resume w p slot), (0x18, .remap w p slot),
        (0x19, .pod w p slot), (op.toNat, .unknownOp w p slot op)],
      (c.2 = .unknownOp w p slot op → opKnown op.toNat = false) →
      exec (.registerWrite w p 0x100 (BitVec.ofNat 64 (c.1 + slot.toNat * 2 ^ 8 + 2 ^ 31))) s = exec c.2 s
      ∧ ((m.port me).busy = true → ∃ t, exec c.2 s = .next t ∧ Outside [.modules] s t ∧ CoresKept s t
        ∧ OnlyModule s t w { m with ports := m.ports.set p { m.port me with ovr := true } })
      ∧ ((m.port me).busy = false →
        (opOk c.1 slot.toNat = false → Refused s c.2 w me c.1 slot.toNat 0x20)
        ∧ (opOk c.1 slot.toNat = true → holdsSem s w me (opSem c.1 slot.toNat) = false →
          Refused s c.2 w me c.1 slot.toNat 0x21)
        ∧ (opOk c.1 slot.toNat = true → holdsSem s w me (opSem c.1 slot.toNat) = true →
          orphanBars s w c.1 slot.toNat = true → Refused s c.2 w me c.1 slot.toNat 0x24))

/-- R1, R7, R76, R348, R349, R362, R364, R366–R368: power, temperature and coolant. -/
def Obligations.PowerAndThermal : Prop :=
  Sys2Proof.Claims.InrushTokens
    ∧ Sys2Proof.Claims.PowerCycles
    ∧ Sys2Proof.Claims.ThermalTrips
    ∧ Sys2Proof.Claims.CoolantShutsDown

/-- R60, R62–R67, R69, R72, R73, R351: what the host reads and writes. -/
def Obligations.HostInterface : Prop :=
  Sys2Proof.Claims.Semaphores
    ∧ Sys2Proof.Claims.HostRegisters
    ∧ Sys2Proof.Claims.HostReads
    ∧ Sys2Proof.Claims.EndpointLimits


/-! ### Host commands -/

namespace Sys2Proof.Claims

/-- R67: the clusters of a rectangle. -/
def rectClusters (x0 y0 w h : Nat) : List Nat :=
  (List.range h).flatMap fun j => (List.range w).map fun i => (y0 + j) * 32 + x0 + i

/-- R67: a cluster is withdrawn, or a claimed slot holds it. -/
def Taken67 (m : Module) (cl : Nat) : Prop :=
  clusterAvailable m cl = false ∨ ∃ i, i < 32 ∧ (m.slot i).st ≠ .empty ∧ (m.slot i).holds cl = true

/-- The command of a port, with the arguments that it latches. -/
def cmdOf (s : State) (w p slot : Nat) : Cmd := { w := w, port := p, slot := slot, args := ((s.module w).port p).args }

/-- R70, R71: an endpoint that LAUNCH binds. -/
def Bound (x y : Endpoint) (ptr extent : Nat) : Prop :=
  y = { name := x.name, egress := x.egress, stream := x.stream, core := x.core, chan := x.chan, tokens := x.tokens
        bound := true, ptr := ptr, extent := extent, credits := if x.egress then 0 else x.tokens }

/-- R343: the 32 bytes of a record. -/
def recordBytes (r : McRecord) : List Byte :=
  [r.cause, r.src, r.action, 0] ++ leBytes 4 r.loc.toNat ++ leBytes 4 r.rin.toNat ++ leBytes 4 r.rb.toNat
    ++ leBytes 8 r.detail.toNat ++ leBytes 8 r.cycle.toNat

/-- R354: a ring as MCREAD writes it. -/
def ringBytes (r : Ring) : List Byte :=
  r.recs.flatMap recordBytes ++ List.replicate (32 * (64 - r.recs.length)) 0 ++ leBytes 8 r.count

/-- R362: the attestation report up to its signature. -/
def reportBytes (m : Module) (p : Nat) (nonce : List Byte) : List Byte :=
  leBytes 4 0x4132574C ++ leBytes 2 1 ++ leBytes 2 (grade m) ++ leBytes 2 m.fieldRet
    ++ leBytes 2 (if p = 1 then 27 else 11) ++ leBytes 4 0 ++ leBytes 16 m.serial.toNat ++ nonce
    ++ sha256 (deadMap m) ++ sha256 ((List.range 1920).flatMap fun i => leBytes 4 (rmapEntry m i).toNat)
    ++ leBytes 32 m.fwDigest.toNat ++ leBytes 4 3604

/-- R360: the entry of a segment after local column `c` has moved. -/
def movedEntry (m : Module) (sg py c : Nat) : BitVec 32 :=
  let e := rmapEntry m (py * 8 + sg)
  if e.getLsbD 23 = true ∧ (∀ i ∈ List.range 33, siteDead m (33 * sg + i) py = false) ∧ e.extractLsb' 0 6 = 0x3F ∧ rmapLent e = 0 then
    (e &&& 0xFFFFFFC0) ||| BitVec.ofNat 32 c
  else e

/-- R364: a link-table entry that POD takes for port `q` of a module. -/
def LinkOk (wafer : Nat) (members : BitVec 16) (q : Nat) (e : BitVec 32) : Prop :=
  e.getLsbD 31 = true → e.extractLsb' 20 10 = 0 ∧ e.extractLsb' 13 3 = 0 ∧ e.extractLsb' 2 6 = 0
    ∧ members.getLsbD (e.extractLsb' 16 4).toNat = true ∧ (e.extractLsb' 16 4).toNat ≠ wafer
    ∧ (e.extractLsb' 0 2).toNat = q

/-- R364: port `q` of bridge `b` of a module. -/
def portOf (s : State) (w : Nat) (b : Fin 32) (q : Fin 4) : Optical := (s.bridge (mkNode w (0xFF00 + b.val))).ports[q]

end Sys2Proof.Claims

/-- R67, R74, R75, R370: CLAIM, UNCLAIM, REBIND and UNLOAD, their checks in order and their effects. -/
def Sys2Proof.Claims.RegionCommands : Prop :=
  ∀ (s : State) (w : Fin 16) (p : Fin 2) (slot : BitVec 8),
    let k := slot.toNat
    let me := p.val + 1
    let m := s.module w
    let t0 := m.slot k
    let a0 := argOf s w me 0
    let a1 := argOf s w me 1
    (Accepted s w me 0x01 k →
      let x0 := a0 % 32
      let y0 := a0 / 2 ^ 8 % 32
      let rw := a0 / 2 ^ 16 % 64
      let rh := a0 / 2 ^ 24 % 64
      let bad : Prop := 32 < x0 + rw ∨ 30 < y0 + rh ∨ rw = 0 ∨ rh = 0 ∨ ∃ cl ∈ rectClusters x0 y0 rw rh, Taken67 m cl
      let plain : Prop := a0 = x0 + y0 * 2 ^ 8 + rw * 2 ^ 16 + rh * 2 ^ 24
      (t0.st ≠ .empty → Refused s (.claim w p slot) w me 1 k 0x22)
      ∧ (t0.st = .empty → ¬plain → Refused s (.claim w p slot) w me 1 k 0x20)
      ∧ (t0.st = .empty → plain → bad → Refused s (.claim w p slot) w me 1 k 0x23)
      ∧ (t0.st = .empty → plain → ¬bad → SlotTakes s (.claim w p slot) w me 1 k
          { t0 with st := .unloaded, x0 := x0, y0 := y0, w := rw, h := rh, owner := me, orphaned := false }))
    ∧ (Accepted s w me 0x05 k →
      (t0.st ≠ .unloaded → Refused s (.unclaim w p slot) w me 5 k 0x22)
      ∧ (t0.st = .unloaded → SlotTakes s (.unclaim w p slot) w me 5 k
          { t0 with st := .empty, orphaned := false, owner := 0 }))
    ∧ (Accepted s w me 0x06 k →
      (t0.st ≠ .launched → Refused s (.rebind w p slot) w me 6 k 0x22)
      ∧ (t0.st = .launched → 64 ≤ a0 → Refused s (.rebind w p slot) w me 6 k 0x20)
      ∧ (t0.st = .launched → a0 < 64 → t0.eps.length ≤ a0 → Refused s (.rebind w p slot) w me 6 k 0x27)
      ∧ (t0.st = .launched → a0 < 64 → a0 < t0.eps.length → a1 % 4096 ≠ 0 → Refused s (.rebind w p slot) w me 6 k 0x25)
      ∧ (t0.st = .launched → a0 < 64 → a1 % 4096 = 0 → ∀ x, t0.eps[a0]? = some x →
          SlotTakes s (.rebind w p slot) w me 6 k { t0 with eps := t0.eps.set a0 { x with ptr := a1 } }))
    ∧ (Accepted s w me 0x04 k →
      (t0.st ≠ .loaded → t0.st ≠ .launched → Refused s (.unload w p slot) w me 4 k 0x22)
      ∧ (∀ d, slotDomain s w k = some d →
        t0.st = .loaded ∨ t0.st = .launched ∧ (s.domain d).frozen = true ∧ (s.domain d).rolling = false →
        ∃ t, exec (.unload w p slot) s = .next t ∧ PortEnds s t w me 0 ∧ ((t.module w).slot k).st = .unloaded
          ∧ ((t.module w).slot k).image = none ∧ ∀ c ∈ slotCores s w k, ∀ x, (t.ctx c x).st = .free)
      ∧ (∀ d, slotDomain s w k = some d → t0.st = .launched → (s.domain d).frozen = false →
        ∃ t, exec (.unload w p slot) s = .next t ∧ Outside [.modules, .domains, .net, .names] s t ∧ CoresKept s t
          ∧ StillRuns s t w me 4 k ∧ LeaseRestarts s t w k ∧ OnlySlot s t w k { t0 with unloading := true }
          ∧ Requested s t d))

/-- R25, R26, R64, R206, R211, R315, R316, R370: LOAD waits for what R25 names, refuses an image with the code of its
first fault, and otherwise restarts the lease and installs the image, or begins the code-delivery phase. A region that it installs is loaded, and each of its
cores stands at a sealed state with its image's triggers, no words and no flags, in the interval of its domain. -/
def Sys2Proof.Claims.Loading : Prop :=
  ∀ (s : State) (w : Fin 16) (p : Fin 2) (slot : BitVec 8),
    let k := slot.toNat
    let me := p.val + 1
    let m := s.module w
    let t0 := m.slot k
    let c := cmdOf s w me k
    let img := c.image s
    let h := header img
    let i := Instr.load w p slot
    let args : Prop := argOf s w me 1 % 16 = 0 ∧ 128 ≤ argOf s w me 1 ∧ argOf s w me 1 ≤ 2 ^ 32 - 16
    Accepted s w me 0x02 k →
      (t0.st ≠ .unloaded → Refused s i w me 2 k 0x22)
      ∧ (t0.st = .unloaded → ¬args → Refused s i w me 2 k 0x27)
      ∧ (t0.st = .unloaded → args → c.loadWaits s = true → ∃ t, exec i s = .next t ∧ Outside [.modules] s t
        ∧ CoresKept s t ∧ StillRuns s t w me 2 k ∧ (∀ j, (t.module w).sem j = m.sem j)
        ∧ ∀ j, (t.module w).slot j = m.slot j)
      ∧ (t0.st = .unloaded → args → c.loadWaits s = false →
        let code : Nat :=
          if readFails s w me (argOf s w me 0) 128 then 0x26
          else if badMagic img then 0x01
          else if fld img 8 4 ≠ argOf s w me 1 then 0x02
          else if readFails s w me (argOf s w me 0) (argOf s w me 1) then 0x26
          else imageCode s w t0 img
        (code ≠ 0 → Refused s i w me 2 k code)
        ∧ (code = 0 → wholeCode img = none → ((relCores h).map (relCore w t0)).Nodup → ∃ t, exec i s = .next t
          ∧ CmdEnds s t w me 2 k 0 ∧ LeaseRestarts s t w k
          ∧ (∀ j, j < 32 → j ≠ k → (t.module w).slot j = m.slot j)
          ∧ (let u := (t.module w).slot k
             u.st = .loaded ∧ u.x0 = t0.x0 ∧ u.y0 = t0.y0 ∧ u.w = t0.w ∧ u.h = t0.h ∧ u.owner = t0.owner
              ∧ u.eps.length = (endpointRows (sectsOf img)).length ∧ (∀ x ∈ u.eps, x.bound = false)
              ∧ ∃ f, u.image = some f ∧ f.domain = h.domain ∧ f.logSize = h.logSize ∧ f.argSize = h.argSize)
          ∧ (∀ n, n ∉ (relCores h).map (relCore w t0) → n ∉ domCores t h.domain → t.core n = s.core n)
          ∧ ∀ q ∈ coreImages img, let e := t.core (relCore w t0 q.1)
              e.sync.flags = 0 ∧ (∀ r : Fin 64, e.sync.k[r] = 0) ∧ e.trg.pseudo = [] ∧ e.comm.tracker = []
              ∧ (∀ r : Fin 32, e.trg.entries[r] = trigEntryOf (q.2.trigs.getD r.val (List.replicate 16 0)))
              ∧ e.rcv.logFill = 0 ∧ e.rcv.logSize = BitVec.ofNat 32 h.logSize
              ∧ e.rcv.slot0 = e.rcv.slot1 ∧ (∃ z, e.rcv.slot0 = some z ∧ Saved e z)
              ∧ (launchedSlots s h.domain = [] → e.rcv.rin = 1 ∧ e.rcv.rinSealed = 0 ∧ e.rcv.rbCount = 0))
        ∧ ∀ body, code = 0 → wholeCode img = some body → ∃ t, exec i s = .next t ∧ Outside [.modules] s t
          ∧ StillRuns s t w me 2 k ∧ LeaseRestarts s t w k ∧ OnlySlot s t w k { t0 with st := .loading }
          ∧ (∃ f, (t.module w).phase = some f ∧ f.delivery = true ∧ f.slot = k ∧ f.port = me ∧ f.started = s.now
            ∧ f.image = img ∧ f.sites = t0.relCores.map (relCore w t0))
          ∧ ∀ q ∈ t0.relCores, ∀ n, n = relCore w t0 q → (t.ctx n 0).st = .ready ∧ (t.ctx n 0).pc = 0x41800302
            ∧ (t.ctx n 0).sts = 0x10 ∧ (t.ctx n 0).sreg 1 = BitVec.ofNat 64 (nodeNum n))

/-- R64, R69–R71, R130, R136, R370: LAUNCH binds the endpoints, writes the argument block with its full bits into every core, and
wakes each at its entry 0, with the place and length of the block, unless a debug freeze of the domain holds the wake
back; it waits for a seal of its domain, and restarts the lease once every check has passed. A barrier at which no core
arrives completes its first phase (log 50). -/
def Sys2Proof.Claims.Launching : Prop :=
  ∀ (s : State) (w : Fin 16) (p : Fin 2) (slot : BitVec 8),
    let k := slot.toNat
    let me := p.val + 1
    let m := s.module w
    let t0 := m.slot k
    let a (i : Nat) : Nat := argOf s w me i
    let table := bindingsOf (hostRead s w me (a 2) (16 * t0.eps.length))
    let i := Instr.launch w p slot
    let args := hostRead s w me (a 0) (a 1)
    let unread : Prop := readFails s w me (a 0) (a 1) = true ∨ readFails s w me (a 2) (16 * t0.eps.length) = true
    let bad : Prop := (∃ b ∈ table, ¬(b.1 % 4096 = 0 ∧ b.2.1 % 4096 = 0 ∧ 4096 ≤ b.2.1 ∧ b.2.1 ≤ 2 ^ 31 ∧ b.2.2 = 0))
      ∨ ∃ f, t0.image = some f ∧ f.argClash = true
    let size : Prop := t0.image.map (·.argSize) = some (a 1)
    Accepted s w me 0x03 k →
      (t0.st ≠ .loaded → Refused s i w me 3 k 0x22)
      ∧ (t0.st = .loaded → ¬size → Refused s i w me 3 k 0x25)
      ∧ (t0.st = .loaded → size → ∀ d, slotDomain s w k = some d → domainBusy s d = true → ∃ t, exec i s = .next t
        ∧ Outside [.modules] s t ∧ CoresKept s t ∧ StillRuns s t w me 3 k ∧ (∀ j, (t.module w).sem j = m.sem j)
        ∧ ∀ j, (t.module w).slot j = m.slot j)
      ∧ (t0.st = .loaded → size → ∀ d, slotDomain s w k = some d → domainBusy s d = false →
        (unread → Refused s i w me 3 k 0x26)
        ∧ (¬unread → bad → Refused s i w me 3 k 0x25)
        ∧ (¬unread → ¬bad → (slotCores s w k).Nodup → ∃ t, exec i s = .next t
          ∧ Outside [.modules, .hubs, .net, .names] s t ∧ LeaseRestarts s t w k
          ∧ (∃ l, t.net = s.net ++ l ∧ ∀ e ∈ l, (∃ h b p cp, e.kind = .relHub h b p cp) ∨ ∃ f b v j p cp, e.kind = .wide f b v j p cp)
          ∧ ((∀ b, b < 15 → ∀ h ∈ slotHubs s w k, (s.hub h).barUsed.getLsbD b = true → silentRoot s h b = false) →
              t.net = s.net ∧ t.nextId = s.nextId)
          ∧ ((s.domain d).frozen = false → CmdEnds s t w me 3 k 0)
          ∧ ((s.domain d).frozen = true → StillRuns s t w me 3 k ∧ ((t.module w).slot k).wakeHeld = true
              ∧ ∀ n x, t.ctx n x = s.ctx n x)
          ∧ (∀ j, j < 32 → j ≠ k → (t.module w).slot j = m.slot j)
          ∧ ((t.module w).slot k).st = .launched ∧ ((t.module w).slot k).limErr = 0
          ∧ ((t.module w).slot k).eps.length = t0.eps.length
          ∧ (∀ (e : Nat) x, t0.eps[e]? = some x → ∃ y, ((t.module w).slot k).eps[e]? = some y
              ∧ ∀ b : Nat × Nat × Nat, table[e]? = some b → Bound x y b.1 b.2.1)
          ∧ (∀ n, n ∉ slotCores s w k → t.core n = s.core n)
          ∧ ∀ n ∈ slotCores s w k,
              (memWf (s.core n).mem.mem = true → a 1 ≤ 0x40000 → inLog (s.core n) (0x40000 - a 1) (a 1) = false →
                BytesAt t n (0x40000 - a 1) args ∧ ∀ q, q ∈ (t.core n).mem.full ↔
                  q ∈ feWords (0x40000 - a 1) (a 1) ∨ q ∈ (s.core n).mem.full)
              ∧ ((s.ctx n 0).st = .free → (s.domain d).frozen = false →
                StartedAt (t.ctx n 0) (s.ctx n 0) (s.core n).trg.entries[0].hpc (cycleOf s n)
                [0, BitVec.ofNat 64 (nodeNum n), coordWord s n, BitVec.ofNat 64 (0x40000 - a 1), BitVec.ofNat 64 (a 1)])))

/-- R343, R345, R348, R354, R355, R362, R367, R370: ATTEST, MCREAD, READOUT, THERM, WAKE and RESUME, their checks and
effects. -/
def Sys2Proof.Claims.ServiceReports : Prop :=
  ∀ (s : State) (w : Fin 16) (p : Fin 2) (slot : BitVec 8),
    let k := slot.toNat
    let me := p.val + 1
    let m := s.module w
    let t0 := m.slot k
    let a (i : Nat) : Nat := argOf s w me i
    let runs (i : Instr) (q : State → Prop) : Prop :=
      ∃ t, exec i s = .next t ∧ (∀ v, v ≠ w → t.module v = s.module v) ∧ CoresKept s t ∧ q t
    (Accepted s w me 0x10 k → ∀ i, i = Instr.attest w p slot →
      (a 0 % 8 ≠ 0 → Refused s i w me 0x10 k 0x27)
      ∧ (a 0 % 8 = 0 → 2 ^ 40 ≤ m.key me → Refused s i w me 0x10 k 0x28)
      ∧ (a 0 % 8 = 0 → m.key me < 2 ^ 40 → runs i fun t => Outside [.modules] s t
        ∧ (let b := reportBytes m me (leBytes 8 (a 1) ++ leBytes 8 (a 2) ++ leBytes 8 (a 3) ++ leBytes 8 (a 4))
          Delivers s t w me 0x10 k (a 0)
            (b ++ hssSign m.serial.toNat (if me = 1 then 27 else 11) (m.key me) (b.take (b.length - 4))))
        ∧ (∀ q : Fin 2, (t.module w).keyIndex[q] = m.keyIndex[q] + if q = p then 1 else 0)))
    ∧ (Accepted s w me 0x11 k → ∀ i, i = Instr.mcread w p slot →
      (a 0 % 8 ≠ 0 → Refused s i w me 0x11 k 0x27)
      ∧ (a 0 % 8 = 0 → runs i fun t => Outside [.modules] s t
        ∧ Delivers s t w me 0x11 k (a 0) (ringBytes (if k = 0xFF then m.ring else t0.ring))
        ∧ (t.module w).slots = m.slots ∧ (k ≠ 0xFF → LeaseRestarts s t w k)))
    ∧ (Accepted s w me 0x12 k → ∀ i, i = Instr.readout w p slot →
      let bad : Prop := a 0 % 8 ≠ 0 ∨ a 1 < 4096 ∨ 2 ^ 32 < a 1
      (bad → Refused s i w me 0x12 k 0x27)
      ∧ (¬bad → t0.heldReadouts = [] → SlotTakes s i w me 0x12 k { t0 with readout := some (a 0, a 1) })
      ∧ (¬bad → ∀ recs rest, t0.heldReadouts = recs :: rest → t0.owner = me → runs i fun t => Outside [.modules] s t
        ∧ Delivers s t w me 0x12 k (a 0) (fitReadout recs (a 1))
        ∧ LeaseRestarts s t w k ∧ OnlySlot s t w k { t0 with readout := none, heldReadouts := rest }))
    ∧ (Accepted s w me 0x13 k → ∀ i, i = Instr.therm w p slot →
      let n := hubNode w (a 0)
      let h := s.hub n
      let ok : Prop := a 1 ≠ 0 ∧ a 1 / 2 ^ 8 % 2 ^ 8 ≤ a 1 / 2 ^ 16 % 2 ^ 8 ∧ a 1 / 2 ^ 16 % 2 ^ 8 ≤ a 1 / 2 ^ 24 % 2 ^ 8
        ∧ 1 ≤ a 1 / 2 ^ 32 % 2 ^ 8
      let reserved : Prop := 1024 ≤ a 0 ∨ 2 ^ 40 ≤ a 1 ∨ a 1 % 2 ^ 8 ≠ 0 ∨ a 2 / 2 ^ 11 % 2 ^ 21 ≠ 0
      (reserved → Refused s i w me 0x13 k 0x20)
      ∧ (¬reserved → 960 ≤ a 0 ∨ a 3 % 8 ≠ 0 → Refused s i w me 0x13 k 0x27)
      ∧ (¬reserved → a 0 < 960 → a 3 % 8 = 0 → runs i fun t => Outside [.hubs, .modules] s t
        ∧ OnlyHub s t n { h with
            thermCfg := (t.hub n).thermCfg, thermSts := (t.hub n).thermSts
            stretchAt := if Sys2Proof.Claims.stretching h then s.now - (s.now - h.stretchAt) % 2 else s.now }
        ∧ (ok → (t.hub n).thermCfg = BitVec.ofNat 64 (a 1))
        ∧ (¬ok → (t.hub n).thermCfg = h.thermCfg)
        ∧ (t.hub n).thermSts.extractLsb' 0 10 = h.thermSts.extractLsb' 0 10
        ∧ (t.hub n).thermSts.getLsbD 10 = (h.thermSts.getLsbD 10 && !(BitVec.ofNat 64 (a 2)).getLsbD 10)
        ∧ (t.hub n).thermSts.extractLsb' 32 32 = h.thermSts.extractLsb' 32 32
            + BitVec.ofNat 32 (if Sys2Proof.Claims.stretching h then (s.now - h.stretchAt) / 2 else 0)
        ∧ Delivers s t w me 0x13 k (a 3) (leBytes 8 (t.hub n).thermCfg.toNat ++ leBytes 8 (t.hub n).thermSts.toNat)))
    ∧ (Accepted s w me 0x16 k → ∀ i, i = Instr.wake w p slot →
      let h := s.hub (hubNode w (a 0))
      let hot : Prop := h.thermSts.getLsbD 10 = true
        ∧ thermField h 24 ≤ (h.thermSts.extractLsb' 0 8).toNat + thermField h 32
      let bad : Prop := 960 ≤ a 0 ∨ clusterAvailable m (a 0) = false ∨ hot
      let known : Prop := a 0 ∈ m.inrush ∨ h.power = .good ∨ ∃ t, h.power = .ramping t
      (1024 ≤ a 0 → Refused s i w me 0x16 k 0x20)
      ∧ (a 0 < 1024 → bad → Refused s i w me 0x16 k 0x27)
      ∧ (a 0 < 1024 → ¬bad → runs i fun t => Outside [.modules] s t ∧ CmdEnds s t w me 0x16 k 0
        ∧ (known → (t.module w).inrush = m.inrush) ∧ (¬known → (t.module w).inrush = m.inrush ++ [a 0])))
    ∧ (Accepted s w me 0x17 k → ∀ i, i = Instr.resume w p slot →
      ((∀ d, slotDomain s w k = some d → (s.domain d).frozen = false) → Refused s i w me 0x17 k 0x22)
      ∧ (∀ d, slotDomain s w k = some d → (s.domain d).frozen = true → ∃ t, exec i s = .next t
        ∧ ((t.module w).port me).busy = false ∧ ((t.module w).port me).code = 0)
      ∧ (∀ d, slotDomain s w k = some d → (s.domain d).frozen = true → (domCores s d).Nodup →
        (∀ b ∈ s.bridges, b.2.vbInj.getLsbD 63 = false) → (∀ n, (s.core n).mem.beat = none) → ∃ t, exec i s = .next t
        ∧ Outside [.modules, .domains] s t ∧ LeaseRestarts s t w k
        ∧ OnlyDomain s t d { s.domain d with frozen := false, reason := 0 }
        ∧ (∀ q ∈ memberSlots s d, ((t.module q.1).slot q.2).wakeHeld = false)
        ∧ ((∀ q ∈ memberSlots s d, ((s.module q.1).slot q.2).wakeHeld = false) → CmdEnds s t w me 0x17 k 0
          ∧ (∀ n, n ∉ domCores s d → t.core n = s.core n)
          ∧ ∀ n ∈ domCores s d,
            let c := s.core n
            t.core n = { c with
                mem := { c.mem with l1 := (t.core n).mem.l1, shr := (t.core n).mem.shr, logged := (t.core n).mem.logged }
                comm := { c.comm with chans := c.comm.chans.map fun q =>
                  (q.1, { q.2 with queue := q.2.spill ++ q.2.queue, spill := [] }) } }
              ∧ ((∀ q ∈ c.comm.chans, q.2.spill = []) → (t.core n).mem = c.mem))))

/-- R357–R360, R363, R364, R370: RETIRE, COLMOVE, REMAP and POD, their checks and effects. -/
def Sys2Proof.Claims.RepairCommands : Prop :=
  ∀ (s : State) (w : Fin 16) (p : Fin 2) (slot : BitVec 8),
    let k := slot.toNat
    let me := p.val + 1
    let m := s.module w
    let a0 := argOf s w me 0
    let a1 := argOf s w me 1
    (Accepted s w me 0x14 k → ∀ i, i = Instr.retire w p slot →
      let num := a0 % 2 ^ 16
      let n := mkNode w num
      let bad : Prop := 0xF000 ≤ num ∨ a0 / 2 ^ 16 % 16 ≠ m.wafer
        ∨ rmapAvail (rmapEntry m (num / 256 * 8 + num % 256 / 32)) = false
      (2 ^ 20 ≤ a0 → Refused s i w me 0x14 k 0x20)
      ∧ (a0 < 2 ^ 20 → bad → Refused s i w me 0x14 k 0x27)
      ∧ (a0 < 2 ^ 20 → ¬bad → domainOf s n = none → ∃ t, exec i s = .next t ∧ Outside [.modules] s t ∧ CoresKept s t
        ∧ PortEnds s t w me 0 ∧ siteDead (t.module w) (siteOf s n).1 (siteOf s n).2 = true
        ∧ coreAvailable (t.module w) num = false ∧ clusterAvailable (t.module w) (clusterOf n) = false
        ∧ (t.module w).fieldRet
            = (if clusterAvailable m (clusterOf n) then min 960 (m.fieldRet + 1) else m.fieldRet))
      ∧ (∀ d, a0 < 2 ^ 20 → ¬bad → domainOf s n = some d → ∃ t, exec i s = .next t
        ∧ Outside [.modules, .domains, .net, .names] s t ∧ CoresKept s t ∧ StillRuns s t w me 0x14 k
        ∧ (∀ c, c ∈ (t.module w).retireReqs ↔ c = num ∧ (s.domain d).phase ≠ .change ∨ c ∈ m.retireReqs)
        ∧ (∀ c, c ∈ (t.module w).retireNext ↔ c = num ∧ (s.domain d).phase = .change ∨ c ∈ m.retireNext)
        ∧ Requested s t d))
    ∧ (Accepted s w me 0x15 k → ∀ i, i = Instr.colmove w p slot →
      let fx := a0 % 8
      let fy := a0 / 2 ^ 8 % 8
      let col := a0 / 2 ^ 16 % 64
      let plain : Prop := a0 = fx + fy * 2 ^ 8 + col * 2 ^ 16
      let ds := fieldDomains s w fx fy
      (¬plain → Refused s i w me 0x15 k 0x20)
      ∧ (plain → 5 < fy ∨ 32 < col → Refused s i w me 0x15 k 0x27)
      ∧ (plain → fy ≤ 5 → col ≤ 32 → ds = [] → ∃ t, exec i s = .next t ∧ Outside [.modules] s t ∧ CoresKept s t
        ∧ CmdEnds s t w me 0x15 k 0
        ∧ ∀ py sg, py < 240 → sg < 8 → rmapEntry (t.module w) (py * 8 + sg)
            = (if py / 40 = fy ∧ sg = fx then movedEntry m sg py col else rmapEntry m (py * 8 + sg)))
      ∧ (plain → fy ≤ 5 → col ≤ 32 → ds ≠ [] → ∃ t, exec i s = .next t
        ∧ Outside [.modules, .domains, .net, .names] s t ∧ CoresKept s t ∧ StillRuns s t w me 0x15 k
        ∧ (t.module w).colmoves = m.colmoves ++ [(fx, fy, col, [])] ∧ ∀ d ∈ ds, (t.domain d).req = true))
    ∧ (Accepted s w me 0x18 k → ∀ i, i = Instr.remap w p slot →
      let fx := a0 % 8
      let py := a0 / 2 ^ 8 % 2 ^ 8
      let rows := a0 / 2 ^ 16 % 2 ^ 8
      let taken := remapClaimed m (windowSegs fx py rows)
      let plain : Prop := a0 = fx + py * 2 ^ 8 + rows * 2 ^ 16
      let ok : Prop := py % 8 = 0 ∧ rows % 8 = 0 ∧ 8 ≤ rows ∧ rows ≤ 40 ∧ py + rows ≤ 240
      (taken = true → Refused s i w me 0x18 k 0x22)
      ∧ (taken = false → ¬plain → Refused s i w me 0x18 k 0x20)
      ∧ (taken = false → plain → ¬ok → Refused s i w me 0x18 k 0x27)
      ∧ (taken = false → plain → ok → m.phase ≠ none → ∃ t, exec i s = .next t ∧ Outside [.modules] s t
        ∧ CoresKept s t ∧ StillRuns s t w me 0x18 k ∧ (t.module w).rmap = m.rmap)
      ∧ (taken = false → plain → ok → m.phase = none → mappable m fx py rows = true → ∃ t f, exec i s = .next t
        ∧ Outside [.modules] s t ∧ StillRuns s t w me 0x18 k ∧ (t.module w).phase = some f ∧ f.delivery = false
        ∧ f.port = me ∧ f.px0 = 33 * fx ∧ f.py0 = py ∧ f.width = 33 ∧ f.height = rows)
      ∧ (taken = false → plain → ok → m.phase = none → mappable m fx py rows = false → ∃ t, exec i s = .next t
        ∧ Outside [.modules] s t ∧ CmdEnds s t w me 0x18 k 0
        ∧ ∀ j, j < 1920 → rmapEntry (t.module w) j = (AMap.find (rmapOf m) j).getD rmapReset))
    ∧ (Accepted s w me 0x19 k → ∀ i, i = Instr.pod w p slot →
      let wafer := a0 % 16
      let members : BitVec 16 := BitVec.ofNat 16 (a0 / 2 ^ 16)
      let entry (b : Fin 32) (q : Fin 4) : BitVec 32 :=
        BitVec.ofNat 32 (leNat (hostRead s w me (a1 + 4 * (4 * b.val + q.val)) 4))
      let claimed : Prop := ∃ t ∈ m.slots.toList, t.st ≠ .empty
      let bad : Prop := a1 % 8 ≠ 0 ∨ a0 ≠ wafer + members.toNat * 2 ^ 16 ∨ members.getLsbD wafer = false
      let links : Prop := ∀ b q, LinkOk wafer members q.val (entry b q)
      (claimed → Refused s i w me 0x19 k 0x22)
      ∧ (¬claimed → bad → Refused s i w me 0x19 k 0x27)
      ∧ (¬claimed → ¬bad → readFails s w me a1 512 = true → Refused s i w me 0x19 k 0x26)
      ∧ (¬claimed → ¬bad → readFails s w me a1 512 = false → ¬links → Refused s i w me 0x19 k 0x27)
      ∧ (¬claimed → ¬bad → readFails s w me a1 512 = false → links → (s.modules.map (·.1)).Nodup → ∃ t, exec i s = .next t
        ∧ Outside [.modules, .bridges] s t ∧ CoresKept s t ∧ CmdEnds s t w me 0x19 k 0
        ∧ (t.module w).wafer = wafer ∧ (t.module w).members = members
        ∧ (∀ b, t.bridge b = { s.bridge b with ports := (t.bridge b).ports })
        ∧ (∀ b q, (portOf t w b q).entry = entry b q &&& 0xBFFFFFFF)
        ∧ ∀ b q, (portOf t w b q).up = true → (entry b q).getLsbD 31 = true
            ∧ ∃ v, v ≠ w.val ∧ (s.module v).present = true ∧ (s.module v).wafer = ((entry b q).extractLsb' 16 4).toNat
              ∧ ∃ y : Fin 32, y.val = ((entry b q).extractLsb' 8 5).toNat
                ∧ (portOf t v y q).entry.getLsbD 31 = true
                ∧ ((portOf t v y q).entry.extractLsb' 16 4).toNat = wafer
                ∧ ((portOf t v y q).entry.extractLsb' 8 5).toNat = b.val))

/-- R25, R26, R64, R66, R67, R69–R71, R74, R75, R130, R136, R206, R211, R315, R316, R370: the commands on regions. -/
def Obligations.HostCommands : Prop :=
  Sys2Proof.Claims.CommandChecks
    ∧ Sys2Proof.Claims.RegionCommands
    ∧ Sys2Proof.Claims.Loading
    ∧ Sys2Proof.Claims.Launching

/-- R206, R209–R211, R343, R345, R348, R354–R360, R362–R364, R367, R370: the commands that report and repair, and the
phases that they start. -/
def Obligations.ServiceCommands : Prop :=
  Sys2Proof.Claims.ServicePhases
    ∧ Sys2Proof.Claims.ServiceReports
    ∧ Sys2Proof.Claims.RepairCommands
end

