-- ==== Sys2Proof/Laws/Tables.lean ====
section
/-! SUPPORT. Laws of sparse tables, vectors and byte memory: reads after writes, and the canonical form of memory. -/

namespace Sys2Proof.Machine

/-! ### Sparse tables -/

@[simp] theorem amap_find_put_same {α : Type} (m : AMap α) (k : Nat) (a : α) :
    AMap.find (AMap.put m k a) k = some a := by
  induction m with
  | nil => simp [AMap.put, AMap.find]
  | cons p t ih =>
    obtain ⟨j, b⟩ := p
    simp only [AMap.put]
    split
    · simp [AMap.find]
    · split
      · simp [AMap.find]
      · rename_i h1 h2
        simp [AMap.find, h2, ih]

theorem amap_find_put_other {α : Type} (m : AMap α) (k j : Nat) (a : α) (h : j ≠ k) :
    AMap.find (AMap.put m k a) j = AMap.find m j := by
  induction m with
  | nil => simp [AMap.put, AMap.find, Ne.symm h]
  | cons p t ih =>
    obtain ⟨i, b⟩ := p
    simp only [AMap.put]
    split
    · simp [AMap.find, Ne.symm h]
    · split
      · rename_i h1 h2
        subst h2
        simp [AMap.find, Ne.symm h]
      · simp [AMap.find, ih]

theorem amap_find_put {α : Type} (m : AMap α) (k j : Nat) (a : α) :
    AMap.find (AMap.put m k a) j = if j = k then some a else AMap.find m j := by
  split
  · next h => subst h; simp
  · next h => exact amap_find_put_other m k j a h

/-! ### Vectors -/

theorem vget_of_lt {α : Type} {n : Nat} (v : Vector α n) (d : α) (i : Nat) (h : i < n) : vget v d i = v[i] := by
  simp [vget, h]

@[simp] theorem vget_vset_same {α : Type} {n : Nat} (v : Vector α n) (d a : α) (i : Nat) (h : i < n) :
    vget (vset v i a) d i = a := by
  simp [vget, vset, h]

theorem vget_vset_other {α : Type} {n : Nat} (v : Vector α n) (d a : α) (i j : Nat) (h : j ≠ i) :
    vget (vset v i a) d j = vget v d j := by
  simp only [vget, vset]
  by_cases hj : j < n
  · simp [hj, Ne.symm h]
  · simp [hj]

/-! ### Byte memory -/

/-- Every entry of a memory lies above an address. -/
def Above (a : Nat) (m : Memory) : Prop := ∀ p ∈ m, a < p.1

theorem memWf_cons (a : Nat) (b : Byte) (t : Memory) :
    memWf ((a, b) :: t) = true ↔ b ≠ 0 ∧ Above a t ∧ memWf t = true := by
  induction t generalizing a b with
  | nil => simp [memWf, Above]
  | cons p t ih =>
    obtain ⟨c, d⟩ := p
    simp only [memWf, Bool.and_eq_true, bne_iff_ne, decide_eq_true_eq]
    constructor
    · rintro ⟨⟨hb, hac⟩, hw⟩
      refine ⟨hb, ?_, hw⟩
      intro q hq
      rcases List.mem_cons.mp hq with rfl | hq
      · exact hac
      · exact Nat.lt_trans hac (((ih c d).mp hw).2.1 q hq)
    · rintro ⟨hb, ha, hw⟩
      exact ⟨⟨hb, ha (c, d) (by simp)⟩, hw⟩

theorem memGet_above (m : Memory) (a : Nat) (h : Above a m) : memGet m a = 0 := by
  induction m with
  | nil => rfl
  | cons p t ih =>
    obtain ⟨j, b⟩ := p
    have h1 : a < j := h (j, b) (by simp)
    have h2 : Above a t := fun q hq => h q (by simp [hq])
    simp [memGet, Nat.ne_of_gt h1, ih h2]

theorem above_memSet (m : Memory) (k a : Nat) (x : Byte) (hk : k < a) (h : Above k m) : Above k (memSet m a x) := by
  induction m with
  | nil =>
    intro q hq
    simp only [memSet] at hq
    split at hq
    · simp at hq
    · rcases List.mem_singleton.mp hq with rfl
      exact hk
  | cons p t ih =>
    obtain ⟨j, b⟩ := p
    have hj : k < j := h (j, b) (by simp)
    have ht : Above k t := fun q hq => h q (by simp [hq])
    intro q hq
    simp only [memSet] at hq
    split at hq
    · split at hq
      · exact h q hq
      · rcases List.mem_cons.mp hq with rfl | hq
        · exact hk
        · exact h q hq
    · split at hq
      · split at hq
        · exact ht q hq
        · rcases List.mem_cons.mp hq with rfl | hq
          · exact hk
          · exact ht q hq
      · rcases List.mem_cons.mp hq with rfl | hq
        · exact hj
        · exact ih ht q hq

/-- A byte written keeps the canonical form. -/
theorem memSet_wf (m : Memory) (a : Nat) (x : Byte) (h : memWf m = true) : memWf (memSet m a x) = true := by
  induction m with
  | nil =>
    simp only [memSet]
    split
    · rfl
    · next hx => simpa [memWf] using hx
  | cons p t ih =>
    obtain ⟨j, b⟩ := p
    obtain ⟨hb, ha, hw⟩ := (memWf_cons j b t).mp h
    simp only [memSet]
    split
    · next hlt =>
      split
      · exact h
      · next hx =>
        refine (memWf_cons _ _ _).mpr ⟨hx, ?_, h⟩
        intro q hq
        rcases List.mem_cons.mp hq with rfl | hq
        · exact hlt
        · exact Nat.lt_trans hlt (ha q hq)
    · next hlt =>
      split
      · next he =>
        split
        · exact hw
        · next hx => subst he; exact (memWf_cons _ _ _).mpr ⟨hx, ha, hw⟩
      · next he => exact (memWf_cons _ _ _).mpr ⟨hb, above_memSet t j a x (by omega) ha, ih hw⟩

/-- Bytes written keep the canonical form. -/
theorem memWrite_wf (m : Memory) (a : Nat) (bs : List Byte) (h : memWf m = true) : memWf (memWrite m a bs) = true := by
  induction bs generalizing m a with
  | nil => exact h
  | cons b bs ih => exact ih _ _ (memSet_wf m a b h)

/-- A read after a write of one byte. -/
theorem memGet_memSet (m : Memory) (a c : Nat) (x : Byte) (h : memWf m = true) :
    memGet (memSet m a x) c = if c = a then x else memGet m c := by
  induction m with
  | nil =>
    simp only [memSet]
    split
    · next hx => simp [memGet, hx]
    · by_cases hc : c = a
      · simp [memGet, hc]
      · have : ¬ a = c := fun h => hc h.symm
        simp [memGet, hc, this]
  | cons p t ih =>
    obtain ⟨j, b⟩ := p
    obtain ⟨hb, ha, hw⟩ := (memWf_cons j b t).mp h
    simp only [memSet]
    split
    · next hlt =>
      have hz : memGet ((j, b) :: t) a = 0 := by
        refine memGet_above _ _ ?_
        intro q hq
        rcases List.mem_cons.mp hq with rfl | hq
        · exact hlt
        · exact Nat.lt_trans hlt (ha q hq)
      split
      · next hx =>
        by_cases hc : c = a
        · subst hc; simp [hz, hx]
        · simp [hc]
      · by_cases hc : c = a
        · simp [memGet, hc]
        · have : ¬ a = c := fun h => hc h.symm
          simp [memGet, hc, this]
    · next hlt =>
      split
      · next he =>
        subst he
        split
        · next hx =>
          by_cases hc : c = j
          · subst hc; simp [hx, memGet_above t c ha]
          · have : ¬ j = c := fun h => hc h.symm
            simp [memGet, hc, this]
        · by_cases hc : c = j
          · simp [memGet, hc]
          · have : ¬ j = c := fun h => hc h.symm
            simp [memGet, hc, this]
      · next he =>
        simp only [memGet]
        by_cases hj : j = c
        · subst hj; simp [he]
        · simp [hj, ih hw]

/-- A byte that a write does not reach keeps its value. -/
theorem memGet_memWrite_outside (m : Memory) (a c : Nat) (bs : List Byte) (hw : memWf m = true)
    (h : inRange c a bs.length = false) : memGet (memWrite m a bs) c = memGet m c := by
  induction bs generalizing m a with
  | nil => rfl
  | cons b bs ih =>
    simp only [inRange, List.length_cons, Bool.and_eq_false_iff, decide_eq_false_iff_not] at h
    simp only [memWrite]
    rw [ih _ _ (memSet_wf m a b hw)
      (by simp only [inRange, Bool.and_eq_false_iff, decide_eq_false_iff_not]; omega), memGet_memSet m a c b hw]
    have : c ≠ a := by omega
    simp [this]

/-- A byte of a write holds what was written. -/
theorem memGet_memWrite_inside (m : Memory) (a i : Nat) (bs : List Byte) (hw : memWf m = true) (h : i < bs.length) :
    memGet (memWrite m a bs) (a + i) = bs[i] := by
  induction bs generalizing m a i with
  | nil => simp at h
  | cons b bs ih =>
    simp only [memWrite]
    cases i with
    | zero =>
      rw [memGet_memWrite_outside _ _ _ _ (memSet_wf m a b hw) (by simp [inRange] <;> omega), memGet_memSet m a _ b hw]
      simp
    | succ i =>
      have e : a + (i + 1) = (a + 1) + i := by omega
      rw [e, ih _ _ _ (memSet_wf m a b hw) (by simpa using h)]
      simp

/-- A memory without the entries of some addresses keeps the canonical form. -/
theorem filter_wf (m : Memory) (f : Host.Cell → Bool) (h : memWf m = true) : memWf (m.filter f) = true := by
  induction m with
  | nil => rfl
  | cons p t ih =>
    obtain ⟨j, b⟩ := p
    obtain ⟨hb, ha, hw⟩ := (memWf_cons j b t).mp h
    simp only [List.filter_cons]
    split
    · exact (memWf_cons _ _ _).mpr ⟨hb, fun q hq => ha q (List.mem_filter.mp hq).1, ih hw⟩
    · exact ih hw

end Sys2Proof.Machine
end

