-- ==== Sys2Proof/Laws/State.lean ====
section
/-! SUPPORT. Field lemmas of the state: what each update leaves alone, and what a read after it gives. -/

namespace Sys2Proof.Machine

/-! `setCore` changes nothing but `cores`. -/

@[simp] theorem State.setCore_now (s : State) (n : Node) (c : Core) : (s.setCore n c).now = s.now := rfl
@[simp] theorem State.setCore_hubs (s : State) (n : Node) (c : Core) : (s.setCore n c).hubs = s.hubs := rfl
@[simp] theorem State.setCore_bridges (s : State) (n : Node) (c : Core) : (s.setCore n c).bridges = s.bridges := rfl
@[simp] theorem State.setCore_modules (s : State) (n : Node) (c : Core) : (s.setCore n c).modules = s.modules := rfl
@[simp] theorem State.setCore_domains (s : State) (n : Node) (c : Core) : (s.setCore n c).domains = s.domains := rfl
@[simp] theorem State.setCore_net (s : State) (n : Node) (c : Core) : (s.setCore n c).net = s.net := rfl
@[simp] theorem State.setCore_nextId (s : State) (n : Node) (c : Core) : (s.setCore n c).nextId = s.nextId := rfl
@[simp] theorem State.setCore_draws (s : State) (n : Node) (c : Core) : (s.setCore n c).draws = s.draws := rfl
@[simp] theorem State.setCore_lots (s : State) (n : Node) (c : Core) : (s.setCore n c).lots = s.lots := rfl
@[simp] theorem State.setCore_agenda (s : State) (n : Node) (c : Core) : (s.setCore n c).agenda = s.agenda := rfl
@[simp] theorem State.setCore_cur (s : State) (n : Node) (c : Core) : (s.setCore n c).cur = s.cur := rfl
@[simp] theorem State.setCore_arriving (s : State) (n : Node) (c : Core) : (s.setCore n c).arriving = s.arriving := rfl

/-! `modCore` changes nothing but `cores`. -/

@[simp] theorem State.modCore_now (s : State) (n : Node) (f : Core → Core) : (s.modCore n f).now = s.now := rfl
@[simp] theorem State.modCore_hubs (s : State) (n : Node) (f : Core → Core) : (s.modCore n f).hubs = s.hubs := rfl
@[simp] theorem State.modCore_bridges (s : State) (n : Node) (f : Core → Core) : (s.modCore n f).bridges = s.bridges := rfl
@[simp] theorem State.modCore_modules (s : State) (n : Node) (f : Core → Core) : (s.modCore n f).modules = s.modules := rfl
@[simp] theorem State.modCore_domains (s : State) (n : Node) (f : Core → Core) : (s.modCore n f).domains = s.domains := rfl
@[simp] theorem State.modCore_net (s : State) (n : Node) (f : Core → Core) : (s.modCore n f).net = s.net := rfl
@[simp] theorem State.modCore_nextId (s : State) (n : Node) (f : Core → Core) : (s.modCore n f).nextId = s.nextId := rfl
@[simp] theorem State.modCore_draws (s : State) (n : Node) (f : Core → Core) : (s.modCore n f).draws = s.draws := rfl
@[simp] theorem State.modCore_lots (s : State) (n : Node) (f : Core → Core) : (s.modCore n f).lots = s.lots := rfl
@[simp] theorem State.modCore_agenda (s : State) (n : Node) (f : Core → Core) : (s.modCore n f).agenda = s.agenda := rfl
@[simp] theorem State.modCore_cur (s : State) (n : Node) (f : Core → Core) : (s.modCore n f).cur = s.cur := rfl
@[simp] theorem State.modCore_arriving (s : State) (n : Node) (f : Core → Core) : (s.modCore n f).arriving = s.arriving := rfl

/-! `setCtx` changes nothing but `cores`. -/

@[simp] theorem State.setCtx_now (s : State) (n : Node) (x : Fin 8) (k : Ctx) : (s.setCtx n x k).now = s.now := rfl
@[simp] theorem State.setCtx_hubs (s : State) (n : Node) (x : Fin 8) (k : Ctx) : (s.setCtx n x k).hubs = s.hubs := rfl
@[simp] theorem State.setCtx_bridges (s : State) (n : Node) (x : Fin 8) (k : Ctx) : (s.setCtx n x k).bridges = s.bridges := rfl
@[simp] theorem State.setCtx_modules (s : State) (n : Node) (x : Fin 8) (k : Ctx) : (s.setCtx n x k).modules = s.modules := rfl
@[simp] theorem State.setCtx_domains (s : State) (n : Node) (x : Fin 8) (k : Ctx) : (s.setCtx n x k).domains = s.domains := rfl
@[simp] theorem State.setCtx_net (s : State) (n : Node) (x : Fin 8) (k : Ctx) : (s.setCtx n x k).net = s.net := rfl
@[simp] theorem State.setCtx_nextId (s : State) (n : Node) (x : Fin 8) (k : Ctx) : (s.setCtx n x k).nextId = s.nextId := rfl
@[simp] theorem State.setCtx_draws (s : State) (n : Node) (x : Fin 8) (k : Ctx) : (s.setCtx n x k).draws = s.draws := rfl
@[simp] theorem State.setCtx_lots (s : State) (n : Node) (x : Fin 8) (k : Ctx) : (s.setCtx n x k).lots = s.lots := rfl
@[simp] theorem State.setCtx_agenda (s : State) (n : Node) (x : Fin 8) (k : Ctx) : (s.setCtx n x k).agenda = s.agenda := rfl
@[simp] theorem State.setCtx_cur (s : State) (n : Node) (x : Fin 8) (k : Ctx) : (s.setCtx n x k).cur = s.cur := rfl
@[simp] theorem State.setCtx_arriving (s : State) (n : Node) (x : Fin 8) (k : Ctx) : (s.setCtx n x k).arriving = s.arriving := rfl

/-! `modCtx` changes nothing but `cores`. -/

@[simp] theorem State.modCtx_now (s : State) (n : Node) (x : Fin 8) (f : Ctx → Ctx) : (s.modCtx n x f).now = s.now := rfl
@[simp] theorem State.modCtx_hubs (s : State) (n : Node) (x : Fin 8) (f : Ctx → Ctx) : (s.modCtx n x f).hubs = s.hubs := rfl
@[simp] theorem State.modCtx_bridges (s : State) (n : Node) (x : Fin 8) (f : Ctx → Ctx) : (s.modCtx n x f).bridges = s.bridges := rfl
@[simp] theorem State.modCtx_modules (s : State) (n : Node) (x : Fin 8) (f : Ctx → Ctx) : (s.modCtx n x f).modules = s.modules := rfl
@[simp] theorem State.modCtx_domains (s : State) (n : Node) (x : Fin 8) (f : Ctx → Ctx) : (s.modCtx n x f).domains = s.domains := rfl
@[simp] theorem State.modCtx_net (s : State) (n : Node) (x : Fin 8) (f : Ctx → Ctx) : (s.modCtx n x f).net = s.net := rfl
@[simp] theorem State.modCtx_nextId (s : State) (n : Node) (x : Fin 8) (f : Ctx → Ctx) : (s.modCtx n x f).nextId = s.nextId := rfl
@[simp] theorem State.modCtx_draws (s : State) (n : Node) (x : Fin 8) (f : Ctx → Ctx) : (s.modCtx n x f).draws = s.draws := rfl
@[simp] theorem State.modCtx_lots (s : State) (n : Node) (x : Fin 8) (f : Ctx → Ctx) : (s.modCtx n x f).lots = s.lots := rfl
@[simp] theorem State.modCtx_agenda (s : State) (n : Node) (x : Fin 8) (f : Ctx → Ctx) : (s.modCtx n x f).agenda = s.agenda := rfl
@[simp] theorem State.modCtx_cur (s : State) (n : Node) (x : Fin 8) (f : Ctx → Ctx) : (s.modCtx n x f).cur = s.cur := rfl
@[simp] theorem State.modCtx_arriving (s : State) (n : Node) (x : Fin 8) (f : Ctx → Ctx) : (s.modCtx n x f).arriving = s.arriving := rfl

/-! `setHub` changes nothing but `hubs`. -/

@[simp] theorem State.setHub_now (s : State) (n : Node) (h : Hub) : (s.setHub n h).now = s.now := rfl
@[simp] theorem State.setHub_cores (s : State) (n : Node) (h : Hub) : (s.setHub n h).cores = s.cores := rfl
@[simp] theorem State.setHub_bridges (s : State) (n : Node) (h : Hub) : (s.setHub n h).bridges = s.bridges := rfl
@[simp] theorem State.setHub_modules (s : State) (n : Node) (h : Hub) : (s.setHub n h).modules = s.modules := rfl
@[simp] theorem State.setHub_domains (s : State) (n : Node) (h : Hub) : (s.setHub n h).domains = s.domains := rfl
@[simp] theorem State.setHub_net (s : State) (n : Node) (h : Hub) : (s.setHub n h).net = s.net := rfl
@[simp] theorem State.setHub_nextId (s : State) (n : Node) (h : Hub) : (s.setHub n h).nextId = s.nextId := rfl
@[simp] theorem State.setHub_draws (s : State) (n : Node) (h : Hub) : (s.setHub n h).draws = s.draws := rfl
@[simp] theorem State.setHub_lots (s : State) (n : Node) (h : Hub) : (s.setHub n h).lots = s.lots := rfl
@[simp] theorem State.setHub_agenda (s : State) (n : Node) (h : Hub) : (s.setHub n h).agenda = s.agenda := rfl
@[simp] theorem State.setHub_cur (s : State) (n : Node) (h : Hub) : (s.setHub n h).cur = s.cur := rfl
@[simp] theorem State.setHub_arriving (s : State) (n : Node) (h : Hub) : (s.setHub n h).arriving = s.arriving := rfl

/-! `modHub` changes nothing but `hubs`. -/

@[simp] theorem State.modHub_now (s : State) (n : Node) (f : Hub → Hub) : (s.modHub n f).now = s.now := rfl
@[simp] theorem State.modHub_cores (s : State) (n : Node) (f : Hub → Hub) : (s.modHub n f).cores = s.cores := rfl
@[simp] theorem State.modHub_bridges (s : State) (n : Node) (f : Hub → Hub) : (s.modHub n f).bridges = s.bridges := rfl
@[simp] theorem State.modHub_modules (s : State) (n : Node) (f : Hub → Hub) : (s.modHub n f).modules = s.modules := rfl
@[simp] theorem State.modHub_domains (s : State) (n : Node) (f : Hub → Hub) : (s.modHub n f).domains = s.domains := rfl
@[simp] theorem State.modHub_net (s : State) (n : Node) (f : Hub → Hub) : (s.modHub n f).net = s.net := rfl
@[simp] theorem State.modHub_nextId (s : State) (n : Node) (f : Hub → Hub) : (s.modHub n f).nextId = s.nextId := rfl
@[simp] theorem State.modHub_draws (s : State) (n : Node) (f : Hub → Hub) : (s.modHub n f).draws = s.draws := rfl
@[simp] theorem State.modHub_lots (s : State) (n : Node) (f : Hub → Hub) : (s.modHub n f).lots = s.lots := rfl
@[simp] theorem State.modHub_agenda (s : State) (n : Node) (f : Hub → Hub) : (s.modHub n f).agenda = s.agenda := rfl
@[simp] theorem State.modHub_cur (s : State) (n : Node) (f : Hub → Hub) : (s.modHub n f).cur = s.cur := rfl
@[simp] theorem State.modHub_arriving (s : State) (n : Node) (f : Hub → Hub) : (s.modHub n f).arriving = s.arriving := rfl

/-! `setBridge` changes nothing but `bridges`. -/

@[simp] theorem State.setBridge_now (s : State) (n : Node) (b : Bridge) : (s.setBridge n b).now = s.now := rfl
@[simp] theorem State.setBridge_cores (s : State) (n : Node) (b : Bridge) : (s.setBridge n b).cores = s.cores := rfl
@[simp] theorem State.setBridge_hubs (s : State) (n : Node) (b : Bridge) : (s.setBridge n b).hubs = s.hubs := rfl
@[simp] theorem State.setBridge_modules (s : State) (n : Node) (b : Bridge) : (s.setBridge n b).modules = s.modules := rfl
@[simp] theorem State.setBridge_domains (s : State) (n : Node) (b : Bridge) : (s.setBridge n b).domains = s.domains := rfl
@[simp] theorem State.setBridge_net (s : State) (n : Node) (b : Bridge) : (s.setBridge n b).net = s.net := rfl
@[simp] theorem State.setBridge_nextId (s : State) (n : Node) (b : Bridge) : (s.setBridge n b).nextId = s.nextId := rfl
@[simp] theorem State.setBridge_draws (s : State) (n : Node) (b : Bridge) : (s.setBridge n b).draws = s.draws := rfl
@[simp] theorem State.setBridge_lots (s : State) (n : Node) (b : Bridge) : (s.setBridge n b).lots = s.lots := rfl
@[simp] theorem State.setBridge_agenda (s : State) (n : Node) (b : Bridge) : (s.setBridge n b).agenda = s.agenda := rfl
@[simp] theorem State.setBridge_cur (s : State) (n : Node) (b : Bridge) : (s.setBridge n b).cur = s.cur := rfl
@[simp] theorem State.setBridge_arriving (s : State) (n : Node) (b : Bridge) : (s.setBridge n b).arriving = s.arriving := rfl

/-! `modBridge` changes nothing but `bridges`. -/

@[simp] theorem State.modBridge_now (s : State) (n : Node) (f : Bridge → Bridge) : (s.modBridge n f).now = s.now := rfl
@[simp] theorem State.modBridge_cores (s : State) (n : Node) (f : Bridge → Bridge) : (s.modBridge n f).cores = s.cores := rfl
@[simp] theorem State.modBridge_hubs (s : State) (n : Node) (f : Bridge → Bridge) : (s.modBridge n f).hubs = s.hubs := rfl
@[simp] theorem State.modBridge_modules (s : State) (n : Node) (f : Bridge → Bridge) : (s.modBridge n f).modules = s.modules := rfl
@[simp] theorem State.modBridge_domains (s : State) (n : Node) (f : Bridge → Bridge) : (s.modBridge n f).domains = s.domains := rfl
@[simp] theorem State.modBridge_net (s : State) (n : Node) (f : Bridge → Bridge) : (s.modBridge n f).net = s.net := rfl
@[simp] theorem State.modBridge_nextId (s : State) (n : Node) (f : Bridge → Bridge) : (s.modBridge n f).nextId = s.nextId := rfl
@[simp] theorem State.modBridge_draws (s : State) (n : Node) (f : Bridge → Bridge) : (s.modBridge n f).draws = s.draws := rfl
@[simp] theorem State.modBridge_lots (s : State) (n : Node) (f : Bridge → Bridge) : (s.modBridge n f).lots = s.lots := rfl
@[simp] theorem State.modBridge_agenda (s : State) (n : Node) (f : Bridge → Bridge) : (s.modBridge n f).agenda = s.agenda := rfl
@[simp] theorem State.modBridge_cur (s : State) (n : Node) (f : Bridge → Bridge) : (s.modBridge n f).cur = s.cur := rfl
@[simp] theorem State.modBridge_arriving (s : State) (n : Node) (f : Bridge → Bridge) : (s.modBridge n f).arriving = s.arriving := rfl

/-! `setModule` changes nothing but `modules`. -/

@[simp] theorem State.setModule_now (s : State) (w : Nat) (m : Module) : (s.setModule w m).now = s.now := rfl
@[simp] theorem State.setModule_cores (s : State) (w : Nat) (m : Module) : (s.setModule w m).cores = s.cores := rfl
@[simp] theorem State.setModule_hubs (s : State) (w : Nat) (m : Module) : (s.setModule w m).hubs = s.hubs := rfl
@[simp] theorem State.setModule_bridges (s : State) (w : Nat) (m : Module) : (s.setModule w m).bridges = s.bridges := rfl
@[simp] theorem State.setModule_domains (s : State) (w : Nat) (m : Module) : (s.setModule w m).domains = s.domains := rfl
@[simp] theorem State.setModule_net (s : State) (w : Nat) (m : Module) : (s.setModule w m).net = s.net := rfl
@[simp] theorem State.setModule_nextId (s : State) (w : Nat) (m : Module) : (s.setModule w m).nextId = s.nextId := rfl
@[simp] theorem State.setModule_draws (s : State) (w : Nat) (m : Module) : (s.setModule w m).draws = s.draws := rfl
@[simp] theorem State.setModule_lots (s : State) (w : Nat) (m : Module) : (s.setModule w m).lots = s.lots := rfl
@[simp] theorem State.setModule_agenda (s : State) (w : Nat) (m : Module) : (s.setModule w m).agenda = s.agenda := rfl
@[simp] theorem State.setModule_cur (s : State) (w : Nat) (m : Module) : (s.setModule w m).cur = s.cur := rfl
@[simp] theorem State.setModule_arriving (s : State) (w : Nat) (m : Module) : (s.setModule w m).arriving = s.arriving := rfl

/-! `modModule` changes nothing but `modules`. -/

@[simp] theorem State.modModule_now (s : State) (w : Nat) (f : Module → Module) : (s.modModule w f).now = s.now := rfl
@[simp] theorem State.modModule_cores (s : State) (w : Nat) (f : Module → Module) : (s.modModule w f).cores = s.cores := rfl
@[simp] theorem State.modModule_hubs (s : State) (w : Nat) (f : Module → Module) : (s.modModule w f).hubs = s.hubs := rfl
@[simp] theorem State.modModule_bridges (s : State) (w : Nat) (f : Module → Module) : (s.modModule w f).bridges = s.bridges := rfl
@[simp] theorem State.modModule_domains (s : State) (w : Nat) (f : Module → Module) : (s.modModule w f).domains = s.domains := rfl
@[simp] theorem State.modModule_net (s : State) (w : Nat) (f : Module → Module) : (s.modModule w f).net = s.net := rfl
@[simp] theorem State.modModule_nextId (s : State) (w : Nat) (f : Module → Module) : (s.modModule w f).nextId = s.nextId := rfl
@[simp] theorem State.modModule_draws (s : State) (w : Nat) (f : Module → Module) : (s.modModule w f).draws = s.draws := rfl
@[simp] theorem State.modModule_lots (s : State) (w : Nat) (f : Module → Module) : (s.modModule w f).lots = s.lots := rfl
@[simp] theorem State.modModule_agenda (s : State) (w : Nat) (f : Module → Module) : (s.modModule w f).agenda = s.agenda := rfl
@[simp] theorem State.modModule_cur (s : State) (w : Nat) (f : Module → Module) : (s.modModule w f).cur = s.cur := rfl
@[simp] theorem State.modModule_arriving (s : State) (w : Nat) (f : Module → Module) : (s.modModule w f).arriving = s.arriving := rfl

/-! `modDomain` changes nothing but `domains`. -/

@[simp] theorem State.modDomain_now (s : State) (d : Nat) (f : Domain → Domain) : (s.modDomain d f).now = s.now := rfl
@[simp] theorem State.modDomain_cores (s : State) (d : Nat) (f : Domain → Domain) : (s.modDomain d f).cores = s.cores := rfl
@[simp] theorem State.modDomain_hubs (s : State) (d : Nat) (f : Domain → Domain) : (s.modDomain d f).hubs = s.hubs := rfl
@[simp] theorem State.modDomain_bridges (s : State) (d : Nat) (f : Domain → Domain) : (s.modDomain d f).bridges = s.bridges := rfl
@[simp] theorem State.modDomain_modules (s : State) (d : Nat) (f : Domain → Domain) : (s.modDomain d f).modules = s.modules := rfl
@[simp] theorem State.modDomain_net (s : State) (d : Nat) (f : Domain → Domain) : (s.modDomain d f).net = s.net := rfl
@[simp] theorem State.modDomain_nextId (s : State) (d : Nat) (f : Domain → Domain) : (s.modDomain d f).nextId = s.nextId := rfl
@[simp] theorem State.modDomain_draws (s : State) (d : Nat) (f : Domain → Domain) : (s.modDomain d f).draws = s.draws := rfl
@[simp] theorem State.modDomain_lots (s : State) (d : Nat) (f : Domain → Domain) : (s.modDomain d f).lots = s.lots := rfl
@[simp] theorem State.modDomain_agenda (s : State) (d : Nat) (f : Domain → Domain) : (s.modDomain d f).agenda = s.agenda := rfl
@[simp] theorem State.modDomain_cur (s : State) (d : Nat) (f : Domain → Domain) : (s.modDomain d f).cur = s.cur := rfl
@[simp] theorem State.modDomain_arriving (s : State) (d : Nat) (f : Domain → Domain) : (s.modDomain d f).arriving = s.arriving := rfl

/-! `modSlot` changes nothing but `modules`. -/

@[simp] theorem State.modSlot_now (s : State) (w i : Nat) (f : Slot → Slot) : (s.modSlot w i f).now = s.now := rfl
@[simp] theorem State.modSlot_cores (s : State) (w i : Nat) (f : Slot → Slot) : (s.modSlot w i f).cores = s.cores := rfl
@[simp] theorem State.modSlot_hubs (s : State) (w i : Nat) (f : Slot → Slot) : (s.modSlot w i f).hubs = s.hubs := rfl
@[simp] theorem State.modSlot_bridges (s : State) (w i : Nat) (f : Slot → Slot) : (s.modSlot w i f).bridges = s.bridges := rfl
@[simp] theorem State.modSlot_domains (s : State) (w i : Nat) (f : Slot → Slot) : (s.modSlot w i f).domains = s.domains := rfl
@[simp] theorem State.modSlot_net (s : State) (w i : Nat) (f : Slot → Slot) : (s.modSlot w i f).net = s.net := rfl
@[simp] theorem State.modSlot_nextId (s : State) (w i : Nat) (f : Slot → Slot) : (s.modSlot w i f).nextId = s.nextId := rfl
@[simp] theorem State.modSlot_draws (s : State) (w i : Nat) (f : Slot → Slot) : (s.modSlot w i f).draws = s.draws := rfl
@[simp] theorem State.modSlot_lots (s : State) (w i : Nat) (f : Slot → Slot) : (s.modSlot w i f).lots = s.lots := rfl
@[simp] theorem State.modSlot_agenda (s : State) (w i : Nat) (f : Slot → Slot) : (s.modSlot w i f).agenda = s.agenda := rfl
@[simp] theorem State.modSlot_cur (s : State) (w i : Nat) (f : Slot → Slot) : (s.modSlot w i f).cur = s.cur := rfl
@[simp] theorem State.modSlot_arriving (s : State) (w i : Nat) (f : Slot → Slot) : (s.modSlot w i f).arriving = s.arriving := rfl

/-! `modCc` changes nothing but `cores`. -/

@[simp] theorem State.modCc_now (s : State) (f : Ctx → Ctx) : (s.modCc f).now = s.now := rfl
@[simp] theorem State.modCc_hubs (s : State) (f : Ctx → Ctx) : (s.modCc f).hubs = s.hubs := rfl
@[simp] theorem State.modCc_bridges (s : State) (f : Ctx → Ctx) : (s.modCc f).bridges = s.bridges := rfl
@[simp] theorem State.modCc_modules (s : State) (f : Ctx → Ctx) : (s.modCc f).modules = s.modules := rfl
@[simp] theorem State.modCc_domains (s : State) (f : Ctx → Ctx) : (s.modCc f).domains = s.domains := rfl
@[simp] theorem State.modCc_net (s : State) (f : Ctx → Ctx) : (s.modCc f).net = s.net := rfl
@[simp] theorem State.modCc_nextId (s : State) (f : Ctx → Ctx) : (s.modCc f).nextId = s.nextId := rfl
@[simp] theorem State.modCc_draws (s : State) (f : Ctx → Ctx) : (s.modCc f).draws = s.draws := rfl
@[simp] theorem State.modCc_lots (s : State) (f : Ctx → Ctx) : (s.modCc f).lots = s.lots := rfl
@[simp] theorem State.modCc_agenda (s : State) (f : Ctx → Ctx) : (s.modCc f).agenda = s.agenda := rfl
@[simp] theorem State.modCc_cur (s : State) (f : Ctx → Ctx) : (s.modCc f).cur = s.cur := rfl
@[simp] theorem State.modCc_arriving (s : State) (f : Ctx → Ctx) : (s.modCc f).arriving = s.arriving := rfl

/-! `modCn` changes nothing but `cores`. -/

@[simp] theorem State.modCn_now (s : State) (f : Core → Core) : (s.modCn f).now = s.now := rfl
@[simp] theorem State.modCn_hubs (s : State) (f : Core → Core) : (s.modCn f).hubs = s.hubs := rfl
@[simp] theorem State.modCn_bridges (s : State) (f : Core → Core) : (s.modCn f).bridges = s.bridges := rfl
@[simp] theorem State.modCn_modules (s : State) (f : Core → Core) : (s.modCn f).modules = s.modules := rfl
@[simp] theorem State.modCn_domains (s : State) (f : Core → Core) : (s.modCn f).domains = s.domains := rfl
@[simp] theorem State.modCn_net (s : State) (f : Core → Core) : (s.modCn f).net = s.net := rfl
@[simp] theorem State.modCn_nextId (s : State) (f : Core → Core) : (s.modCn f).nextId = s.nextId := rfl
@[simp] theorem State.modCn_draws (s : State) (f : Core → Core) : (s.modCn f).draws = s.draws := rfl
@[simp] theorem State.modCn_lots (s : State) (f : Core → Core) : (s.modCn f).lots = s.lots := rfl
@[simp] theorem State.modCn_agenda (s : State) (f : Core → Core) : (s.modCn f).agenda = s.agenda := rfl
@[simp] theorem State.modCn_cur (s : State) (f : Core → Core) : (s.modCn f).cur = s.cur := rfl
@[simp] theorem State.modCn_arriving (s : State) (f : Core → Core) : (s.modCn f).arriving = s.arriving := rfl

/-! `setS` changes nothing but `cores`. -/

@[simp] theorem State.setS_now (s : State) (r : SReg) (x : Word) : (s.setS r x).now = s.now := rfl
@[simp] theorem State.setS_hubs (s : State) (r : SReg) (x : Word) : (s.setS r x).hubs = s.hubs := rfl
@[simp] theorem State.setS_bridges (s : State) (r : SReg) (x : Word) : (s.setS r x).bridges = s.bridges := rfl
@[simp] theorem State.setS_modules (s : State) (r : SReg) (x : Word) : (s.setS r x).modules = s.modules := rfl
@[simp] theorem State.setS_domains (s : State) (r : SReg) (x : Word) : (s.setS r x).domains = s.domains := rfl
@[simp] theorem State.setS_net (s : State) (r : SReg) (x : Word) : (s.setS r x).net = s.net := rfl
@[simp] theorem State.setS_nextId (s : State) (r : SReg) (x : Word) : (s.setS r x).nextId = s.nextId := rfl
@[simp] theorem State.setS_draws (s : State) (r : SReg) (x : Word) : (s.setS r x).draws = s.draws := rfl
@[simp] theorem State.setS_lots (s : State) (r : SReg) (x : Word) : (s.setS r x).lots = s.lots := rfl
@[simp] theorem State.setS_agenda (s : State) (r : SReg) (x : Word) : (s.setS r x).agenda = s.agenda := rfl
@[simp] theorem State.setS_cur (s : State) (r : SReg) (x : Word) : (s.setS r x).cur = s.cur := rfl
@[simp] theorem State.setS_arriving (s : State) (r : SReg) (x : Word) : (s.setS r x).arriving = s.arriving := rfl

/-! `setV` changes nothing but `cores`. -/

@[simp] theorem State.setV_now (s : State) (r : VReg) (x : VVal) : (s.setV r x).now = s.now := rfl
@[simp] theorem State.setV_hubs (s : State) (r : VReg) (x : VVal) : (s.setV r x).hubs = s.hubs := rfl
@[simp] theorem State.setV_bridges (s : State) (r : VReg) (x : VVal) : (s.setV r x).bridges = s.bridges := rfl
@[simp] theorem State.setV_modules (s : State) (r : VReg) (x : VVal) : (s.setV r x).modules = s.modules := rfl
@[simp] theorem State.setV_domains (s : State) (r : VReg) (x : VVal) : (s.setV r x).domains = s.domains := rfl
@[simp] theorem State.setV_net (s : State) (r : VReg) (x : VVal) : (s.setV r x).net = s.net := rfl
@[simp] theorem State.setV_nextId (s : State) (r : VReg) (x : VVal) : (s.setV r x).nextId = s.nextId := rfl
@[simp] theorem State.setV_draws (s : State) (r : VReg) (x : VVal) : (s.setV r x).draws = s.draws := rfl
@[simp] theorem State.setV_lots (s : State) (r : VReg) (x : VVal) : (s.setV r x).lots = s.lots := rfl
@[simp] theorem State.setV_agenda (s : State) (r : VReg) (x : VVal) : (s.setV r x).agenda = s.agenda := rfl
@[simp] theorem State.setV_cur (s : State) (r : VReg) (x : VVal) : (s.setV r x).cur = s.cur := rfl
@[simp] theorem State.setV_arriving (s : State) (r : VReg) (x : VVal) : (s.setV r x).arriving = s.arriving := rfl

/-! `setP` changes nothing but `cores`. -/

@[simp] theorem State.setP_now (s : State) (r : PReg) (x : Pred) : (s.setP r x).now = s.now := rfl
@[simp] theorem State.setP_hubs (s : State) (r : PReg) (x : Pred) : (s.setP r x).hubs = s.hubs := rfl
@[simp] theorem State.setP_bridges (s : State) (r : PReg) (x : Pred) : (s.setP r x).bridges = s.bridges := rfl
@[simp] theorem State.setP_modules (s : State) (r : PReg) (x : Pred) : (s.setP r x).modules = s.modules := rfl
@[simp] theorem State.setP_domains (s : State) (r : PReg) (x : Pred) : (s.setP r x).domains = s.domains := rfl
@[simp] theorem State.setP_net (s : State) (r : PReg) (x : Pred) : (s.setP r x).net = s.net := rfl
@[simp] theorem State.setP_nextId (s : State) (r : PReg) (x : Pred) : (s.setP r x).nextId = s.nextId := rfl
@[simp] theorem State.setP_draws (s : State) (r : PReg) (x : Pred) : (s.setP r x).draws = s.draws := rfl
@[simp] theorem State.setP_lots (s : State) (r : PReg) (x : Pred) : (s.setP r x).lots = s.lots := rfl
@[simp] theorem State.setP_agenda (s : State) (r : PReg) (x : Pred) : (s.setP r x).agenda = s.agenda := rfl
@[simp] theorem State.setP_cur (s : State) (r : PReg) (x : Pred) : (s.setP r x).cur = s.cur := rfl
@[simp] theorem State.setP_arriving (s : State) (r : PReg) (x : Pred) : (s.setP r x).arriving = s.arriving := rfl

@[simp] theorem drawn_now (s : State) : (drawn s).now = s.now := rfl
@[simp] theorem drawn_cores (s : State) : (drawn s).cores = s.cores := rfl
@[simp] theorem drawn_hubs (s : State) : (drawn s).hubs = s.hubs := rfl
@[simp] theorem drawn_bridges (s : State) : (drawn s).bridges = s.bridges := rfl
@[simp] theorem drawn_modules (s : State) : (drawn s).modules = s.modules := rfl
@[simp] theorem drawn_domains (s : State) : (drawn s).domains = s.domains := rfl
@[simp] theorem drawn_net (s : State) : (drawn s).net = s.net := rfl
@[simp] theorem drawn_nextId (s : State) : (drawn s).nextId = s.nextId := rfl
@[simp] theorem drawn_draws (s : State) : (drawn s).draws = s.draws + 1 := rfl
@[simp] theorem drawn_lots (s : State) : (drawn s).lots = s.lots := rfl
@[simp] theorem drawn_agenda (s : State) : (drawn s).agenda = s.agenda := rfl
@[simp] theorem drawn_cur (s : State) : (drawn s).cur = s.cur := rfl
@[simp] theorem drawn_arriving (s : State) : (drawn s).arriving = s.arriving := rfl
@[simp] theorem named_now (s : State) : (named s).now = s.now := rfl
@[simp] theorem named_cores (s : State) : (named s).cores = s.cores := rfl
@[simp] theorem named_hubs (s : State) : (named s).hubs = s.hubs := rfl
@[simp] theorem named_bridges (s : State) : (named s).bridges = s.bridges := rfl
@[simp] theorem named_modules (s : State) : (named s).modules = s.modules := rfl
@[simp] theorem named_domains (s : State) : (named s).domains = s.domains := rfl
@[simp] theorem named_net (s : State) : (named s).net = s.net := rfl
@[simp] theorem named_nextId (s : State) : (named s).nextId = s.nextId + 1 := rfl
@[simp] theorem named_draws (s : State) : (named s).draws = s.draws := rfl
@[simp] theorem named_lots (s : State) : (named s).lots = s.lots := rfl
@[simp] theorem named_agenda (s : State) : (named s).agenda = s.agenda := rfl
@[simp] theorem named_cur (s : State) : (named s).cur = s.cur := rfl
@[simp] theorem named_arriving (s : State) : (named s).arriving = s.arriving := rfl

/-! ### Cores and contexts -/

@[simp] theorem State.core_setCore_same (s : State) (n : Node) (c : Core) : (s.setCore n c).core n = c := by
  simp [State.core, State.setCore]

theorem State.core_setCore_other (s : State) (n m : Node) (c : Core) (h : m ≠ n) :
    (s.setCore n c).core m = s.core m := by
  simp [State.core, State.setCore, amap_find_put_other _ _ _ _ h]

@[simp] theorem State.core_modCore_same (s : State) (n : Node) (f : Core → Core) :
    (s.modCore n f).core n = f (s.core n) := State.core_setCore_same s n _

theorem State.core_modCore_other (s : State) (n m : Node) (f : Core → Core) (h : m ≠ n) :
    (s.modCore n f).core m = s.core m := State.core_setCore_other s n m _ h

theorem State.core_modCore (s : State) (n m : Node) (f : Core → Core) :
    (s.modCore n f).core m = if m = n then f (s.core n) else s.core m := by
  split
  · next h => subst h; simp
  · next h => exact State.core_modCore_other s n m f h

@[simp] theorem Core.ctx_setCtx_same (c : Core) (x : Fin 8) (k : Ctx) : (c.setCtx x k).ctx x = k := by
  simp [Core.ctx, Core.setCtx]

theorem Core.ctx_setCtx_other (c : Core) (x y : Fin 8) (k : Ctx) (h : y ≠ x) : (c.setCtx x k).ctx y = c.ctx y := by
  simp only [Core.ctx, Core.setCtx]
  exact Vector.getElem_set_ne _ _ (fun he => h (Fin.ext he.symm))

@[simp] theorem Core.setCtx_mem (c : Core) (x : Fin 8) (k : Ctx) : (c.setCtx x k).mem = c.mem := rfl
@[simp] theorem Core.setCtx_trg (c : Core) (x : Fin 8) (k : Ctx) : (c.setCtx x k).trg = c.trg := rfl
@[simp] theorem Core.setCtx_comm (c : Core) (x : Fin 8) (k : Ctx) : (c.setCtx x k).comm = c.comm := rfl
@[simp] theorem Core.setCtx_sync (c : Core) (x : Fin 8) (k : Ctx) : (c.setCtx x k).sync = c.sync := rfl
@[simp] theorem Core.setCtx_mx (c : Core) (x : Fin 8) (k : Ctx) : (c.setCtx x k).mx = c.mx := rfl
@[simp] theorem Core.setCtx_rcv (c : Core) (x : Fin 8) (k : Ctx) : (c.setCtx x k).rcv = c.rcv := rfl
@[simp] theorem Core.setCtx_lastIssued (c : Core) (x : Fin 8) (k : Ctx) :
    (c.setCtx x k).lastIssued = c.lastIssued := rfl
@[simp] theorem Core.setCtx_yielded (c : Core) (x : Fin 8) (k : Ctx) : (c.setCtx x k).yielded = c.yielded := rfl
@[simp] theorem Core.setCtx_divFree (c : Core) (x : Fin 8) (k : Ctx) : (c.setCtx x k).divFree = c.divFree := rfl
@[simp] theorem Core.setCtx_cycBase (c : Core) (x : Fin 8) (k : Ctx) : (c.setCtx x k).cycBase = c.cycBase := rfl
@[simp] theorem Core.setCtx_issueFrom (c : Core) (x : Fin 8) (k : Ctx) :
    (c.setCtx x k).issueFrom = c.issueFrom := rfl
@[simp] theorem Core.setCtx_portFree (c : Core) (x : Fin 8) (k : Ctx) : (c.setCtx x k).portFree = c.portFree := rfl
@[simp] theorem Core.setCtx_later (c : Core) (x : Fin 8) (k : Ctx) : (c.setCtx x k).later = c.later := rfl
@[simp] theorem Core.setCtx_cycAt (c : Core) (x : Fin 8) (k : Ctx) : (c.setCtx x k).cycAt = c.cycAt := rfl

/-! ### The executing context -/

theorem State.cn_def (s : State) : s.cn = s.core s.cur.core := rfl
theorem State.cc_def (s : State) : s.cc = (s.core s.cur.core).ctx s.cur.ctx := rfl

@[simp] theorem State.cn_modCn (s : State) (f : Core → Core) : (s.modCn f).cn = f s.cn :=
  State.core_modCore_same s s.cur.core f

@[simp] theorem State.cc_modCn (s : State) (f : Core → Core) : (s.modCn f).cc = (f s.cn).ctx s.cur.ctx := by
  simp [State.cc, State.ctx, State.modCn, State.cn]

theorem State.core_modCn_other (s : State) (f : Core → Core) (m : Node) (h : m ≠ s.cur.core) :
    (s.modCn f).core m = s.core m := State.core_modCore_other s _ m f h

@[simp] theorem State.cn_modCc (s : State) (f : Ctx → Ctx) : (s.modCc f).cn = s.cn.setCtx s.cur.ctx (f s.cc) :=
  State.core_modCore_same s s.cur.core _

@[simp] theorem State.cc_modCc (s : State) (f : Ctx → Ctx) : (s.modCc f).cc = f s.cc := by
  simp [State.cc, State.ctx, State.modCc, State.modCtx, State.setCtx]

theorem State.core_modCc_other (s : State) (f : Ctx → Ctx) (m : Node) (h : m ≠ s.cur.core) :
    (s.modCc f).core m = s.core m := State.core_modCore_other s _ m _ h

theorem State.ctx_modCc_other (s : State) (f : Ctx → Ctx) (x : Fin 8) (h : x ≠ s.cur.ctx) :
    (s.modCc f).ctx s.cur.core x = s.ctx s.cur.core x := by
  simp only [State.ctx, State.modCc, State.modCtx, State.setCtx, State.core_modCore_same]
  exact Core.ctx_setCtx_other _ _ _ _ h

@[simp] theorem State.cc_setS (s : State) (r : SReg) (x : Word) : (s.setS r x).cc = s.cc.setSreg r x :=
  State.cc_modCc s _
@[simp] theorem State.cc_setV (s : State) (r : VReg) (x : VVal) : (s.setV r x).cc = s.cc.setVreg r x :=
  State.cc_modCc s _
@[simp] theorem State.cc_setP (s : State) (r : PReg) (x : Pred) : (s.setP r x).cc = s.cc.setPreg r x :=
  State.cc_modCc s _

/-! ### Registers of a context (R111) -/

theorem Ctx.sreg_setSreg (k : Ctx) (r q : SReg) (x : Word) :
    (k.setSreg r x).sreg q = if q = r ∧ q ≠ 0 then x else k.sreg q := by
  by_cases hr : r = 0
  · subst hr
    by_cases hq : q = 0 <;> simp [Ctx.setSreg, Ctx.sreg, hq]
  · by_cases hq : q = 0
    · subst hq
      simp [Ctx.sreg]
    · by_cases he : q = r
      · subst he
        simp [Ctx.setSreg, Ctx.sreg, hq]
      · have hv : ¬ r.val = q.val := fun h => he (Fin.ext h.symm)
        simp [Ctx.setSreg, Ctx.sreg, hr, hq, he, hv]

theorem Ctx.vreg_setVreg (k : Ctx) (r q : VReg) (x : VVal) :
    (k.setVreg r x).vreg q = if q = r then x else k.vreg q := by
  by_cases he : q = r
  · subst he
    simp [Ctx.setVreg, Ctx.vreg]
  · have hv : ¬ r.val = q.val := fun h => he (Fin.ext h.symm)
    simp [Ctx.setVreg, Ctx.vreg, he, hv]

theorem Ctx.preg_setPreg (k : Ctx) (r q : PReg) (x : Pred) :
    (k.setPreg r x).preg q = if q = r then x else k.preg q := by
  by_cases he : q = r
  · subst he
    simp [Ctx.setPreg, Ctx.preg]
  · have hv : ¬ r.val = q.val := fun h => he (Fin.ext h.symm)
    simp [Ctx.setPreg, Ctx.preg, he, hv]

/-! ### Issuing (R135) -/

@[simp] theorem cc_issued (s : State) : (issued s).cc = s.cc := State.cc_modCn s _
@[simp] theorem cur_issued (s : State) : (issued s).cur = s.cur := rfl
@[simp] theorem sr_issued (s : State) (r : SReg) : (issued s).sr r = s.sr r := by simp [State.sr]
@[simp] theorem vr_issued (s : State) (r : VReg) : (issued s).vr r = s.vr r := by simp [State.vr]
@[simp] theorem pr_issued (s : State) (r : PReg) : (issued s).pr r = s.pr r := by simp [State.pr]

/-- R135: an instruction that can start runs. -/
theorem guarded_start {s : State} {i : Instr} (k : State → State) (h : canStart s i = true) :
    guarded s i k = k (issued s) := by simp [guarded, h]

/-- R135: a context that is passed over changes nothing. -/
theorem guarded_wait {s : State} {i : Instr} (k : State → State) (h : canStart s i = false) : guarded s i k = s := by
  simp [guarded, h]

/-- R334: an instruction that can start and passes its checks runs. -/
theorem checked_start {s : State} {i : Instr} (fault : State → Option TrapOf) (k : State → State)
    (h : canStart s i = true) (hf : fault (issued s) = none) : checked s i fault k = k (issued s) := by
  simp [checked, guarded, h, hf]

/-- R334: an instruction that fails a check takes a precise trap. -/
theorem checked_trap {s : State} {i : Instr} (fault : State → Option TrapOf) (k : State → State) (t : TrapOf)
    (h : canStart s i = true) (hf : fault (issued s) = some t) : checked s i fault k = precise (issued s) t := by
  simp [checked, guarded, h, hf]

/-! A register's waits (R140) are all that `await`, `forget` and `lag` change of a context. -/

@[simp] theorem Ctx.await_st (k : Ctx) (r : RegName) (a : Await) : (k.await r a).st = k.st := rfl
@[simp] theorem Ctx.await_s (k : Ctx) (r : RegName) (a : Await) : (k.await r a).s = k.s := rfl
@[simp] theorem Ctx.await_v (k : Ctx) (r : RegName) (a : Await) : (k.await r a).v = k.v := rfl
@[simp] theorem Ctx.await_p (k : Ctx) (r : RegName) (a : Await) : (k.await r a).p = k.p := rfl
@[simp] theorem Ctx.await_pc (k : Ctx) (r : RegName) (a : Await) : (k.await r a).pc = k.pc := rfl
@[simp] theorem Ctx.await_sts (k : Ctx) (r : RegName) (a : Await) : (k.await r a).sts = k.sts := rfl
@[simp] theorem Ctx.await_lpCnt (k : Ctx) (r : RegName) (a : Await) : (k.await r a).lpCnt = k.lpCnt := rfl
@[simp] theorem Ctx.await_lpBeg (k : Ctx) (r : RegName) (a : Await) : (k.await r a).lpBeg = k.lpBeg := rfl
@[simp] theorem Ctx.await_lpEnd (k : Ctx) (r : RegName) (a : Await) : (k.await r a).lpEnd = k.lpEnd := rfl
@[simp] theorem Ctx.await_bind0 (k : Ctx) (r : RegName) (a : Await) : (k.await r a).bind0 = k.bind0 := rfl
@[simp] theorem Ctx.await_bind1 (k : Ctx) (r : RegName) (a : Await) : (k.await r a).bind1 = k.bind1 := rfl
@[simp] theorem Ctx.await_fires (k : Ctx) (r : RegName) (a : Await) : (k.await r a).fires = k.fires := rfl
@[simp] theorem Ctx.await_blocked (k : Ctx) (r : RegName) (a : Await) : (k.await r a).blocked = k.blocked := rfl
@[simp] theorem Ctx.await_fences (k : Ctx) (r : RegName) (a : Await) : (k.await r a).fences = k.fences := rfl
@[simp] theorem Ctx.await_poked (k : Ctx) (r : RegName) (a : Await) : (k.await r a).poked = k.poked := rfl
@[simp] theorem Ctx.await_reports (k : Ctx) (r : RegName) (a : Await) : (k.await r a).reports = k.reports := rfl
@[simp] theorem Ctx.await_stuck (k : Ctx) (r : RegName) (a : Await) : (k.await r a).stuck = k.stuck := rfl
@[simp] theorem Ctx.await_kick (k : Ctx) (r : RegName) (a : Await) : (k.await r a).kick = k.kick := rfl
@[simp] theorem Ctx.await_notBefore (k : Ctx) (r : RegName) (a : Await) : (k.await r a).notBefore = k.notBefore := rfl
@[simp] theorem Ctx.forget_st (k : Ctx) (r : RegName) : (k.forget r).st = k.st := rfl
@[simp] theorem Ctx.forget_s (k : Ctx) (r : RegName) : (k.forget r).s = k.s := rfl
@[simp] theorem Ctx.forget_v (k : Ctx) (r : RegName) : (k.forget r).v = k.v := rfl
@[simp] theorem Ctx.forget_p (k : Ctx) (r : RegName) : (k.forget r).p = k.p := rfl
@[simp] theorem Ctx.forget_pc (k : Ctx) (r : RegName) : (k.forget r).pc = k.pc := rfl
@[simp] theorem Ctx.forget_sts (k : Ctx) (r : RegName) : (k.forget r).sts = k.sts := rfl
@[simp] theorem Ctx.forget_lpCnt (k : Ctx) (r : RegName) : (k.forget r).lpCnt = k.lpCnt := rfl
@[simp] theorem Ctx.forget_lpBeg (k : Ctx) (r : RegName) : (k.forget r).lpBeg = k.lpBeg := rfl
@[simp] theorem Ctx.forget_lpEnd (k : Ctx) (r : RegName) : (k.forget r).lpEnd = k.lpEnd := rfl
@[simp] theorem Ctx.forget_bind0 (k : Ctx) (r : RegName) : (k.forget r).bind0 = k.bind0 := rfl
@[simp] theorem Ctx.forget_bind1 (k : Ctx) (r : RegName) : (k.forget r).bind1 = k.bind1 := rfl
@[simp] theorem Ctx.forget_fires (k : Ctx) (r : RegName) : (k.forget r).fires = k.fires := rfl
@[simp] theorem Ctx.forget_blocked (k : Ctx) (r : RegName) : (k.forget r).blocked = k.blocked := rfl
@[simp] theorem Ctx.forget_fences (k : Ctx) (r : RegName) : (k.forget r).fences = k.fences := rfl
@[simp] theorem Ctx.forget_poked (k : Ctx) (r : RegName) : (k.forget r).poked = k.poked := rfl
@[simp] theorem Ctx.forget_reports (k : Ctx) (r : RegName) : (k.forget r).reports = k.reports := rfl
@[simp] theorem Ctx.forget_stuck (k : Ctx) (r : RegName) : (k.forget r).stuck = k.stuck := rfl
@[simp] theorem Ctx.forget_kick (k : Ctx) (r : RegName) : (k.forget r).kick = k.kick := rfl
@[simp] theorem Ctx.forget_notBefore (k : Ctx) (r : RegName) : (k.forget r).notBefore = k.notBefore := rfl
@[simp] theorem Ctx.lag_st (k : Ctx) (t : Nat) (l : List (RegName × Nat)) : (k.lag t l).st = k.st := rfl
@[simp] theorem Ctx.lag_s (k : Ctx) (t : Nat) (l : List (RegName × Nat)) : (k.lag t l).s = k.s := rfl
@[simp] theorem Ctx.lag_v (k : Ctx) (t : Nat) (l : List (RegName × Nat)) : (k.lag t l).v = k.v := rfl
@[simp] theorem Ctx.lag_p (k : Ctx) (t : Nat) (l : List (RegName × Nat)) : (k.lag t l).p = k.p := rfl
@[simp] theorem Ctx.lag_pc (k : Ctx) (t : Nat) (l : List (RegName × Nat)) : (k.lag t l).pc = k.pc := rfl
@[simp] theorem Ctx.lag_sts (k : Ctx) (t : Nat) (l : List (RegName × Nat)) : (k.lag t l).sts = k.sts := rfl
@[simp] theorem Ctx.lag_lpCnt (k : Ctx) (t : Nat) (l : List (RegName × Nat)) : (k.lag t l).lpCnt = k.lpCnt := rfl
@[simp] theorem Ctx.lag_lpBeg (k : Ctx) (t : Nat) (l : List (RegName × Nat)) : (k.lag t l).lpBeg = k.lpBeg := rfl
@[simp] theorem Ctx.lag_lpEnd (k : Ctx) (t : Nat) (l : List (RegName × Nat)) : (k.lag t l).lpEnd = k.lpEnd := rfl
@[simp] theorem Ctx.lag_bind0 (k : Ctx) (t : Nat) (l : List (RegName × Nat)) : (k.lag t l).bind0 = k.bind0 := rfl
@[simp] theorem Ctx.lag_bind1 (k : Ctx) (t : Nat) (l : List (RegName × Nat)) : (k.lag t l).bind1 = k.bind1 := rfl
@[simp] theorem Ctx.lag_fires (k : Ctx) (t : Nat) (l : List (RegName × Nat)) : (k.lag t l).fires = k.fires := rfl
@[simp] theorem Ctx.lag_blocked (k : Ctx) (t : Nat) (l : List (RegName × Nat)) : (k.lag t l).blocked = k.blocked := rfl
@[simp] theorem Ctx.lag_fences (k : Ctx) (t : Nat) (l : List (RegName × Nat)) : (k.lag t l).fences = k.fences := rfl
@[simp] theorem Ctx.lag_poked (k : Ctx) (t : Nat) (l : List (RegName × Nat)) : (k.lag t l).poked = k.poked := rfl
@[simp] theorem Ctx.lag_reports (k : Ctx) (t : Nat) (l : List (RegName × Nat)) : (k.lag t l).reports = k.reports := rfl
@[simp] theorem Ctx.lag_stuck (k : Ctx) (t : Nat) (l : List (RegName × Nat)) : (k.lag t l).stuck = k.stuck := rfl
@[simp] theorem Ctx.lag_kick (k : Ctx) (t : Nat) (l : List (RegName × Nat)) : (k.lag t l).kick = k.kick := rfl
@[simp] theorem Ctx.lag_notBefore (k : Ctx) (t : Nat) (l : List (RegName × Nat)) : (k.lag t l).notBefore = k.notBefore := rfl

end Sys2Proof.Machine
end

