-- ==== Sys2Proof/Laws/Ops.lean ====
section
/-! SUPPORT. Laws of the shared operations: what each can do, and what it leaves alone. -/

namespace Sys2Proof.Machine

/-! ### Messages -/

/-! `post` puts one message into flight under the next name. -/

@[simp] theorem post_now (s : State) (src : Node) (after : List Nat) (k : MsgKind) : (post s src after k).now = s.now := rfl
@[simp] theorem post_cores (s : State) (src : Node) (after : List Nat) (k : MsgKind) : (post s src after k).cores = s.cores := rfl
@[simp] theorem post_hubs (s : State) (src : Node) (after : List Nat) (k : MsgKind) : (post s src after k).hubs = s.hubs := rfl
@[simp] theorem post_bridges (s : State) (src : Node) (after : List Nat) (k : MsgKind) : (post s src after k).bridges = s.bridges := rfl
@[simp] theorem post_modules (s : State) (src : Node) (after : List Nat) (k : MsgKind) : (post s src after k).modules = s.modules := rfl
@[simp] theorem post_domains (s : State) (src : Node) (after : List Nat) (k : MsgKind) : (post s src after k).domains = s.domains := rfl
@[simp] theorem post_draws (s : State) (src : Node) (after : List Nat) (k : MsgKind) : (post s src after k).draws = s.draws := rfl
@[simp] theorem post_lots (s : State) (src : Node) (after : List Nat) (k : MsgKind) : (post s src after k).lots = s.lots := rfl
@[simp] theorem post_agenda (s : State) (src : Node) (after : List Nat) (k : MsgKind) : (post s src after k).agenda = s.agenda := rfl
@[simp] theorem post_cur (s : State) (src : Node) (after : List Nat) (k : MsgKind) : (post s src after k).cur = s.cur := rfl
@[simp] theorem post_arriving (s : State) (src : Node) (after : List Nat) (k : MsgKind) : (post s src after k).arriving = s.arriving := rfl
@[simp] theorem post_nextId (s : State) (src : Node) (after : List Nat) (k : MsgKind) :
    (post s src after k).nextId = s.nextId + 1 := rfl

/-- The message that `post` puts into flight: its kind, source and what it waits for are the arguments. -/
theorem post_net (s : State) (src : Node) (after : List Nat) (k : MsgKind) :
    ∃ m : Msg, (post s src after k).net = s.net ++ [m] ∧ m.id = s.nextId ∧ m.kind = k ∧ m.src = src ∧ m.after = after :=
  ⟨_, rfl, rfl, rfl, rfl, rfl⟩

/-! `unpost` takes one message out of flight. -/

@[simp] theorem unpost_now (s : State) (m : Nat) : (unpost s m).now = s.now := rfl
@[simp] theorem unpost_cores (s : State) (m : Nat) : (unpost s m).cores = s.cores := rfl
@[simp] theorem unpost_hubs (s : State) (m : Nat) : (unpost s m).hubs = s.hubs := rfl
@[simp] theorem unpost_bridges (s : State) (m : Nat) : (unpost s m).bridges = s.bridges := rfl
@[simp] theorem unpost_modules (s : State) (m : Nat) : (unpost s m).modules = s.modules := rfl
@[simp] theorem unpost_domains (s : State) (m : Nat) : (unpost s m).domains = s.domains := rfl
@[simp] theorem unpost_nextId (s : State) (m : Nat) : (unpost s m).nextId = s.nextId := rfl
@[simp] theorem unpost_draws (s : State) (m : Nat) : (unpost s m).draws = s.draws := rfl
@[simp] theorem unpost_lots (s : State) (m : Nat) : (unpost s m).lots = s.lots := rfl
@[simp] theorem unpost_agenda (s : State) (m : Nat) : (unpost s m).agenda = s.agenda := rfl
@[simp] theorem unpost_cur (s : State) (m : Nat) : (unpost s m).cur = s.cur := rfl
@[simp] theorem unpost_arriving (s : State) (m : Nat) : (unpost s m).arriving = s.arriving := rfl

theorem mem_unpost_net (s : State) (m : Nat) (x : Msg) : x ∈ (unpost s m).net ↔ x ∈ s.net ∧ x.id ≠ m := by
  simp [unpost]

/-- A part of the state that `post` leaves alone is left alone by a list of them. -/
theorem foldl_post {α : Type} (f : State → α) (l : List Node) (k : Node → MsgKind) (s : State)
    (h : ∀ s n, f (post s n [] (k n)) = f s) : f (l.foldl (fun s n => post s n [] (k n)) s) = f s := by
  induction l generalizing s with
  | nil => rfl
  | cons n l ih => rw [List.foldl_cons, ih, h]

/-! ### Seal requests (R322): a request changes its domain and puts messages into flight, and nothing else. -/

@[simp] theorem requestSeal_now (s : State) (d : Nat) : (requestSeal s d).now = s.now := by
  simp only [requestSeal]
  exact (foldl_post (·.now) _ _ _ fun _ _ => rfl).trans rfl
@[simp] theorem requestSeal_cores (s : State) (d : Nat) : (requestSeal s d).cores = s.cores := by
  simp only [requestSeal]
  exact (foldl_post (·.cores) _ _ _ fun _ _ => rfl).trans rfl
@[simp] theorem requestSeal_hubs (s : State) (d : Nat) : (requestSeal s d).hubs = s.hubs := by
  simp only [requestSeal]
  exact (foldl_post (·.hubs) _ _ _ fun _ _ => rfl).trans rfl
@[simp] theorem requestSeal_bridges (s : State) (d : Nat) : (requestSeal s d).bridges = s.bridges := by
  simp only [requestSeal]
  exact (foldl_post (·.bridges) _ _ _ fun _ _ => rfl).trans rfl
@[simp] theorem requestSeal_modules (s : State) (d : Nat) : (requestSeal s d).modules = s.modules := by
  simp only [requestSeal]
  exact (foldl_post (·.modules) _ _ _ fun _ _ => rfl).trans rfl
@[simp] theorem requestSeal_draws (s : State) (d : Nat) : (requestSeal s d).draws = s.draws := by
  simp only [requestSeal]
  exact (foldl_post (·.draws) _ _ _ fun _ _ => rfl).trans rfl
@[simp] theorem requestSeal_lots (s : State) (d : Nat) : (requestSeal s d).lots = s.lots := by
  simp only [requestSeal]
  exact (foldl_post (·.lots) _ _ _ fun _ _ => rfl).trans rfl
@[simp] theorem requestSeal_agenda (s : State) (d : Nat) : (requestSeal s d).agenda = s.agenda := by
  simp only [requestSeal]
  exact (foldl_post (·.agenda) _ _ _ fun _ _ => rfl).trans rfl
@[simp] theorem requestSeal_cur (s : State) (d : Nat) : (requestSeal s d).cur = s.cur := by
  simp only [requestSeal]
  exact (foldl_post (·.cur) _ _ _ fun _ _ => rfl).trans rfl
@[simp] theorem requestSeal_arriving (s : State) (d : Nat) : (requestSeal s d).arriving = s.arriving := by
  simp only [requestSeal]
  exact (foldl_post (·.arriving) _ _ _ fun _ _ => rfl).trans rfl

theorem requestSeal_domains (s : State) (d : Nat) :
    (requestSeal s d).domains = AMap.put s.domains d { s.domain d with req := true } := by
  simp only [requestSeal]
  exact (foldl_post (·.domains) _ _ _ fun _ _ => rfl).trans rfl

@[simp] theorem requestSealAt_now (s : State) (n : Node) : (requestSealAt s n).now = s.now := by
  simp only [requestSealAt]; split <;> simp
@[simp] theorem requestSealAt_cores (s : State) (n : Node) : (requestSealAt s n).cores = s.cores := by
  simp only [requestSealAt]; split <;> simp
@[simp] theorem requestSealAt_hubs (s : State) (n : Node) : (requestSealAt s n).hubs = s.hubs := by
  simp only [requestSealAt]; split <;> simp
@[simp] theorem requestSealAt_bridges (s : State) (n : Node) : (requestSealAt s n).bridges = s.bridges := by
  simp only [requestSealAt]; split <;> simp
@[simp] theorem requestSealAt_modules (s : State) (n : Node) : (requestSealAt s n).modules = s.modules := by
  simp only [requestSealAt]; split <;> simp
@[simp] theorem requestSealAt_draws (s : State) (n : Node) : (requestSealAt s n).draws = s.draws := by
  simp only [requestSealAt]; split <;> simp
@[simp] theorem requestSealAt_lots (s : State) (n : Node) : (requestSealAt s n).lots = s.lots := by
  simp only [requestSealAt]; split <;> simp
@[simp] theorem requestSealAt_agenda (s : State) (n : Node) : (requestSealAt s n).agenda = s.agenda := by
  simp only [requestSealAt]; split <;> simp
@[simp] theorem requestSealAt_cur (s : State) (n : Node) : (requestSealAt s n).cur = s.cur := by
  simp only [requestSealAt]; split <;> simp
@[simp] theorem requestSealAt_arriving (s : State) (n : Node) : (requestSealAt s n).arriving = s.arriving := by
  simp only [requestSealAt]; split <;> simp

theorem core_of_cores {s t : State} (h : t.cores = s.cores) (n : Node) : t.core n = s.core n := by
  simp [State.core, h]

@[simp] theorem post_core (s : State) (src : Node) (after : List Nat) (k : MsgKind) (n : Node) :
    (post s src after k).core n = s.core n := rfl
@[simp] theorem unpost_core (s : State) (m : Nat) (n : Node) : (unpost s m).core n = s.core n := rfl
@[simp] theorem requestSealAt_core (s : State) (n m : Node) : (requestSealAt s n).core m = s.core m :=
  core_of_cores (requestSealAt_cores s n) m

/-! ### The L1 (R97): reaching a sector changes the L1, the logged bits and the beat, and nothing else. -/

@[simp] theorem Core.touch_ctxs (c : Core) (a : Nat) (d : Bool) : (c.touch a d).ctxs = c.ctxs := by
  simp only [Core.touch]; split <;> rfl
@[simp] theorem Core.touch_trg (c : Core) (a : Nat) (d : Bool) : (c.touch a d).trg = c.trg := by
  simp only [Core.touch]; split <;> rfl
@[simp] theorem Core.touch_comm (c : Core) (a : Nat) (d : Bool) : (c.touch a d).comm = c.comm := by
  simp only [Core.touch]; split <;> rfl
@[simp] theorem Core.touch_sync (c : Core) (a : Nat) (d : Bool) : (c.touch a d).sync = c.sync := by
  simp only [Core.touch]; split <;> rfl
@[simp] theorem Core.touch_mx (c : Core) (a : Nat) (d : Bool) : (c.touch a d).mx = c.mx := by
  simp only [Core.touch]; split <;> rfl
@[simp] theorem Core.touch_rcv (c : Core) (a : Nat) (d : Bool) : (c.touch a d).rcv = c.rcv := by
  simp only [Core.touch]; split <;> rfl
@[simp] theorem Core.touch_lastIssued (c : Core) (a : Nat) (d : Bool) : (c.touch a d).lastIssued = c.lastIssued := by
  simp only [Core.touch]; split <;> rfl
@[simp] theorem Core.touch_yielded (c : Core) (a : Nat) (d : Bool) : (c.touch a d).yielded = c.yielded := by
  simp only [Core.touch]; split <;> rfl
@[simp] theorem Core.touch_divFree (c : Core) (a : Nat) (d : Bool) : (c.touch a d).divFree = c.divFree := by
  simp only [Core.touch]; split <;> rfl
@[simp] theorem Core.touch_cycBase (c : Core) (a : Nat) (d : Bool) : (c.touch a d).cycBase = c.cycBase := by
  simp only [Core.touch]; split <;> rfl
@[simp] theorem Core.touch_cycAt (c : Core) (a : Nat) (d : Bool) : (c.touch a d).cycAt = c.cycAt := by
  simp only [Core.touch]; split <;> rfl
@[simp] theorem Core.touch_issueFrom (c : Core) (a : Nat) (d : Bool) : (c.touch a d).issueFrom = c.issueFrom := by
  simp only [Core.touch]; split <;> rfl
@[simp] theorem Core.touch_later (c : Core) (a : Nat) (d : Bool) : (c.touch a d).later = c.later := by
  simp only [Core.touch]; split <;> rfl
@[simp] theorem Core.touch_portFree (c : Core) (a : Nat) (d : Bool) : (c.touch a d).portFree = c.portFree := by
  simp only [Core.touch]; split <;> rfl
@[simp] theorem Core.touch_mem_mem (c : Core) (a : Nat) (d : Bool) : (c.touch a d).mem.mem = c.mem.mem := by
  simp only [Core.touch]; split <;> rfl
@[simp] theorem Core.touch_mem_undef (c : Core) (a : Nat) (d : Bool) : (c.touch a d).mem.undef = c.mem.undef := by
  simp only [Core.touch]; split <;> rfl
@[simp] theorem Core.touch_mem_full (c : Core) (a : Nat) (d : Bool) : (c.touch a d).mem.full = c.mem.full := by
  simp only [Core.touch]; split <;> rfl
@[simp] theorem Core.touch_mem_written (c : Core) (a : Nat) (d : Bool) : (c.touch a d).mem.written = c.mem.written := by
  simp only [Core.touch]; split <;> rfl
@[simp] theorem Core.touch_mem_classes (c : Core) (a : Nat) (d : Bool) : (c.touch a d).mem.classes = c.mem.classes := by
  simp only [Core.touch]; split <;> rfl
@[simp] theorem Core.touch_mem_lineHist (c : Core) (a : Nat) (d : Bool) : (c.touch a d).mem.lineHist = c.mem.lineHist := by
  simp only [Core.touch]; split <;> rfl
@[simp] theorem Core.touch_mem_icache (c : Core) (a : Nat) (d : Bool) : (c.touch a d).mem.icache = c.mem.icache := by
  simp only [Core.touch]; split <;> rfl
@[simp] theorem Core.touch_mem_bankLive (c : Core) (a : Nat) (d : Bool) : (c.touch a d).mem.bankLive = c.mem.bankLive := by
  simp only [Core.touch]; split <;> rfl
@[simp] theorem Core.touch_mem_bankNext (c : Core) (a : Nat) (d : Bool) : (c.touch a d).mem.bankNext = c.mem.bankNext := by
  simp only [Core.touch]; split <;> rfl
@[simp] theorem Core.touch_mem_fills (c : Core) (a : Nat) (d : Bool) : (c.touch a d).mem.fills = c.mem.fills := by
  simp only [Core.touch]; split <;> rfl

/-- What every `touch` leaves alone, `touchRange` leaves alone. -/
theorem Core.touchRange_same {α : Type} (f : Core → α) (c : Core) (a n : Nat) (d : Bool)
    (h : ∀ c g, f (Core.touch c g d) = f c) : f (c.touchRange a n d) = f c := by
  simp only [Core.touchRange]
  generalize granules a n = l
  induction l generalizing c with
  | nil => rfl
  | cons g l ih => rw [List.foldl_cons, ih, h]

@[simp] theorem Core.touchRange_ctxs (c : Core) (a n : Nat) (d : Bool) : (c.touchRange a n d).ctxs = c.ctxs :=
  Core.touchRange_same (·.ctxs) c a n d fun _ _ => by simp
@[simp] theorem Core.touchRange_trg (c : Core) (a n : Nat) (d : Bool) : (c.touchRange a n d).trg = c.trg :=
  Core.touchRange_same (·.trg) c a n d fun _ _ => by simp
@[simp] theorem Core.touchRange_comm (c : Core) (a n : Nat) (d : Bool) : (c.touchRange a n d).comm = c.comm :=
  Core.touchRange_same (·.comm) c a n d fun _ _ => by simp
@[simp] theorem Core.touchRange_sync (c : Core) (a n : Nat) (d : Bool) : (c.touchRange a n d).sync = c.sync :=
  Core.touchRange_same (·.sync) c a n d fun _ _ => by simp
@[simp] theorem Core.touchRange_mx (c : Core) (a n : Nat) (d : Bool) : (c.touchRange a n d).mx = c.mx :=
  Core.touchRange_same (·.mx) c a n d fun _ _ => by simp
@[simp] theorem Core.touchRange_rcv (c : Core) (a n : Nat) (d : Bool) : (c.touchRange a n d).rcv = c.rcv :=
  Core.touchRange_same (·.rcv) c a n d fun _ _ => by simp
@[simp] theorem Core.touchRange_lastIssued (c : Core) (a n : Nat) (d : Bool) : (c.touchRange a n d).lastIssued = c.lastIssued :=
  Core.touchRange_same (·.lastIssued) c a n d fun _ _ => by simp
@[simp] theorem Core.touchRange_yielded (c : Core) (a n : Nat) (d : Bool) : (c.touchRange a n d).yielded = c.yielded :=
  Core.touchRange_same (·.yielded) c a n d fun _ _ => by simp
@[simp] theorem Core.touchRange_divFree (c : Core) (a n : Nat) (d : Bool) : (c.touchRange a n d).divFree = c.divFree :=
  Core.touchRange_same (·.divFree) c a n d fun _ _ => by simp
@[simp] theorem Core.touchRange_cycBase (c : Core) (a n : Nat) (d : Bool) : (c.touchRange a n d).cycBase = c.cycBase :=
  Core.touchRange_same (·.cycBase) c a n d fun _ _ => by simp
@[simp] theorem Core.touchRange_cycAt (c : Core) (a n : Nat) (d : Bool) : (c.touchRange a n d).cycAt = c.cycAt :=
  Core.touchRange_same (·.cycAt) c a n d fun _ _ => by simp
@[simp] theorem Core.touchRange_issueFrom (c : Core) (a n : Nat) (d : Bool) : (c.touchRange a n d).issueFrom = c.issueFrom :=
  Core.touchRange_same (·.issueFrom) c a n d fun _ _ => by simp
@[simp] theorem Core.touchRange_later (c : Core) (a n : Nat) (d : Bool) : (c.touchRange a n d).later = c.later :=
  Core.touchRange_same (·.later) c a n d fun _ _ => by simp
@[simp] theorem Core.touchRange_portFree (c : Core) (a n : Nat) (d : Bool) : (c.touchRange a n d).portFree = c.portFree :=
  Core.touchRange_same (·.portFree) c a n d fun _ _ => by simp
@[simp] theorem Core.touchRange_mem_mem (c : Core) (a n : Nat) (d : Bool) :
    (c.touchRange a n d).mem.mem = c.mem.mem := Core.touchRange_same (·.mem.mem) c a n d fun _ _ => by simp
@[simp] theorem Core.touchRange_mem_undef (c : Core) (a n : Nat) (d : Bool) :
    (c.touchRange a n d).mem.undef = c.mem.undef := Core.touchRange_same (·.mem.undef) c a n d fun _ _ => by simp
@[simp] theorem Core.touchRange_mem_full (c : Core) (a n : Nat) (d : Bool) :
    (c.touchRange a n d).mem.full = c.mem.full := Core.touchRange_same (·.mem.full) c a n d fun _ _ => by simp
@[simp] theorem Core.touchRange_mem_written (c : Core) (a n : Nat) (d : Bool) :
    (c.touchRange a n d).mem.written = c.mem.written := Core.touchRange_same (·.mem.written) c a n d fun _ _ => by simp
@[simp] theorem Core.touchRange_mem_classes (c : Core) (a n : Nat) (d : Bool) :
    (c.touchRange a n d).mem.classes = c.mem.classes := Core.touchRange_same (·.mem.classes) c a n d fun _ _ => by simp
@[simp] theorem Core.touchRange_mem_lineHist (c : Core) (a n : Nat) (d : Bool) :
    (c.touchRange a n d).mem.lineHist = c.mem.lineHist := Core.touchRange_same (·.mem.lineHist) c a n d fun _ _ => by simp
@[simp] theorem Core.touchRange_mem_icache (c : Core) (a n : Nat) (d : Bool) :
    (c.touchRange a n d).mem.icache = c.mem.icache := Core.touchRange_same (·.mem.icache) c a n d fun _ _ => by simp
@[simp] theorem Core.touchRange_mem_bankLive (c : Core) (a n : Nat) (d : Bool) :
    (c.touchRange a n d).mem.bankLive = c.mem.bankLive := Core.touchRange_same (·.mem.bankLive) c a n d fun _ _ => by simp
@[simp] theorem Core.touchRange_mem_bankNext (c : Core) (a n : Nat) (d : Bool) :
    (c.touchRange a n d).mem.bankNext = c.mem.bankNext := Core.touchRange_same (·.mem.bankNext) c a n d fun _ _ => by simp
@[simp] theorem Core.touchRange_mem_fills (c : Core) (a n : Nat) (d : Bool) :
    (c.touchRange a n d).mem.fills = c.mem.fills := Core.touchRange_same (·.mem.fills) c a n d fun _ _ => by simp

/-! ### Bytes written without a log record -/

@[simp] theorem Core.pokeRaw_ctxs (c : Core) (a : Nat) (bs : List Byte) : (c.pokeRaw a bs).ctxs = c.ctxs := rfl
@[simp] theorem Core.pokeRaw_trg (c : Core) (a : Nat) (bs : List Byte) : (c.pokeRaw a bs).trg = c.trg := rfl
@[simp] theorem Core.pokeRaw_comm (c : Core) (a : Nat) (bs : List Byte) : (c.pokeRaw a bs).comm = c.comm := rfl
@[simp] theorem Core.pokeRaw_sync (c : Core) (a : Nat) (bs : List Byte) : (c.pokeRaw a bs).sync = c.sync := rfl
@[simp] theorem Core.pokeRaw_mx (c : Core) (a : Nat) (bs : List Byte) : (c.pokeRaw a bs).mx = c.mx := rfl
@[simp] theorem Core.pokeRaw_rcv (c : Core) (a : Nat) (bs : List Byte) : (c.pokeRaw a bs).rcv = c.rcv := rfl
@[simp] theorem Core.pokeRaw_lastIssued (c : Core) (a : Nat) (bs : List Byte) : (c.pokeRaw a bs).lastIssued = c.lastIssued := rfl
@[simp] theorem Core.pokeRaw_yielded (c : Core) (a : Nat) (bs : List Byte) : (c.pokeRaw a bs).yielded = c.yielded := rfl
@[simp] theorem Core.pokeRaw_divFree (c : Core) (a : Nat) (bs : List Byte) : (c.pokeRaw a bs).divFree = c.divFree := rfl
@[simp] theorem Core.pokeRaw_cycBase (c : Core) (a : Nat) (bs : List Byte) : (c.pokeRaw a bs).cycBase = c.cycBase := rfl
@[simp] theorem Core.pokeRaw_cycAt (c : Core) (a : Nat) (bs : List Byte) : (c.pokeRaw a bs).cycAt = c.cycAt := rfl
@[simp] theorem Core.pokeRaw_issueFrom (c : Core) (a : Nat) (bs : List Byte) : (c.pokeRaw a bs).issueFrom = c.issueFrom := rfl
@[simp] theorem Core.pokeRaw_later (c : Core) (a : Nat) (bs : List Byte) : (c.pokeRaw a bs).later = c.later := rfl
@[simp] theorem Core.pokeRaw_portFree (c : Core) (a : Nat) (bs : List Byte) : (c.pokeRaw a bs).portFree = c.portFree := rfl
@[simp] theorem Core.pokeRaw_mem_full (c : Core) (a : Nat) (bs : List Byte) : (c.pokeRaw a bs).mem.full = c.mem.full := rfl
@[simp] theorem Core.pokeRaw_mem_logged (c : Core) (a : Nat) (bs : List Byte) : (c.pokeRaw a bs).mem.logged = c.mem.logged := rfl
@[simp] theorem Core.pokeRaw_mem_l1 (c : Core) (a : Nat) (bs : List Byte) : (c.pokeRaw a bs).mem.l1 = c.mem.l1 := rfl
@[simp] theorem Core.pokeRaw_mem_shr (c : Core) (a : Nat) (bs : List Byte) : (c.pokeRaw a bs).mem.shr = c.mem.shr := rfl
@[simp] theorem Core.pokeRaw_mem_written (c : Core) (a : Nat) (bs : List Byte) : (c.pokeRaw a bs).mem.written = c.mem.written := rfl
@[simp] theorem Core.pokeRaw_mem_classes (c : Core) (a : Nat) (bs : List Byte) : (c.pokeRaw a bs).mem.classes = c.mem.classes := rfl
@[simp] theorem Core.pokeRaw_mem_lineHist (c : Core) (a : Nat) (bs : List Byte) : (c.pokeRaw a bs).mem.lineHist = c.mem.lineHist := rfl
@[simp] theorem Core.pokeRaw_mem_icache (c : Core) (a : Nat) (bs : List Byte) : (c.pokeRaw a bs).mem.icache = c.mem.icache := rfl
@[simp] theorem Core.pokeRaw_mem_bankLive (c : Core) (a : Nat) (bs : List Byte) : (c.pokeRaw a bs).mem.bankLive = c.mem.bankLive := rfl
@[simp] theorem Core.pokeRaw_mem_bankNext (c : Core) (a : Nat) (bs : List Byte) : (c.pokeRaw a bs).mem.bankNext = c.mem.bankNext := rfl
@[simp] theorem Core.pokeRaw_mem_fills (c : Core) (a : Nat) (bs : List Byte) : (c.pokeRaw a bs).mem.fills = c.mem.fills := rfl
@[simp] theorem Core.pokeRaw_mem_beat (c : Core) (a : Nat) (bs : List Byte) : (c.pokeRaw a bs).mem.beat = c.mem.beat := rfl

theorem Core.pokeRaw_wf (c : Core) (a : Nat) (bs : List Byte) (h : memWf c.mem.mem = true) :
    memWf (c.pokeRaw a bs).mem.mem = true := memWrite_wf _ _ _ h

/-- An undefined span that a write leaves contains none of the bytes written. -/
theorem cutSpans_outside (lo n : Nat) (l : List (Nat × Nat × Nat)) (a : Nat) (h : inRange a lo n = false) :
    ((cutSpans lo n l).find? fun u => inRange a u.1 u.2.1).map (·.2.2)
      = (l.find? fun u => inRange a u.1 u.2.1).map (·.2.2) := by
  induction l with
  | nil => rfl
  | cons u t ih =>
    obtain ⟨b, len, e⟩ := u
    simp only [inRange, Bool.and_eq_false_iff, decide_eq_false_iff_not] at h
    simp only [cutSpans]
    by_cases ho : overlaps lo n b len = true
    · rw [if_pos ho]
      simp only [overlaps, Bool.and_eq_true, decide_eq_true_eq] at ho
      by_cases hin : inRange a b len = true
      · have hin' := hin
        simp only [inRange, Bool.and_eq_true, decide_eq_true_eq] at hin'
        rw [List.find?_cons_of_pos (by simpa using hin)]
        by_cases h1 : b < lo
        · by_cases hlo : a < lo
          · have : inRange a b (lo - b) = true := by simp [inRange]; omega
            simp [h1, this]
          · have h2 : lo + n < b + len := by omega
            have hn : inRange a b (lo - b) = false := by simp [inRange]; omega
            have hp : inRange a (lo + n) (b + len - (lo + n)) = true := by simp [inRange]; omega
            simp [h1, h2, hn, hp]
        · have h2 : lo + n < b + len := by omega
          have hp : inRange a (lo + n) (b + len - (lo + n)) = true := by simp [inRange]; omega
          simp [h1, h2, hp]
      · have hin' : inRange a b len = false := by simpa using hin
        rw [List.find?_cons_of_neg (by simpa using hin'), ← ih]
        simp only [inRange, Bool.and_eq_false_iff, decide_eq_false_iff_not] at hin'
        have hn : inRange a b (lo - b) = false := by simp [inRange]; omega
        have hp : inRange a (lo + n) (b + len - (lo + n)) = false := by simp [inRange]; omega
        by_cases h1 : b < lo <;> by_cases h2 : lo + n < b + len <;>
          simp [h1, h2, hn, hp]
    · rw [if_neg ho]
      by_cases hin : inRange a b len = true
      · simp [hin]
      · simp only [Bool.not_eq_true] at hin
        simp [hin, ih]

theorem cutSpans_inside (lo n : Nat) (l : List (Nat × Nat × Nat)) (a : Nat) (h : inRange a lo n = true) :
    (cutSpans lo n l).find? (fun u => inRange a u.1 u.2.1) = none := by
  simp only [inRange, Bool.and_eq_true, decide_eq_true_eq] at h
  induction l with
  | nil => rfl
  | cons u t ih =>
    obtain ⟨b, len, e⟩ := u
    simp only [cutSpans]
    have hn : inRange a b (lo - b) = false := by simp [inRange]; omega
    have hp : inRange a (lo + n) (b + len - (lo + n)) = false := by simp [inRange]; omega
    by_cases ho : overlaps lo n b len = true
    · rw [if_pos ho]
      by_cases h1 : b < lo <;> by_cases h2 : lo + n < b + len <;>
        simp [h1, h2, hn, hp, ih]
    · rw [if_neg ho]
      simp only [overlaps, Bool.not_eq_true, Bool.and_eq_false_iff, decide_eq_false_iff_not] at ho
      have : inRange a b len = false := by simp [inRange]; omega
      simp [this, ih]

/-- A byte outside a write reads as before. -/
theorem spanByte_write_outside (m : Memory) (u : List (Nat × Nat × Nat)) (a c : Nat) (bs : List Byte)
    (hw : memWf m = true) (h : inRange c a bs.length = false) :
    spanByte (memWrite m a bs) (cutSpans a bs.length u) c = spanByte m u c := by
  have e := cutSpans_outside a bs.length u c h
  simp only [spanByte]
  cases hx : (cutSpans a bs.length u).find? (fun u => inRange c u.1 u.2.1) <;>
    cases hy : u.find? (fun u => inRange c u.1 u.2.1) <;> simp_all [memGet_memWrite_outside]

/-- A byte of a write reads as what was written. -/
theorem spanByte_write_inside (m : Memory) (u : List (Nat × Nat × Nat)) (a i : Nat) (bs : List Byte)
    (hw : memWf m = true) (h : i < bs.length) :
    spanByte (memWrite m a bs) (cutSpans a bs.length u) (a + i) = bs[i] := by
  have e := cutSpans_inside a bs.length u (a + i) (by simp [inRange]; omega)
  simp [spanByte, e, memGet_memWrite_inside m a i bs hw h]

/-! ### First-store logging (R317–R320) -/

@[simp] theorem Core.writeRecord_ctxs (c : Core) (g : Nat) : (c.writeRecord g).ctxs = c.ctxs := by
  simp only [Core.writeRecord, Core.pokeRaw]
@[simp] theorem Core.writeRecord_trg (c : Core) (g : Nat) : (c.writeRecord g).trg = c.trg := by
  simp only [Core.writeRecord, Core.pokeRaw]
@[simp] theorem Core.writeRecord_comm (c : Core) (g : Nat) : (c.writeRecord g).comm = c.comm := by
  simp only [Core.writeRecord, Core.pokeRaw]
@[simp] theorem Core.writeRecord_sync (c : Core) (g : Nat) : (c.writeRecord g).sync = c.sync := by
  simp only [Core.writeRecord, Core.pokeRaw]
@[simp] theorem Core.writeRecord_mx (c : Core) (g : Nat) : (c.writeRecord g).mx = c.mx := by
  simp only [Core.writeRecord, Core.pokeRaw]
@[simp] theorem Core.writeRecord_lastIssued (c : Core) (g : Nat) : (c.writeRecord g).lastIssued = c.lastIssued := by
  simp only [Core.writeRecord, Core.pokeRaw]
@[simp] theorem Core.writeRecord_yielded (c : Core) (g : Nat) : (c.writeRecord g).yielded = c.yielded := by
  simp only [Core.writeRecord, Core.pokeRaw]
@[simp] theorem Core.writeRecord_divFree (c : Core) (g : Nat) : (c.writeRecord g).divFree = c.divFree := by
  simp only [Core.writeRecord, Core.pokeRaw]
@[simp] theorem Core.writeRecord_cycBase (c : Core) (g : Nat) : (c.writeRecord g).cycBase = c.cycBase := by
  simp only [Core.writeRecord, Core.pokeRaw]
@[simp] theorem Core.writeRecord_cycAt (c : Core) (g : Nat) : (c.writeRecord g).cycAt = c.cycAt := by
  simp only [Core.writeRecord, Core.pokeRaw]
@[simp] theorem Core.writeRecord_issueFrom (c : Core) (g : Nat) : (c.writeRecord g).issueFrom = c.issueFrom := by
  simp only [Core.writeRecord, Core.pokeRaw]
@[simp] theorem Core.writeRecord_later (c : Core) (g : Nat) : (c.writeRecord g).later = c.later := by
  simp only [Core.writeRecord, Core.pokeRaw]
@[simp] theorem Core.writeRecord_portFree (c : Core) (g : Nat) : (c.writeRecord g).portFree = c.portFree := by
  simp only [Core.writeRecord, Core.pokeRaw]
@[simp] theorem Core.writeRecord_mem_full (c : Core) (g : Nat) : (c.writeRecord g).mem.full = c.mem.full := by
  simp only [Core.writeRecord, Core.pokeRaw]
@[simp] theorem Core.writeRecord_mem_l1 (c : Core) (g : Nat) : (c.writeRecord g).mem.l1 = c.mem.l1 := by
  simp only [Core.writeRecord, Core.pokeRaw]
@[simp] theorem Core.writeRecord_mem_shr (c : Core) (g : Nat) : (c.writeRecord g).mem.shr = c.mem.shr := by
  simp only [Core.writeRecord, Core.pokeRaw]
@[simp] theorem Core.writeRecord_mem_written (c : Core) (g : Nat) : (c.writeRecord g).mem.written = c.mem.written := by
  simp only [Core.writeRecord, Core.pokeRaw]
@[simp] theorem Core.writeRecord_mem_classes (c : Core) (g : Nat) : (c.writeRecord g).mem.classes = c.mem.classes := by
  simp only [Core.writeRecord, Core.pokeRaw]
@[simp] theorem Core.writeRecord_mem_lineHist (c : Core) (g : Nat) : (c.writeRecord g).mem.lineHist = c.mem.lineHist := by
  simp only [Core.writeRecord, Core.pokeRaw]
@[simp] theorem Core.writeRecord_mem_icache (c : Core) (g : Nat) : (c.writeRecord g).mem.icache = c.mem.icache := by
  simp only [Core.writeRecord, Core.pokeRaw]
@[simp] theorem Core.writeRecord_mem_bankLive (c : Core) (g : Nat) : (c.writeRecord g).mem.bankLive = c.mem.bankLive := by
  simp only [Core.writeRecord, Core.pokeRaw]
@[simp] theorem Core.writeRecord_mem_bankNext (c : Core) (g : Nat) : (c.writeRecord g).mem.bankNext = c.mem.bankNext := by
  simp only [Core.writeRecord, Core.pokeRaw]
@[simp] theorem Core.writeRecord_mem_fills (c : Core) (g : Nat) : (c.writeRecord g).mem.fills = c.mem.fills := by
  simp only [Core.writeRecord, Core.pokeRaw]
@[simp] theorem Core.writeRecord_mem_beat (c : Core) (g : Nat) : (c.writeRecord g).mem.beat = c.mem.beat := by
  simp only [Core.writeRecord, Core.pokeRaw]


theorem logGranule_core_other (s : State) (n m : Node) (g : Nat) (h : m ≠ n) :
    (logGranule s n g).core m = s.core m := by
  simp only [logGranule]
  split
  · exact State.core_setCore_other _ _ _ _ h
  · split
    · exact State.core_setCore_other _ _ _ _ h
    · split
      · rw [requestSealAt_core]; exact State.core_setCore_other _ _ _ _ h
      · exact State.core_setCore_other _ _ _ _ h

/-- A part of a core that UNREC leaves alone is left alone where the log ends (R320). -/
theorem Core.stopLog_same {α : Type} (f : Core → α) (c : Core)
    (hu : ∀ c : Core, f { c with rcv := { c.rcv with logCtl := c.rcv.logCtl ||| 0x8000 } } = f c) :
    f c.stopLog = f c := by
  simp only [Core.stopLog]
  split
  · exact hu c
  · rfl

@[simp] theorem Core.stopLog_mem (c : Core) : c.stopLog.mem = c.mem :=
  Core.stopLog_same (·.mem) c fun _ => rfl

/-- A part of a core that touching, a log record, the fill count and UNREC leave alone is left alone by a logging
step. -/
theorem logGranule_core_same {α : Type} (f : Core → α) (s : State) (n : Node) (g : Nat)
    (ht : ∀ c : Core, f (c.touch g true) = f c)
    (hr : ∀ c : Core, f (c.writeRecord g) = f c)
    (hu : ∀ c : Core, f { c with rcv := { c.rcv with logCtl := c.rcv.logCtl ||| 0x8000 } } = f c) :
    f ((logGranule s n g).core n) = f (s.core n) := by
  have hs := fun c => Core.stopLog_same f c hu
  simp only [logGranule]
  split
  · rw [State.core_setCore_same, ht]
  · split
    · rw [State.core_setCore_same, hs, ht]
    · split
      · rw [requestSealAt_core, State.core_setCore_same, hs, hr, ht]
      · rw [State.core_setCore_same, hs, hr, ht]

/-- A field of the state that a change of a core and a seal request leave alone is left alone by a logging step. -/
theorem logGranule_same {α : Type} (f : State → α) (s : State) (n : Node) (g : Nat)
    (hc : ∀ (s : State) (c : Core), f (s.setCore n c) = f s) (hq : ∀ s : State, f (requestSealAt s n) = f s) :
    f (logGranule s n g) = f s := by
  simp only [logGranule]
  split
  · exact hc _ _
  · split
    · exact hc _ _
    · split
      · rw [hq, hc]
      · exact hc _ _

/-- What each logging step of a range leaves alone, the range leaves alone. -/
theorem logRange_same {α : Type} (f : State → α) (s : State) (n : Node) (a len : Nat)
    (h : ∀ (s : State) (g : Nat), f (logGranule s n g) = f s) : f (logRange s n a len) = f s := by
  simp only [logRange]
  generalize granules a len = l
  induction l generalizing s with
  | nil => rfl
  | cons g l ih => rw [List.foldl_cons, ih, h]

@[simp] theorem logRange_now (s : State) (n : Node) (a len : Nat) : (logRange s n a len).now = s.now :=
  logRange_same (·.now) s n a len fun s g => logGranule_same (·.now) s n g (fun _ _ => rfl) (by simp)
@[simp] theorem logRange_hubs (s : State) (n : Node) (a len : Nat) : (logRange s n a len).hubs = s.hubs :=
  logRange_same (·.hubs) s n a len fun s g => logGranule_same (·.hubs) s n g (fun _ _ => rfl) (by simp)
@[simp] theorem logRange_bridges (s : State) (n : Node) (a len : Nat) : (logRange s n a len).bridges = s.bridges :=
  logRange_same (·.bridges) s n a len fun s g => logGranule_same (·.bridges) s n g (fun _ _ => rfl) (by simp)
@[simp] theorem logRange_modules (s : State) (n : Node) (a len : Nat) : (logRange s n a len).modules = s.modules :=
  logRange_same (·.modules) s n a len fun s g => logGranule_same (·.modules) s n g (fun _ _ => rfl) (by simp)
@[simp] theorem logRange_draws (s : State) (n : Node) (a len : Nat) : (logRange s n a len).draws = s.draws :=
  logRange_same (·.draws) s n a len fun s g => logGranule_same (·.draws) s n g (fun _ _ => rfl) (by simp)
@[simp] theorem logRange_lots (s : State) (n : Node) (a len : Nat) : (logRange s n a len).lots = s.lots :=
  logRange_same (·.lots) s n a len fun s g => logGranule_same (·.lots) s n g (fun _ _ => rfl) (by simp)
@[simp] theorem logRange_agenda (s : State) (n : Node) (a len : Nat) : (logRange s n a len).agenda = s.agenda :=
  logRange_same (·.agenda) s n a len fun s g => logGranule_same (·.agenda) s n g (fun _ _ => rfl) (by simp)
@[simp] theorem logRange_cur (s : State) (n : Node) (a len : Nat) : (logRange s n a len).cur = s.cur :=
  logRange_same (·.cur) s n a len fun s g => logGranule_same (·.cur) s n g (fun _ _ => rfl) (by simp)
@[simp] theorem logRange_arriving (s : State) (n : Node) (a len : Nat) : (logRange s n a len).arriving = s.arriving :=
  logRange_same (·.arriving) s n a len fun s g => logGranule_same (·.arriving) s n g (fun _ _ => rfl) (by simp)

theorem logRange_core_other (s : State) (n m : Node) (a len : Nat) (h : m ≠ n) :
    (logRange s n a len).core m = s.core m :=
  logRange_same (fun s => s.core m) s n a len fun s g => logGranule_core_other s n m g h

@[simp] theorem logRange_core_ctxs (s : State) (n : Node) (a len : Nat) :
    ((logRange s n a len).core n).ctxs = (s.core n).ctxs :=
  logRange_same (fun s => (s.core n).ctxs) s n a len fun s g =>
    logGranule_core_same (·.ctxs) s n g (fun c => by simp) (fun c => by simp) fun _ => rfl
@[simp] theorem logRange_core_trg (s : State) (n : Node) (a len : Nat) :
    ((logRange s n a len).core n).trg = (s.core n).trg :=
  logRange_same (fun s => (s.core n).trg) s n a len fun s g =>
    logGranule_core_same (·.trg) s n g (fun c => by simp) (fun c => by simp) fun _ => rfl
@[simp] theorem logRange_core_comm (s : State) (n : Node) (a len : Nat) :
    ((logRange s n a len).core n).comm = (s.core n).comm :=
  logRange_same (fun s => (s.core n).comm) s n a len fun s g =>
    logGranule_core_same (·.comm) s n g (fun c => by simp) (fun c => by simp) fun _ => rfl
@[simp] theorem logRange_core_sync (s : State) (n : Node) (a len : Nat) :
    ((logRange s n a len).core n).sync = (s.core n).sync :=
  logRange_same (fun s => (s.core n).sync) s n a len fun s g =>
    logGranule_core_same (·.sync) s n g (fun c => by simp) (fun c => by simp) fun _ => rfl
@[simp] theorem logRange_core_mx (s : State) (n : Node) (a len : Nat) :
    ((logRange s n a len).core n).mx = (s.core n).mx :=
  logRange_same (fun s => (s.core n).mx) s n a len fun s g =>
    logGranule_core_same (·.mx) s n g (fun c => by simp) (fun c => by simp) fun _ => rfl
@[simp] theorem logRange_core_lastIssued (s : State) (n : Node) (a len : Nat) :
    ((logRange s n a len).core n).lastIssued = (s.core n).lastIssued :=
  logRange_same (fun s => (s.core n).lastIssued) s n a len fun s g =>
    logGranule_core_same (·.lastIssued) s n g (fun c => by simp) (fun c => by simp) fun _ => rfl
@[simp] theorem logRange_core_yielded (s : State) (n : Node) (a len : Nat) :
    ((logRange s n a len).core n).yielded = (s.core n).yielded :=
  logRange_same (fun s => (s.core n).yielded) s n a len fun s g =>
    logGranule_core_same (·.yielded) s n g (fun c => by simp) (fun c => by simp) fun _ => rfl
@[simp] theorem logRange_core_divFree (s : State) (n : Node) (a len : Nat) :
    ((logRange s n a len).core n).divFree = (s.core n).divFree :=
  logRange_same (fun s => (s.core n).divFree) s n a len fun s g =>
    logGranule_core_same (·.divFree) s n g (fun c => by simp) (fun c => by simp) fun _ => rfl
@[simp] theorem logRange_core_cycBase (s : State) (n : Node) (a len : Nat) :
    ((logRange s n a len).core n).cycBase = (s.core n).cycBase :=
  logRange_same (fun s => (s.core n).cycBase) s n a len fun s g =>
    logGranule_core_same (·.cycBase) s n g (fun c => by simp) (fun c => by simp) fun _ => rfl
@[simp] theorem logRange_core_cycAt (s : State) (n : Node) (a len : Nat) :
    ((logRange s n a len).core n).cycAt = (s.core n).cycAt :=
  logRange_same (fun s => (s.core n).cycAt) s n a len fun s g =>
    logGranule_core_same (·.cycAt) s n g (fun c => by simp) (fun c => by simp) fun _ => rfl
@[simp] theorem logRange_core_issueFrom (s : State) (n : Node) (a len : Nat) :
    ((logRange s n a len).core n).issueFrom = (s.core n).issueFrom :=
  logRange_same (fun s => (s.core n).issueFrom) s n a len fun s g =>
    logGranule_core_same (·.issueFrom) s n g (fun c => by simp) (fun c => by simp) fun _ => rfl
@[simp] theorem logRange_core_later (s : State) (n : Node) (a len : Nat) :
    ((logRange s n a len).core n).later = (s.core n).later :=
  logRange_same (fun s => (s.core n).later) s n a len fun s g =>
    logGranule_core_same (·.later) s n g (fun c => by simp) (fun c => by simp) fun _ => rfl
@[simp] theorem logRange_core_portFree (s : State) (n : Node) (a len : Nat) :
    ((logRange s n a len).core n).portFree = (s.core n).portFree :=
  logRange_same (fun s => (s.core n).portFree) s n a len fun s g =>
    logGranule_core_same (·.portFree) s n g (fun c => by simp) (fun c => by simp) fun _ => rfl
@[simp] theorem logRange_core_mem_full (s : State) (n : Node) (a len : Nat) :
    ((logRange s n a len).core n).mem.full = (s.core n).mem.full :=
  logRange_same (fun s => (s.core n).mem.full) s n a len fun s g =>
    logGranule_core_same (·.mem.full) s n g (fun c => by simp) (fun c => by simp) fun _ => rfl
@[simp] theorem logRange_core_mem_written (s : State) (n : Node) (a len : Nat) :
    ((logRange s n a len).core n).mem.written = (s.core n).mem.written :=
  logRange_same (fun s => (s.core n).mem.written) s n a len fun s g =>
    logGranule_core_same (·.mem.written) s n g (fun c => by simp) (fun c => by simp) fun _ => rfl
@[simp] theorem logRange_core_mem_classes (s : State) (n : Node) (a len : Nat) :
    ((logRange s n a len).core n).mem.classes = (s.core n).mem.classes :=
  logRange_same (fun s => (s.core n).mem.classes) s n a len fun s g =>
    logGranule_core_same (·.mem.classes) s n g (fun c => by simp) (fun c => by simp) fun _ => rfl
@[simp] theorem logRange_core_mem_lineHist (s : State) (n : Node) (a len : Nat) :
    ((logRange s n a len).core n).mem.lineHist = (s.core n).mem.lineHist :=
  logRange_same (fun s => (s.core n).mem.lineHist) s n a len fun s g =>
    logGranule_core_same (·.mem.lineHist) s n g (fun c => by simp) (fun c => by simp) fun _ => rfl
@[simp] theorem logRange_core_mem_icache (s : State) (n : Node) (a len : Nat) :
    ((logRange s n a len).core n).mem.icache = (s.core n).mem.icache :=
  logRange_same (fun s => (s.core n).mem.icache) s n a len fun s g =>
    logGranule_core_same (·.mem.icache) s n g (fun c => by simp) (fun c => by simp) fun _ => rfl
@[simp] theorem logRange_core_mem_bankLive (s : State) (n : Node) (a len : Nat) :
    ((logRange s n a len).core n).mem.bankLive = (s.core n).mem.bankLive :=
  logRange_same (fun s => (s.core n).mem.bankLive) s n a len fun s g =>
    logGranule_core_same (·.mem.bankLive) s n g (fun c => by simp) (fun c => by simp) fun _ => rfl
@[simp] theorem logRange_core_mem_bankNext (s : State) (n : Node) (a len : Nat) :
    ((logRange s n a len).core n).mem.bankNext = (s.core n).mem.bankNext :=
  logRange_same (fun s => (s.core n).mem.bankNext) s n a len fun s g =>
    logGranule_core_same (·.mem.bankNext) s n g (fun c => by simp) (fun c => by simp) fun _ => rfl
@[simp] theorem logRange_core_mem_fills (s : State) (n : Node) (a len : Nat) :
    ((logRange s n a len).core n).mem.fills = (s.core n).mem.fills :=
  logRange_same (fun s => (s.core n).mem.fills) s n a len fun s g =>
    logGranule_core_same (·.mem.fills) s n g (fun c => by simp) (fun c => by simp) fun _ => rfl

theorem Core.writeRecord_wf (c : Core) (g : Nat) (h : memWf c.mem.mem = true) :
    memWf (c.writeRecord g).mem.mem = true := by
  simp only [Core.writeRecord]
  exact Core.pokeRaw_wf c _ _ h

/-- A logging step keeps the canonical form of memory. -/
theorem logGranule_wf (s : State) (n : Node) (g : Nat) (h : memWf (s.core n).mem.mem = true) :
    memWf ((logGranule s n g).core n).mem.mem = true := by
  have ht : memWf ((s.core n).touch g true).mem.mem = true := by simpa using h
  simp only [logGranule]
  split
  · rw [State.core_setCore_same]; exact ht
  · split
    · rw [State.core_setCore_same, Core.stopLog_mem]; exact ht
    · split
      · rw [requestSealAt_core, State.core_setCore_same, Core.stopLog_mem]; exact Core.writeRecord_wf _ g ht
      · rw [State.core_setCore_same, Core.stopLog_mem]; exact Core.writeRecord_wf _ g ht

theorem logRange_wf (s : State) (n : Node) (a len : Nat) (h : memWf (s.core n).mem.mem = true) :
    memWf ((logRange s n a len).core n).mem.mem = true := by
  simp only [logRange]
  generalize granules a len = l
  induction l generalizing s with
  | nil => exact h
  | cons g l ih => exact ih _ (logGranule_wf s n g h)

/-! ### A write at its home -/

/-- What keeping a line's earlier contents leaves alone, a list of them leaves alone. -/
theorem foldl_keepLine {α : Type} (f : Core → α) (l : List Nat) (c : Core)
    (h : ∀ (c : Core) (x : Nat), f (c.keepLine x) = f c) : f (l.foldl Core.keepLine c) = f c := by
  induction l generalizing c with
  | nil => rfl
  | cons x l ih => rw [List.foldl_cons, ih, h]

/-- A write at its home changes memory, the history of code lines and the deadlines of its core, beside what its
logging steps do. -/
theorem writeMem_core_same {α : Type} (f : Core → α) (s : State) (n : Node) (a : Nat) (bs : List Byte)
    (hl : ∀ s : State, f ((logRange s n a bs.length).core n) = f (s.core n))
    (hk : ∀ (c : Core) (x : Nat), f (c.keepLine x) = f c) (hs : ∀ (c : Core) (v w : Nat), f (c.stamp v w a bs.length) = f c)
    (hp : ∀ c : Core, f (c.pokeRaw a bs) = f c) : f ((writeMem s n a bs).core n) = f (s.core n) := by
  simp only [writeMem, State.core_modCore_same]
  rw [hp, hs, foldl_keepLine f _ _ hk, hl]

@[simp] theorem writeMem_now (s : State) (n : Node) (a : Nat) (bs : List Byte) : (writeMem s n a bs).now = s.now := by
  simp [writeMem]
@[simp] theorem writeMem_hubs (s : State) (n : Node) (a : Nat) (bs : List Byte) : (writeMem s n a bs).hubs = s.hubs := by
  simp [writeMem]
@[simp] theorem writeMem_bridges (s : State) (n : Node) (a : Nat) (bs : List Byte) : (writeMem s n a bs).bridges = s.bridges := by
  simp [writeMem]
@[simp] theorem writeMem_modules (s : State) (n : Node) (a : Nat) (bs : List Byte) : (writeMem s n a bs).modules = s.modules := by
  simp [writeMem]
@[simp] theorem writeMem_draws (s : State) (n : Node) (a : Nat) (bs : List Byte) : (writeMem s n a bs).draws = s.draws := by
  simp [writeMem]
@[simp] theorem writeMem_lots (s : State) (n : Node) (a : Nat) (bs : List Byte) : (writeMem s n a bs).lots = s.lots := by
  simp [writeMem]
@[simp] theorem writeMem_agenda (s : State) (n : Node) (a : Nat) (bs : List Byte) : (writeMem s n a bs).agenda = s.agenda := by
  simp [writeMem]
@[simp] theorem writeMem_cur (s : State) (n : Node) (a : Nat) (bs : List Byte) : (writeMem s n a bs).cur = s.cur := by
  simp [writeMem]
@[simp] theorem writeMem_arriving (s : State) (n : Node) (a : Nat) (bs : List Byte) : (writeMem s n a bs).arriving = s.arriving := by
  simp [writeMem]

theorem writeMem_core_other (s : State) (n m : Node) (a : Nat) (bs : List Byte) (h : m ≠ n) :
    (writeMem s n a bs).core m = s.core m := by
  simp only [writeMem]
  rw [State.core_modCore_other _ _ _ _ h, logRange_core_other _ _ _ _ _ h]

@[simp] theorem writeMem_core_ctxs (s : State) (n : Node) (a : Nat) (bs : List Byte) :
    ((writeMem s n a bs).core n).ctxs = (s.core n).ctxs :=
  writeMem_core_same (·.ctxs) s n a bs (by simp) (fun _ _ => rfl) (fun _ _ _ => rfl) fun _ => rfl
@[simp] theorem writeMem_core_trg (s : State) (n : Node) (a : Nat) (bs : List Byte) :
    ((writeMem s n a bs).core n).trg = (s.core n).trg :=
  writeMem_core_same (·.trg) s n a bs (by simp) (fun _ _ => rfl) (fun _ _ _ => rfl) fun _ => rfl
@[simp] theorem writeMem_core_comm (s : State) (n : Node) (a : Nat) (bs : List Byte) :
    ((writeMem s n a bs).core n).comm = (s.core n).comm :=
  writeMem_core_same (·.comm) s n a bs (by simp) (fun _ _ => rfl) (fun _ _ _ => rfl) fun _ => rfl
@[simp] theorem writeMem_core_sync (s : State) (n : Node) (a : Nat) (bs : List Byte) :
    ((writeMem s n a bs).core n).sync = (s.core n).sync :=
  writeMem_core_same (·.sync) s n a bs (by simp) (fun _ _ => rfl) (fun _ _ _ => rfl) fun _ => rfl
@[simp] theorem writeMem_core_mx (s : State) (n : Node) (a : Nat) (bs : List Byte) :
    ((writeMem s n a bs).core n).mx = (s.core n).mx :=
  writeMem_core_same (·.mx) s n a bs (by simp) (fun _ _ => rfl) (fun _ _ _ => rfl) fun _ => rfl
@[simp] theorem writeMem_core_lastIssued (s : State) (n : Node) (a : Nat) (bs : List Byte) :
    ((writeMem s n a bs).core n).lastIssued = (s.core n).lastIssued :=
  writeMem_core_same (·.lastIssued) s n a bs (by simp) (fun _ _ => rfl) (fun _ _ _ => rfl) fun _ => rfl
@[simp] theorem writeMem_core_yielded (s : State) (n : Node) (a : Nat) (bs : List Byte) :
    ((writeMem s n a bs).core n).yielded = (s.core n).yielded :=
  writeMem_core_same (·.yielded) s n a bs (by simp) (fun _ _ => rfl) (fun _ _ _ => rfl) fun _ => rfl
@[simp] theorem writeMem_core_divFree (s : State) (n : Node) (a : Nat) (bs : List Byte) :
    ((writeMem s n a bs).core n).divFree = (s.core n).divFree :=
  writeMem_core_same (·.divFree) s n a bs (by simp) (fun _ _ => rfl) (fun _ _ _ => rfl) fun _ => rfl
@[simp] theorem writeMem_core_cycBase (s : State) (n : Node) (a : Nat) (bs : List Byte) :
    ((writeMem s n a bs).core n).cycBase = (s.core n).cycBase :=
  writeMem_core_same (·.cycBase) s n a bs (by simp) (fun _ _ => rfl) (fun _ _ _ => rfl) fun _ => rfl
@[simp] theorem writeMem_core_cycAt (s : State) (n : Node) (a : Nat) (bs : List Byte) :
    ((writeMem s n a bs).core n).cycAt = (s.core n).cycAt :=
  writeMem_core_same (·.cycAt) s n a bs (by simp) (fun _ _ => rfl) (fun _ _ _ => rfl) fun _ => rfl
@[simp] theorem writeMem_core_issueFrom (s : State) (n : Node) (a : Nat) (bs : List Byte) :
    ((writeMem s n a bs).core n).issueFrom = (s.core n).issueFrom :=
  writeMem_core_same (·.issueFrom) s n a bs (by simp) (fun _ _ => rfl) (fun _ _ _ => rfl) fun _ => rfl
@[simp] theorem writeMem_core_later (s : State) (n : Node) (a : Nat) (bs : List Byte) :
    ((writeMem s n a bs).core n).later = (s.core n).later :=
  writeMem_core_same (·.later) s n a bs (by simp) (fun _ _ => rfl) (fun _ _ _ => rfl) fun _ => rfl
@[simp] theorem writeMem_core_portFree (s : State) (n : Node) (a : Nat) (bs : List Byte) :
    ((writeMem s n a bs).core n).portFree = (s.core n).portFree :=
  writeMem_core_same (·.portFree) s n a bs (by simp) (fun _ _ => rfl) (fun _ _ _ => rfl) fun _ => rfl

theorem writeMem_wf (s : State) (n : Node) (a : Nat) (bs : List Byte) (h : memWf (s.core n).mem.mem = true) :
    memWf ((writeMem s n a bs).core n).mem.mem = true := by
  simp only [writeMem, State.core_modCore_same]
  apply Core.pokeRaw_wf
  show memWf (List.foldl Core.keepLine _ _).mem.mem = true
  rw [foldl_keepLine (fun c : Core => c.mem.mem) _ _ fun _ _ => rfl]
  exact logRange_wf s n a _ h

/-- The bytes of a write read as what was written. -/
theorem writeMem_bytes (s : State) (n : Node) (a i : Nat) (bs : List Byte) (hw : memWf (s.core n).mem.mem = true)
    (h : i < bs.length) :
    spanByte ((writeMem s n a bs).core n).mem.mem ((writeMem s n a bs).core n).mem.undef (a + i) = bs[i] := by
  simp only [writeMem, State.core_modCore_same, Core.pokeRaw]
  refine spanByte_write_inside _ _ _ _ _ ?_ h
  show memWf (List.foldl Core.keepLine _ _).mem.mem = true
  rw [foldl_keepLine (fun c : Core => c.mem.mem) _ _ fun _ _ => rfl]
  exact logRange_wf s n a _ hw

/-! ### Going on, transferring control, blocking and trapping -/

@[simp] theorem cc_advance (s : State) : (advance s).cc = s.cc.goOn s.cur.pc s.cur.succ s.cycle := by simp [advance]
theorem core_advance_other (s : State) (m : Node) (h : m ≠ s.cur.core) : (advance s).core m = s.core m :=
  State.core_modCc_other s _ m h
theorem ctx_advance_other (s : State) (x : Fin 8) (h : x ≠ s.cur.ctx) :
    (advance s).ctx s.cur.core x = s.ctx s.cur.core x := State.ctx_modCc_other s _ x h
@[simp] theorem cn_advance (s : State) :
    (advance s).cn = s.cn.setCtx s.cur.ctx (s.cc.goOn s.cur.pc s.cur.succ s.cycle) := by simp [advance]

@[simp] theorem cc_jump (s : State) (pc : BitVec 32) :
    (jump s pc).cc = { s.cc with pc := pc, notBefore := s.cycle + 2 } := by simp [jump]
theorem core_jump_other (s : State) (pc : BitVec 32) (m : Node) (h : m ≠ s.cur.core) :
    (jump s pc).core m = s.core m := State.core_modCc_other s _ m h

@[simp] theorem advance_now (s : State) : (advance s).now = s.now := rfl
@[simp] theorem advance_hubs (s : State) : (advance s).hubs = s.hubs := rfl
@[simp] theorem advance_bridges (s : State) : (advance s).bridges = s.bridges := rfl
@[simp] theorem advance_modules (s : State) : (advance s).modules = s.modules := rfl
@[simp] theorem advance_domains (s : State) : (advance s).domains = s.domains := rfl
@[simp] theorem advance_net (s : State) : (advance s).net = s.net := rfl
@[simp] theorem advance_nextId (s : State) : (advance s).nextId = s.nextId := rfl
@[simp] theorem advance_draws (s : State) : (advance s).draws = s.draws := rfl
@[simp] theorem advance_lots (s : State) : (advance s).lots = s.lots := rfl
@[simp] theorem advance_agenda (s : State) : (advance s).agenda = s.agenda := rfl
@[simp] theorem advance_cur (s : State) : (advance s).cur = s.cur := rfl
@[simp] theorem advance_arriving (s : State) : (advance s).arriving = s.arriving := rfl
@[simp] theorem jump_now (s : State) (pc : BitVec 32) : (jump s pc).now = s.now := rfl
@[simp] theorem jump_hubs (s : State) (pc : BitVec 32) : (jump s pc).hubs = s.hubs := rfl
@[simp] theorem jump_bridges (s : State) (pc : BitVec 32) : (jump s pc).bridges = s.bridges := rfl
@[simp] theorem jump_modules (s : State) (pc : BitVec 32) : (jump s pc).modules = s.modules := rfl
@[simp] theorem jump_domains (s : State) (pc : BitVec 32) : (jump s pc).domains = s.domains := rfl
@[simp] theorem jump_net (s : State) (pc : BitVec 32) : (jump s pc).net = s.net := rfl
@[simp] theorem jump_nextId (s : State) (pc : BitVec 32) : (jump s pc).nextId = s.nextId := rfl
@[simp] theorem jump_draws (s : State) (pc : BitVec 32) : (jump s pc).draws = s.draws := rfl
@[simp] theorem jump_lots (s : State) (pc : BitVec 32) : (jump s pc).lots = s.lots := rfl
@[simp] theorem jump_agenda (s : State) (pc : BitVec 32) : (jump s pc).agenda = s.agenda := rfl
@[simp] theorem jump_cur (s : State) (pc : BitVec 32) : (jump s pc).cur = s.cur := rfl
@[simp] theorem jump_arriving (s : State) (pc : BitVec 32) : (jump s pc).arriving = s.arriving := rfl
@[simp] theorem block_now (s : State) (i : Instr) (st : CtxState) (arg : Nat) : (block s i st arg).now = s.now := rfl
@[simp] theorem block_hubs (s : State) (i : Instr) (st : CtxState) (arg : Nat) : (block s i st arg).hubs = s.hubs := rfl
@[simp] theorem block_bridges (s : State) (i : Instr) (st : CtxState) (arg : Nat) : (block s i st arg).bridges = s.bridges := rfl
@[simp] theorem block_modules (s : State) (i : Instr) (st : CtxState) (arg : Nat) : (block s i st arg).modules = s.modules := rfl
@[simp] theorem block_domains (s : State) (i : Instr) (st : CtxState) (arg : Nat) : (block s i st arg).domains = s.domains := rfl
@[simp] theorem block_net (s : State) (i : Instr) (st : CtxState) (arg : Nat) : (block s i st arg).net = s.net := rfl
@[simp] theorem block_draws (s : State) (i : Instr) (st : CtxState) (arg : Nat) : (block s i st arg).draws = s.draws := rfl
@[simp] theorem block_lots (s : State) (i : Instr) (st : CtxState) (arg : Nat) : (block s i st arg).lots = s.lots := rfl
@[simp] theorem block_agenda (s : State) (i : Instr) (st : CtxState) (arg : Nat) : (block s i st arg).agenda = s.agenda := rfl
@[simp] theorem block_cur (s : State) (i : Instr) (st : CtxState) (arg : Nat) : (block s i st arg).cur = s.cur := rfl
@[simp] theorem block_arriving (s : State) (i : Instr) (st : CtxState) (arg : Nat) : (block s i st arg).arriving = s.arriving := rfl

@[simp] theorem named_core (s : State) (n : Node) : (named s).core n = s.core n := rfl
@[simp] theorem named_cc (s : State) : (named s).cc = s.cc := rfl

/-- The executing context blocks; nothing else changes but the next name. -/
theorem cc_block (s : State) (i : Instr) (st : CtxState) (arg : Nat) :
    (block s i st arg).cc = { s.cc with
      st := st
      blocked := some { instr := i, pc := s.cur.pc, succ := s.cur.succ, value := s.cur.value, since := s.nextId,
                        arg := arg, regs := s.cc.regs } } := by
  simp only [block, named_cc]
  rw [State.cc_modCc]
@[simp] theorem block_nextId (s : State) (i : Instr) (st : CtxState) (arg : Nat) :
    (block s i st arg).nextId = s.nextId + 1 := rfl
theorem core_block_other (s : State) (i : Instr) (st : CtxState) (arg : Nat) (m : Node) (h : m ≠ s.cur.core) :
    (block s i st arg).core m = s.core m := by
  simp only [block, named_core]
  exact State.core_modCc_other s _ m h

@[simp] theorem orBlock_done (s t : State) (i : Instr) : orBlock s i (.done t) = advance t := rfl
@[simp] theorem orBlock_wait (s : State) (i : Instr) (st : CtxState) (arg : Nat) :
    orBlock s i (.wait st arg) = block s i st arg := rfl
@[simp] theorem orBlock_trap (s : State) (i : Instr) (t : TrapOf) : orBlock s i (.trap t) = precise s t := rfl

/-- R336: a context among 0–6 that takes a trap is TRAPPED, the trap joins the pending set, and nothing else of the core
changes. -/
theorem core_takeTrap (s : State) (n : Node) (x : Fin 8) (t : PTrap) (h : x ≠ 7) :
    (takeTrap s n x t).core n =
      { (s.core n).setCtx x { s.ctx n x with st := .trapped, blocked := none } with
        rcv := { (s.core n).rcv with traps := (s.core n).rcv.traps ++ [t] } } := by
  simp [takeTrap, h, State.modCtx, State.setCtx]

theorem core_takeTrap_other (s : State) (n m : Node) (x : Fin 8) (t : PTrap) (h : x ≠ 7) (hm : m ≠ n) :
    (takeTrap s n x t).core m = s.core m := by
  simp [takeTrap, h, State.modCtx, State.setCtx, State.core_modCore_other _ _ _ _ hm]

theorem takeTrap_now (s : State) (n : Node) (x : Fin 8) (t : PTrap) (h : x ≠ 7) : (takeTrap s n x t).now = s.now := by
  simp [takeTrap, h]
theorem takeTrap_hubs (s : State) (n : Node) (x : Fin 8) (t : PTrap) (h : x ≠ 7) : (takeTrap s n x t).hubs = s.hubs := by
  simp [takeTrap, h]
theorem takeTrap_bridges (s : State) (n : Node) (x : Fin 8) (t : PTrap) (h : x ≠ 7) : (takeTrap s n x t).bridges = s.bridges := by
  simp [takeTrap, h]
theorem takeTrap_modules (s : State) (n : Node) (x : Fin 8) (t : PTrap) (h : x ≠ 7) : (takeTrap s n x t).modules = s.modules := by
  simp [takeTrap, h]
theorem takeTrap_domains (s : State) (n : Node) (x : Fin 8) (t : PTrap) (h : x ≠ 7) : (takeTrap s n x t).domains = s.domains := by
  simp [takeTrap, h]
theorem takeTrap_net (s : State) (n : Node) (x : Fin 8) (t : PTrap) (h : x ≠ 7) : (takeTrap s n x t).net = s.net := by
  simp [takeTrap, h]
theorem takeTrap_nextId (s : State) (n : Node) (x : Fin 8) (t : PTrap) (h : x ≠ 7) : (takeTrap s n x t).nextId = s.nextId := by
  simp [takeTrap, h]
theorem takeTrap_draws (s : State) (n : Node) (x : Fin 8) (t : PTrap) (h : x ≠ 7) : (takeTrap s n x t).draws = s.draws := by
  simp [takeTrap, h]
theorem takeTrap_lots (s : State) (n : Node) (x : Fin 8) (t : PTrap) (h : x ≠ 7) : (takeTrap s n x t).lots = s.lots := by
  simp [takeTrap, h]
theorem takeTrap_agenda (s : State) (n : Node) (x : Fin 8) (t : PTrap) (h : x ≠ 7) : (takeTrap s n x t).agenda = s.agenda := by
  simp [takeTrap, h]
theorem takeTrap_cur (s : State) (n : Node) (x : Fin 8) (t : PTrap) (h : x ≠ 7) : (takeTrap s n x t).cur = s.cur := by
  simp [takeTrap, h]
theorem takeTrap_arriving (s : State) (n : Node) (x : Fin 8) (t : PTrap) (h : x ≠ 7) : (takeTrap s n x t).arriving = s.arriving := by
  simp [takeTrap, h]

/-- R334: a precise trap of a context among 0–6. -/
theorem cc_precise (s : State) (t : TrapOf) (h : s.cur.ctx ≠ 7) :
    (precise s t).cc = { s.cc with st := .trapped, blocked := none } := by
  have e : (precise s t).cur = s.cur := takeTrap_cur _ _ _ _ h
  rw [State.cc_def, e, precise, core_takeTrap _ _ _ _ h]
  exact Core.ctx_setCtx_same _ _ _


/-! ### Hubs, bridges, modules and domains: what a change gives, and what it leaves alone -/

theorem State.hub_modHub (s : State) (n k : Node) (f : Hub → Hub) :
    (s.modHub n f).hub k = if k = n then f (s.hub n) else s.hub k := by
  by_cases h : k = n
  · subst h; simp [State.hub, State.modHub, State.setHub]
  · simp [State.hub, State.modHub, State.setHub, amap_find_put_other _ _ _ _ h, h]
theorem State.bridge_modBridge (s : State) (n k : Node) (f : Bridge → Bridge) :
    (s.modBridge n f).bridge k = if k = n then f (s.bridge n) else s.bridge k := by
  by_cases h : k = n
  · subst h; simp [State.bridge, State.modBridge, State.setBridge]
  · simp [State.bridge, State.modBridge, State.setBridge, amap_find_put_other _ _ _ _ h, h]
theorem State.module_modModule (s : State) (w k : Nat) (f : Module → Module) :
    (s.modModule w f).module k = if k = w then f (s.module w) else s.module k := by
  by_cases h : k = w
  · subst h; simp [State.module, State.modModule, State.setModule]
  · simp [State.module, State.modModule, State.setModule, amap_find_put_other _ _ _ _ h, h]
theorem State.domain_modDomain (s : State) (d k : Nat) (f : Domain → Domain) :
    (s.modDomain d f).domain k = if k = d then f (s.domain d) else s.domain k := by
  by_cases h : k = d
  · subst h; simp [State.domain, State.modDomain]
  · simp [State.domain, State.modDomain, amap_find_put_other _ _ _ _ h, h]

theorem State.slot_modSlot (s : State) (w i k : Nat) (f : Slot → Slot) (h : i < 32) :
    ((s.modSlot w i f).module w).slot k = if k = i then f ((s.module w).slot i) else (s.module w).slot k := by
  simp only [State.modSlot, State.module_modModule, if_true, Module.slot]
  by_cases e : k = i
  · subst e; simp [h]
  · simp [vget_vset_other _ _ _ _ _ e, e]
theorem State.module_modSlot_other (s : State) (w v i : Nat) (f : Slot → Slot) (h : v ≠ w) :
    (s.modSlot w i f).module v = s.module v := by
  simp only [State.modSlot, State.module_modModule, h, if_false]

end Sys2Proof.Machine
end

