-- ==== Sys2Proof/Tests/Slice0.lean ====
section
/-! SUPPORT. Small tests: the well-formedness checks refuse an ill-formed term each, words written out from the
encoding tables decode, single steps give the values of the spec's tables, and a witness for the hypotheses of each
statement. -/

open Sys2Proof Sys2Proof.Machine Sys2Proof.Claims

namespace Sys2Proof.Tests

set_option Elab.async false

/-! ### Builders -/

/-- A machine whose core 0 is about to issue the instruction that stands at 0x40000002, with changes to the core and to
its context 0. -/
def bench (f : Core → Core := id) (g : Ctx → Ctx := id) : State :=
  ((atPc (State.reset.withFetchWord 16 0) 0 0).modCore 0 f).modCtx 0 0 g

/-- Scalar registers of context 0. -/
def withRegs (rs : List (Nat × Word)) (k : Ctx) : Ctx := { k with s := rs.foldl (fun v p => vset v p.1 p.2) k.s }

/-- Core 0 with bytes at a local alias. -/
def withBytes (a : Nat) (bs : List Byte) (c : Core) : Core := c.pokeRaw a bs

/-- What an outcome holds in its next state. -/
def gives {α : Type} (o : Out) (f : State → α) : Option α := match o with | .next t => some (f t) | _ => none

/-! ### Well-formedness refuses -/

theorem test_fence_lb_only_core : wellFormed (.fence .lb .pod) = false := by decide
theorem test_channel_24_refused :
    [Instr.chrecv 0 0 24, .chpeek 0 0 24, .chtag 0 24, .chskip 0 24].map wellFormed = [false, false, false, false] := by
  decide
theorem test_entry_32_refused : [Instr.trgArm (.imm 32), .trgOff (.imm 32)].map wellFormed = [false, false] := by decide
theorem test_barrier_15_refused : wellFormed (.barWait 0 15) = false := by decide
theorem test_integer_rounding_refused : wellFormed (.vadd 0 0 0 none .s32 .rtz false) = false := by decide
theorem test_vadd_fp8_refused : wellFormed (.vadd 0 0 0 none .e4m3 .rne false) = false := by decide
theorem test_vfma_integer_refused : wellFormed (.vfma 0 0 0 0 none .s32 .rne false) = false := by decide
theorem test_vneg_unsigned_refused : wellFormed (.vneg 0 0 none .n32 .rne false) = false := by decide
theorem test_vexp2_integer_refused : wellFormed (.vexp2 0 0 none .s32 false) = false := by decide
theorem test_vmulh_float_refused : wellFormed (.vmulh 0 0 0 none .f32) = false := by decide
theorem test_carry_predicate_unused_refused : wellFormed (.vaddc 0 0 0 1 .c0 .none) = false := by decide
theorem test_vcmp_half_refused : wellFormed (.vcmp 0 0 0 none .f32 .eq true) = false := by decide
theorem test_vbcast_int8_refused : wellFormed (.vbcast 0 (.scalar 0 .s8) none) = false := by decide
theorem test_vbcast_imm_int8_refused : wellFormed (.vbcastImm 0 none .s8 .rne false 0) = false := by decide
theorem test_vred_int8_refused : wellFormed (.vredAdd 0 0 none .s8) = false := by decide
theorem test_vcvt_same_refused : wellFormed (.vcvt 0 0 .f32 .f32 0 .rne false) = false := by decide
theorem test_vcvt_part_refused : wellFormed (.vcvt 0 0 .f32 .bf16 2 .rne false) = false := by decide
theorem test_vqnt_scale_refused : wellFormed (.vqnt 0 0 1 .e2m1 .f32 0 .rne) = false := by decide
theorem test_mx_weight_format_refused : wellFormed (.mxLdw 0 0 0 .f32 false) = false := by decide
theorem test_mx_clr_zero_refused : wellFormed (.mxClr 0 0) = false := by decide
theorem test_mx_run_zero_refused : wellFormed (.mxRun .bf16 false 0 none) = false := by decide
theorem test_dk_send_register_refused : wellFormed (.dkSend 0 1 0 0 0 0 false 0) = false := by decide

/-! ### Words written out from the encoding tables -/

/-- R104: an instruction value, from its head and its tail. -/
def value (head tail : Nat) : Nat := head + tail * 2 ^ 16

/-- The instruction that a core reads from a value. -/
def coreReads (w : Nat) : Option Instr := (decodeValue w).toOption
/-- The instruction that a Dealer reads from a word. -/
def deckReads (w : Nat) : Option Instr := (decodeDeck w).toOption

-- R142
theorem test_word_br : coreReads (value 0x8100 (2 * 2 ^ 5 + 3)) = some (.br ⟨2, 3⟩) := by decide
theorem test_word_b_eq :
    coreReads (value 0x8200 (1 * 2 ^ 28 + 2 * 2 ^ 24 + 0x7FFFF * 2 ^ 5 + 3)) = some (.bEq 1 2 ⟨0x7FFFF, 3⟩) := by decide
theorem test_word_mulh : coreReads (value 0x4833 0x1200) = some (.mulh 3 1 2) := by decide
theorem test_word_sel : coreReads (value 0x8B04 (1 * 2 ^ 28 + 2 * 2 ^ 24 + 3 * 2 ^ 16 + 63)) = some (.sel 4 1 2 3 63) := by
  decide
theorem test_word_movi : coreReads (value 0xD201 0xFFFFFFFF) = some (.movi 1 0xFFFFFFFF) := by decide
theorem test_word_movk : coreReads (value 0x9211 (2 * 2 ^ 16 + 0x1234)) = some (.movk 1 0x1234 2) := by decide
-- R163
theorem test_word_st_n32 : coreReads (value 0x9525 (7 * 2 ^ 28 + 0xFFFC)) = some (.stN32 5 7 0xFFFC) := by decide
theorem test_word_amo_cas :
    coreReads (value 0x9961 (2 * 2 ^ 28 + 3 * 2 ^ 24 + 0x46 * 2 ^ 16 + 8)) = some (.amoCas 1 3 4 2 8 true true false) := by
  decide
theorem test_word_put_sf : coreReads (value 0x9C25 (7 * 2 ^ 28 + 0x6 * 2 ^ 16 + 4)) = some (.put 5 7 4 false true) := by decide
theorem test_word_put_k : coreReads (value 0x9C51 (2 * 2 ^ 28 + 3 * 2 ^ 24 + 63 * 2 ^ 16)) = some (.putK 1 2 3 63) := by decide
theorem test_word_fence : coreReads (value 0x5D10 0x0031) = some (.fence .rel .reg) := by decide
theorem test_word_chrecv : coreReads (value 0x6001 0x2017) = some (.chrecv 1 2 23) := by decide
theorem test_word_nb_put : coreReads (value 0x6103 0x0003) = some (.nbPut 3 .w) := by decide
-- R268, whose examples these are
theorem test_word_flg_set : coreReads (value 0xA420 0x00000004) = some (.flgSet (.imm 4)) := by decide
theorem test_word_cnt_add : coreReads (value 0xA500 0x70430000) = some (.cntAdd 3 (.reg 7)) := by decide
theorem test_word_cnt_wait : coreReads (value 0xA527 0x00830002) = some (.cntWait 7 3 (.imm 2) true) := by decide
theorem test_word_bar_arr : coreReads (value 0x6604 0x0012) = some (.barArr 4 2 true) := by decide
theorem test_word_bar_wait : coreReads (value 0x6610 0x4002) = some (.barWait 4 2) := by decide
-- R213
theorem test_word_vadd :
    coreReads (value 0xA801 (2 * 2 ^ 28 + 3 * 2 ^ 24 + 1 * 2 ^ 19 + 1 * 2 ^ 16 + 1 * 2 ^ 12 + 1 * 2 ^ 9))
      = some (.vadd 1 2 3 (some 1) .f32 .rne true) := by decide
theorem test_word_vadd_imm :
    coreReads (value 0xE801 ((2 * 2 ^ 28 + 1 * 2 ^ 12) * 2 ^ 16 + 0x3F80)) = some (.vaddImm 1 2 none .f32 .rne false 0x3F80) := by
  decide
theorem test_word_vshl : coreReads (value 0xAA31 (2 * 2 ^ 28 + 0x3F)) = some (.vshl 1 2 (.amt 31) none .s32) := by decide
theorem test_word_vcmp :
    coreReads (value 0xAB01 (2 * 2 ^ 28 + 3 * 2 ^ 24 + 2 * 2 ^ 12 + 0xD)) = some (.vcmp 1 2 3 none .bf16 .ge true) := by decide
theorem test_word_vcvt :
    coreReads (value 0xAF01 (2 * 2 ^ 28 + 2 * 2 ^ 12 + 0x11)) = some (.vcvt 1 2 .bf16 .f32 1 .rne false) := by decide
theorem test_word_vsct :
    coreReads (value 0xF031 ((2 * 2 ^ 28 + 3 * 2 ^ 24 + 10 * 2 ^ 12) * 2 ^ 16 + 0xFFFC)) = some (.vsct 1 3 2 0xFFFC none) := by
  decide
-- R246
theorem test_word_mx_macp :
    coreReads (value 0xF911 ((2 * 2 ^ 28 + 2 * 2 ^ 12 + 511) * 2 ^ 16 + 0x14)) = some (.mxMacp 1 2 511 .bf16 false .w .both) := by
  decide
theorem test_word_mx_run :
    coreReads (value 0xF920 ((3 * 2 ^ 12 + 0xC5) * 2 ^ 16 + 7)) = some (.mxRun .e4m3 true 7 (some 5)) := by decide
-- R293, R339
theorem test_word_coll_kick : coreReads (value 0xBC03 (1 * 2 ^ 28 + 2 * 2 ^ 24 + 7)) = some (.collKick 1 2 3 7) := by decide
theorem test_word_csr_set : coreReads (value 0xBD21 (2 * 2 ^ 28 + 0x008)) = some (.csrSet 1 2 0x008) := by decide
theorem test_word_frz : coreReads (value 0x7E20 0x1000) = some (.frz 1) := by decide
-- R297
theorem test_word_dk_put :
    deckReads (0x05 * 2 ^ 58 + 1 * 2 ^ 54 + 2 * 2 ^ 50 + 8 * 2 ^ 42 + 63 * 2 ^ 36 + 1 * 2 ^ 31 + 7 * 2 ^ 28 + 1 * 2 ^ 25 + 4095)
      = some (.dkPut 1 2 8 63 true 7 true 4095) := by decide
theorem test_word_dk_wait : deckReads (0x08 * 2 ^ 58 + 3 * 2 ^ 54 + 7 * 2 ^ 43) = some (.dkWait 3 7) := by decide
theorem test_word_dk_add :
    deckReads (0x14 * 2 ^ 58 + 1 * 2 ^ 54 + 2 * 2 ^ 50 + 3 * 2 ^ 46 + 3 * 2 ^ 34 + 0xFFFFFFFF)
      = some (.dkAdd 1 2 3 .shl 0xFFFFFFFF) := by decide
-- R107–R109: reserved bits, reserved majors, erased lines
theorem test_reserved_m_bit_refused : coreReads (value 0x4803 0x2301) = none := by decide
theorem test_reserved_vreg_bit_refused : coreReads (value 0x6C01 0x4000) = none := by decide
theorem test_major_3f_refused : coreReads 0xFFFF = none := by decide
theorem test_deck_reserved_refused : deckReads (0x1C * 2 ^ 58 + 1) = none := by decide

/-! ### Single steps -/

/-- Context 0 after an instruction of `bench`. -/
def after (i : Instr) (f : Core → Core := id) (g : Ctx → Ctx := id) : Option Ctx := gives (exec i (bench f g)) (·.cc)

/-- A scalar register of context 0 after an instruction. -/
def sregAfter (i : Instr) (r : SReg) (rs : List (Nat × Word)) (f : Core → Core := id) : Option Word :=
  (after i f (withRegs rs)).map (·.sreg r)

-- R143: the product of −2^63 and −2^63
theorem test_mulh_extreme : sregAfter (.mulh 3 1 2) 3 [(1, 0x8000000000000000), (2, 0x8000000000000000)] = some 0x4000000000000000 := by
  decide
-- R143: bits [63:6] of a shift amount are ignored
theorem test_shift_amount_modulo : sregAfter (.sra 3 1 2) 3 [(1, 0x8000000000000000), (2, 65)] = some 0xC000000000000000 := by decide
theorem test_add_wraps : sregAfter (.add 1 1 1) 1 [(1, 0x8000000000000001)] = some 2 := by decide
theorem test_s0_discards : sregAfter (.add 0 1 1) 0 [(1, 1)] = some 0 := by decide
-- R144
theorem test_div_by_zero : (after (.div 3 1 0) id (withRegs [(1, 7)])).map (fun k => (k.sreg 3, k.sts)) = some (0xFFFFFFFFFFFFFFFF, 1) := by
  decide
theorem test_div_extreme :
    (after (.div 3 1 2) id (withRegs [(1, 0x8000000000000000), (2, 0xFFFFFFFFFFFFFFFF)])).map (fun k => (k.sreg 3, k.sts))
      = some (0x8000000000000000, 0) := by decide
theorem test_rem_sign : sregAfter (.rem 3 1 2) 3 [(1, 0xFFFFFFFFFFFFFFF9), (2, 2)] = some 0xFFFFFFFFFFFFFFFF := by decide
-- R146
theorem test_clz_zero : sregAfter (.clz 3 1) 3 [] = some 64 := by decide
theorem test_ctz : sregAfter (.ctz 3 1) 3 [(1, 0x50)] = some 4 := by decide
-- R148
theorem test_movi_sign : sregAfter (.movi 1 0xFFFFFFFF) 1 [] = some 0xFFFFFFFFFFFFFFFF := by decide
theorem test_movk_keeps : sregAfter (.movk 1 0x1234 2) 1 [(1, 0xAAAABBBBCCCCDDDD)] = some 0xAAAA1234CCCCDDDD := by decide
-- R152
theorem test_call_links : (after (.call ⟨2, 0⟩)).map (fun k => (k.sreg 15, k.pc)) = some (0x40000042, 0x40000082) := by decide
-- R153, R154
theorem test_loop_enters :
    (after (.loop 1 ⟨0, 0⟩) id (withRegs [(1, 3)])).map (fun k => (k.lpCnt, k.lpBeg, k.lpEnd)) = some (3, 0x40000042, 0x40000002) := by
  decide
theorem test_loop_back_edge :
    (after .nop id (fun k => { k with lpCnt := 2, lpBeg := 0x40000042, lpEnd := 0x40000002 })).map (fun k => (k.lpCnt, k.pc))
      = some (1, 0x40000042) := by decide
-- R164, R5
theorem test_load_sign_extends :
    sregAfter (.ldS16 3 1 2) 3 [(1, 0x100)] (withBytes 0x102 [0x34, 0x82]) = some 0xFFFFFFFFFFFF8234 := by decide
theorem test_store_little_endian :
    (gives (exec (.stN32 2 1 0) (bench id (withRegs [(1, 0x100), (2, 0x11223344)]))) fun t => laBytes t.cn 0x100 4)
      = some [0x44, 0x33, 0x22, 0x11] := by decide
-- R160: alignment comes before every other check
theorem test_misaligned_hole :
    (gives (exec (.ldS32 3 1 0) (bench id (withRegs [(1, 0x50001)]))) fun t => t.cn.rcv.traps.map fun x => (x.code, x.val))
      = some [(0x03, 0x50001)] := by decide
-- R167
theorem test_ld_wfe_empties :
    (gives (exec (.ldWfe 3 1 0) (bench (fun c => { c with mem := { c.mem with full := [0x100] } }) (withRegs [(1, 0x100)])))
      fun t => (t.cc.st, t.cn.mem.full)) = some (.ready, []) := by decide
theorem test_ld_wf_blocks :
    (gives (exec (.ldWf 3 1 0) (bench id (withRegs [(1, 0x100)]))) fun t => (t.cc.st, t.cn.sync.watch)) = some (.waitFe, [0x100]) := by
  decide
-- R171
theorem test_amo_min_signed :
    (gives (exec (.amoMin 3 2 1 0 false false false)
      (bench (withBytes 0x100 [0xFF, 0xFF, 0xFF, 0xFF]) (withRegs [(1, 0x100), (2, 5)]))) fun t => (t.cc.sreg 3, laBytes t.cn 0x100 1))
      = some (0xFFFFFFFFFFFFFFFF, [0xFF]) := by decide
theorem test_amo_min_unsigned :
    (gives (exec (.amoMin 3 2 1 0 true false false)
      (bench (withBytes 0x100 [0xFF, 0xFF, 0xFF, 0xFF]) (withRegs [(1, 0x100), (2, 5)]))) fun t => (t.cc.sreg 3, laBytes t.cn 0x100 1))
      = some (0xFFFFFFFF, [5]) := by decide
-- R272, R273: the counter wraps, and the comparison allows for it
theorem test_cnt_wait_wraps :
    sregAfter (.cntWait 3 5 (.imm 0xFFFF) false) 3 [] (fun c => { c with sync := { c.sync with k := vset c.sync.k 5 1 } }) = some 1 := by
  decide
-- R276
theorem test_flg_clr : (gives (exec (.flgClr (.imm 0x0F)) (bench fun c => { c with sync := { c.sync with flags := 0x3C } }))
    fun t => t.cn.sync.flags) = some 0x30 := by decide
-- R277
theorem test_arm_without_handler :
    (gives (exec (.trgArm (.imm 3)) bench) fun t => t.cn.rcv.traps.map fun x => (x.code, x.val)) = some [(0x04, 3)] := by decide
-- R334, R336
theorem test_trap_after :
    (gives (exec (.trap 0x55) bench) fun t => (t.cc.st, t.cn.rcv.traps.map fun x => (x.code, x.val, x.pc, x.rpc)))
      = some (.trapped, [(0x0D, 0x55, 0x40000002, 0x40000042)]) := by decide
-- R340, R42: W1C flags
theorem test_sts_clears :
    (after (.csrWr 3 1 0x008) id (fun k => { withRegs [(1, 2)] k with sts := 7 })).map (fun k => (k.sreg 3, k.sts)) = some (7, 5) := by
  decide

/-! ### Witnesses: states and operands that meet the hypotheses of the statements

One theorem for each statement, with one conjunct for each of its clauses. -/

/-- The state that the first move of `withFetchWord` reaches before its instruction runs. -/
def placed (w : Nat) : State := State.reset.withFetchWord 48 w

/-- The first eight rows of sites are mapped, so that cluster 0 is available. -/
def mapped (s : State) : State := s.modModule 0 fun m => { m with rmap := (List.range 8).map fun y => (8 * y, 0x00800FFF) }
/-- A machine whose Dealer of hub 0 is about to issue the first word of a Deck. -/
def deckBench (words : List Word) (f : Dealer → Dealer := id) : State :=
  { ((State.reset.withFetchWord 16 0).setDealer 0xF000 (f { deck := some ⟨Vector.replicate 8 0, words⟩, st := .running })) with
    agenda := [(0, .deal 0xF000)], cur := { dealer := 0xF000 } }

theorem witness_EncodingRoundTrip : wellFormed (.add 1 2 3) = true ∧ (encode (.add 1 2 3)).isSome = true
    ∧ wellFormed (.dkSealpt) = true ∧ (encodeDeck .dkSealpt).isSome = true := by decide
theorem witness_StepRuns :
    let s := placed (0x23004803)
    let a := { s with agenda := [] }
    let f := fillCache (atPc a 0 0)
    s.agenda = [(0, .issue 0 0)] ∧ hasCore 0 = true ∧ fetchFault f 0 f.cur.pc = none ∧ issueOpen a 0 = true ∧ picked a 0 0 = 0
      ∧ coreReads (fetchValue f 0 f.cur.pc) = some (.add 3 2 3)
      ∧ issueOpen { a with arriving := true } 0 = false ∧ issueOpen (a.modCore 0 fun c => { c with issueFrom := 1 }) 0 = false := by
  decide +kernel
theorem witness_StepRuns_deck :
    (deckBench []).agenda = [(0, .deal 0xF000)] ∧ hasDealer 0xF000 = true ∧ dealOpen (deckBench []) 0xF000 = true
      ∧ dealOpen (deckBench [] fun d => { d with issueFrom := 1 }) 0xF000 = false
      ∧ deckReads (0x4C40000000001234 : Word).toNat = some (.dkSet 1 false 0x1234) ∧ deckReads (0 : Word).toNat = none := by decide
/-- The access of the first instruction may perform later; an event comes next. -/
theorem witness_StepRuns_agenda :
    let s := { placed 0x23004803 with agenda := [(0, .issueLate 0 0)] }
    let e := { placed 0 with agenda := [(0, .event (.remoteWriteArrive 0))] }
    s.agenda = [(0, .issueLate 0 0)] ∧ issueOpen { s with agenda := [] } 0 = true ∧ fetchFault (fillCache (atPc s 0 0)) 0 (atPc s 0 0).cur.pc = none
      ∧ e.agenda = [(0, .event (.remoteWriteArrive 0))] ∧ isEvent (.remoteWriteArrive 0) = true ∧ atCycleStart (.remoteWriteArrive 0) = false := by
  decide +kernel
theorem witness_FetchTraps_head : canStart bench .nop = true ∧ bench.cur.ctx ≠ 7 := by decide
theorem witness_FetchTraps :
    laRange (0x3FFFFFFE : BitVec 32).toNat ≠ some .shelf
      ∧ (laRange (0x41C00002 : BitVec 32).toNat = some .shelf
        ∧ shelfTop ((bench fun c => { c with mem := { c.mem with bankLive := 0x3FFF } }).core 0) ≤ (0x41C00002 : BitVec 32).toNat)
      ∧ (namesHead (fetchLine bench 0 0x40000000) 0x40000004 = false ∧ (0x40000004 : BitVec 32).toNat < shelfTop (bench.core 0))
      ∧ namesHead (fetchLine bench 0 0x40000000) 0x40000002 = true := by decide
theorem witness_MemoryStaysCanonical : (∃ t, step State.reset = .next t) ∧ State.reset.wf := by
  refine ⟨⟨_, rfl⟩, by simp [State.reset], by simp [State.reset], by simp [State.reset], ?_⟩
  simp only [State.reset, List.mem_singleton, forall_eq]
  intro p hp
  simp only [Vector.toList_replicate, List.mem_replicate] at hp
  simp [hp.2, memWf]
theorem witness_MachineNeverStops : (placed 0).agentsNamed = true := by decide
theorem witness_DeadSitesStayDead :
    siteDead ((State.reset.modModule 0 fun m => { m with fuseDead := [5] }).module 0) 5 0 = true
      ∧ ∃ t, step (State.reset.modModule 0 fun m => { m with fuseDead := [5] }) = .next t := ⟨by decide, _, rfl⟩
theorem witness_RegistersHold : (15 : SReg) ≠ 0 := by decide
theorem witness_ScalarArithmetic :
    ∀ i ∈ [Instr.add 3 1 2, .sub 3 1 2, .mul 3 1 2, .mulh 3 1 2, .mulhn 3 1 2, .and 3 1 2, .or 3 1 2, .xor 3 1 2, .andn 3 1 2,
      .shl 3 1 2, .shr 3 1 2, .sra 3 1 2, .min 3 1 2, .max 3 1 2, .minn 3 1 2, .maxn 3 1 2, .slt 3 1 2, .sltn 3 1 2,
      .div 3 1 2, .divn 3 1 2, .rem 3 1 2, .remn 3 1 2], canStart bench i = true := by decide
theorem witness_ScalarForms :
    ∀ i ∈ [Instr.sel 4 1 2 3 63, .popc 3 1, .clz 3 1, .ctz 3 1, .addi 3 1 0, .andi 3 1 0, .ori 3 1 0, .xori 3 1 0, .shli 3 1 63,
      .shri 3 1 63, .srai 3 1 63, .movi 3 0, .movk 3 0 3], canStart bench i = true := by decide
theorem witness_ControlTransfers :
    ∀ i ∈ [Instr.br ⟨0, 0⟩, .bEq 1 2 ⟨0, 0⟩, .bNe 1 2 ⟨0, 0⟩, .bLt 1 2 ⟨0, 0⟩, .bGe 1 2 ⟨0, 0⟩, .bLtn 1 2 ⟨0, 0⟩, .bGen 1 2 ⟨0, 0⟩,
      .bpAny 0 ⟨0, 0⟩, .bpAll 0 ⟨0, 0⟩, .bpNone 0 ⟨0, 0⟩, .call ⟨0, 0⟩, .ret, .nop, .yield, .loop 1 ⟨0, 0⟩], canStart bench i = true := by
  decide
/-- A loop of count 0 whose last head exists, and one whose last head does not; a count of 2^32 is 0 too. -/
theorem witness_ControlTransfers_loop :
    ((bench id (withRegs [(1, 0x100000000)])).sr 1).extractLsb' 0 32 = 0
      ∧ namesHead (fetchLine bench 0 0x40000000) (targetPc bench.cur.pc ⟨0, 0⟩).toNat = true
      ∧ namesHead (fetchLine bench 0 0x40000000) (targetPc bench.cur.pc ⟨0, 31⟩).toNat = false ∧ bench.cur.ctx ≠ 7 := by decide
theorem witness_SystemInstructions_end :
    canStart bench .endHandler = true
      ∧ canStart ({ (bench.modCtx 0 7 fun k => { k with st := .ready }) with cur := { bench.cur with ctx := 7 } }) .endHandler = true := by
  decide

-- Local memory
/-- A range-table word: armed, base and length in granules. -/
def armedWord (base len : Nat) : Word := BitVec.ofNat 64 (base * 2 ^ 32 + 2 ^ 31 + len)
/-- A core with a log: LOG_BASE 0x41F00000, LOG_SIZE 512 KiB, `fill` records. -/
def withLog (fill : Nat) (c : Core) : Core :=
  { c with rcv := { c.rcv with logBase := 0x41F00000, logSize := 0x80000, logFill := fill } }

/-- A trap at each step of R160, at the edges of the ranges. -/
theorem witness_LocalAccessFaults :
    let at_ (a : Word) (use : LocalUse) (n : Nat) (f : Core → Core) := localFault (bench f) 0 0 use a n
    at_ 0x100000000 .load 1 id = some ⟨0x04, 0x100000000⟩
      ∧ at_ 0x3FFFF .load 2 id = some ⟨0x03, 0x3FFFF⟩
      ∧ at_ 0x40000 .load 4 id = some ⟨0x04, 0x40000⟩
      ∧ at_ 0x300030 .load 8 (fun c => { c with comm := { c.comm with prot := 1 } }) = some ⟨0x04, 6⟩
      ∧ at_ 0x41C00000 .load 4 (fun c => { c with mem := { c.mem with bankLive := 0x3FFF } }) = some ⟨0x0B, 0x41C00000⟩
      ∧ at_ 0x17C .load 4 (fun c => { c with comm := { c.comm with range := vset c.comm.range 7 (armedWord 0x100 1) } }) = some ⟨0x07, 0x17C⟩
      ∧ at_ 0x40000180 .load 4 (fun c => { c with mem := { c.mem with classes := [⟨1, 0x40000000, 512, 2⟩] } }) = some ⟨0x0A, 0x40000180⟩
      ∧ at_ 0x40000180 .store 4 (fun c => { c with mem := { c.mem with classes := [⟨1, 0x40000000, 512, 2⟩] } }) = none
      ∧ at_ 0x3FFFC .load 4 id = none ∧ at_ 0x3FFFC .fe 4 id = none ∧ at_ 0x40000004 .fe 4 id = some ⟨0x04, 0x40000004⟩ := by decide
theorem witness_LocalAccessFaults_starts :
    ∀ i ∈ [Instr.ldS8 3 1 0, .ldN32 3 1 0, .stN64 2 1 0, .ldWf 3 1 0, .stSf 2 1 0, .feTst 3 1 0, .amoCas 3 2 4 1 0 true true false],
      canStart (bench id (withRegs [(1, 0x100000000)])) i = true ∧ (bench id).cur.ctx ≠ 7
        ∧ sourceBusy (bench id (withRegs [(1, 0x100000000)])) 0x100000000 8 = false := by decide
theorem witness_Loads :
    canStart (bench id (withRegs [(1, 0x3FFF8)])) (.ldS64 3 1 0) = true
      ∧ localFault (bench id (withRegs [(1, 0x3FFF8)])) 0 0 .load 0x3FFF8 8 = none
      ∧ laRange 0x40000000 = some .shelf ∧ (bench.core 0).hasSector 0x40000000 = false
      ∧ localFault bench 0 0 .load 0x40000000 8 = none := by decide
/-- An access performs when it issues, or later: by timing, or behind one that has yet to perform at one of its bytes. -/
theorem witness_Loads_later :
    let s := bench id (withRegs [(1, 0x3FFF8)])
    let l := { s with cur := { s.cur with late := true } }
    let b := s.modCore 0 fun c => { c with later := [⟨4, 0, 0, 0x3FFFF, 1, .store [1] (BitVec.allOnes 32)⟩] }
    defers s 0x3FFF8 8 = false ∧ defers l 0x3FFF8 8 = true ∧ defers b 0x3FFF8 8 = true ∧ canStart l (.ldS64 3 1 0) = true
      ∧ canStart b (.stN64 2 1 0) = true ∧ localFault l 0 0 .load 0x3FFF8 8 = none ∧ logStalls l.cn 0x3FFF8 8 = false := by decide
/-- An access of each kind, in scratchpad and in an absent sector, that a register awaits or none does; an access behind an
earlier one to one of its bytes. -/
theorem witness_LocalStores_perform :
    let l (a : Nat) (w : LaterKind) : Later := ⟨4, 0, 0, a, 4, w⟩
    let at_ (x : Later) (k : Ctx → Ctx) : State := mapped (bench (fun c => { c with later := [x] }) k)
    let waits (k : Ctx) : Ctx := { k with fires := 0, pending := [(.s 3, .request 4)] }
    let st := l 0x3FFFC (.store [1, 2, 3, 4] (BitVec.allOnes 32))
    (∀ x ∈ [st, l 0x3FFFC (.load 3 true), l 0x40000080 (.load 3 false), l 0x3FFFC (.fill 5), l 0x3FFFC (.bit true), l 0x3FFFC (.test 3),
        l 0x3FFFC (.amo 3 AmoOp.cas.code true 0 0), l 0x3FFFC (.amo 3 AmoOp.add.code false 1 0), { l 0x3FF80 (.row 3 1) with len := 128 },
        { l 0x40000080 (.row 3 1) with len := 128 }, l 0x3FFFC (.lane 3 31), l 0x40000084 (.lane 3 0)],
        (at_ x waits).cn.later.find? (·.id == x.id) = some x ∧ isFrozen (at_ x waits) 0 = false)
      ∧ oldValue (at_ st id).cn 0x3FFFC 4 = 0 ∧ 0x3FFFC % 128 + 4 ≤ 128 ∧ 0x40000080 % 128 = 0
      ∧ isFrozen (at_ st id) 0 = false ∧ memWf (at_ st id).cn.mem.mem = true ∧ laRange 0x3FFFF ≠ some .regs
      ∧ inLog (at_ st id).cn 0x3FFFF 1 = false ∧ laRange 0x3FFFF = some .scratch
      ∧ ((at_ st waits).ctx 0 0).pending.any (fun p => p.2 == .request 4) = true ∧ ((at_ st id).ctx 0 0).pending = []
      ∧ (at_ st id).cn.hasSector 0x40000080 = false ∧ overlaps 0x3FFFC 4 0x3FFFF 1 = true := by decide +kernel
theorem witness_LocalStores :
    let s := bench (withLog 0) (withRegs [(1, 0x3FFFC)])
    memWf s.cn.mem.mem = true ∧ Ready s (.stN32 2 1 0) .store (s.sr 1 + (0 : BitVec 16).signExtend 64) 4
      ∧ Clear s (s.sr 1 + (0 : BitVec 16).signExtend 64) 4 := ⟨by decide, ⟨by decide, by decide⟩, ⟨by decide, by decide⟩⟩
/-- CAP is 1,820 records, ST 1,593. -/
theorem witness_LocalStores_log :
    logCap (withLog 0 {}) = 1820 ∧ logStallPoint (withLog 0 {}) = 1593
      ∧ logStalls (bench (withLog 1593)).cn 0x100 4 = true ∧ logStalls (bench (withLog 1592)).cn 0x100 4 = false := by decide
theorem witness_FirstStoreLogging :
    let c := (bench (withLog 0)).core 0
    memWf c.mem.mem = true ∧ needsRecord c 0x80 = true ∧ needsRecord c 0x40000080 = true
      ∧ laRange (c.rcv.logBase.toNat + 0x40000) = some .shelf ∧ laRange (c.rcv.logBase.toNat + 0x40000 + 144 * 1819 + 143) = some .shelf
      ∧ logRequestPoint c = 1365 := by decide
theorem witness_ShelfCaches :
    canStart (bench id (withRegs [(1, 0x41FFFFFF)])) (.pf 1 0) = true ∧ laRange 0x41FFFFFF = some .shelf
      ∧ 0x41FFFFFF < shelfTop bench.cn ∧ anyArmed bench.cn 0x41FFFE00 512 = false ∧ anyExpired bench 0 0x41FFFE00 512 = false
      ∧ laRange 0x100 ≠ some .shelf := by decide
theorem witness_ShelfCaches_maintenance :
    let s := bench id (withRegs [(1, 0x40000000), (2, 0xFFFFFFFF), (3, 0x8000080000000000), (4, 0x100000000)])
    (∀ i ∈ [Instr.l1Wb 1 2, .l1Inv 1 2, .l1Inv 3 2, .l2Inv 3 2, .l1Wb 3 2, .l2Inv 1 2, .l1Wb 1 4, .l1Inv 1 4], canStart s i = true)
      ∧ (s.sr 2).toNat < 2 ^ 32 ∧ 2 ^ 32 ≤ (s.sr 4).toNat ∧ (s.sr 4).getLsbD 63 = false ∧ gaBad s 0xFFFFFFFFFFFFFFFF = true ∧ (s.sr 3).getLsbD 63 = true ∧ gaBad s (s.sr 3) = false := by decide
theorem witness_ShelfCaches_fills :
    ((bench fun c => { c with mem := { c.mem with fills := [0x40000080] } }).core 0).mem.fills.contains 0x40000080 = true
      ∧ laRange 0x40000080 = some .shelf ∧ (bench.core 0).mem.fills.contains 0x40000080 = false := by decide
/-- No injection is armed, or the beat of the sector meets one. -/
theorem witness_ShelfCaches_injection :
    let s := bench fun c => { c with mem := { c.mem with fills := [0x40000080] } }
    let i := s.modBridge 0xFF00 fun b => { b with vbInj := 0x8000000000000000 }
    let touched (s : State) : State := s.modCore 0 fun k => k.touch 0x40000080 false
    injection (touched s) = none ∧ (injection (touched i)).isSome = true ∧ (i.core 0).mem.fills.contains 0x40000080 = true := by
  decide +kernel
/-- The deadline falls 70,400,000 cycles after the write. -/
theorem witness_ShelfCaches_deadline :
    let s := { (bench fun c => { c with mem := { c.mem with written := [(0x40000080, (5, none))], classes := [⟨1, 0x40000000, 512, 2⟩] } }) with now := 70400005 }
    AMap.find (s.core 0).mem.written 0x40000080 = some (5, none) ∧ (5, (none : Option Nat)).1 + Config.retention ≤ s.now ∧ classAt (s.core 0) 0x40000080 = 2 := by decide
theorem witness_FullEmptyAccesses :
    let e := bench id (withRegs [(1, 0x3FFFC)])
    let f := bench (fun c => { c with mem := { c.mem with full := [0x3FFFC] } }) (withRegs [(1, 0x3FFFC)])
    (∀ i ∈ [Instr.ldWf 3 1 0, .ldWfe 3 1 0], canStart f i = true ∧ isFull f 0x3FFFC = true ∧ behind f (.full 0x3FFFC) .waitFe = false
        ∧ readersWait f 0x3FFFC = false ∧ canStart e i = true ∧ isFull e 0x3FFFC = false)
      ∧ canStart e (.stWef 2 1 0) = true ∧ behind e (.empty 0x3FFFC) .waitFe = false ∧ canStart f (.stWef 2 1 0) = true
      ∧ (∀ i ∈ [Instr.stSf 2 1 0, .feSet 1 0, .feClr 1 0, .feTst 3 1 0], canStart e i = true)
      ∧ localFault e 0 0 .fe 0x3FFFC 4 = none ∧ sourceBusy e 0x3FFFC 4 = false ∧ logStalls e.cn 0x3FFFC 4 = false
      ∧ e.cn.sync.watch.length < 16 ∧ memWf e.cn.mem.mem = true := by decide
/-- The forms that do not wait, performing later. -/
theorem witness_FullEmptyAccesses_later :
    let s := bench (withLog 0) (withRegs [(1, 0x3FFFC)])
    let l := { s with cur := { s.cur with late := true } }
    (∀ i ∈ [Instr.stSf 2 1 0, .feSet 1 0, .feClr 1 0, .feTst 3 1 0], canStart l i = true) ∧ localFault l 0 0 .fe 0x3FFFC 4 = none
      ∧ defers l 0x3FFFC 4 = true ∧ defers s 0x3FFFC 4 = false ∧ sourceBusy l 0x3FFFC 4 = false ∧ logStalls l.cn 0x3FFFC 4 = false
      ∧ memWf l.cn.mem.mem = true ∧ (3 : SReg) ≠ 0 := by decide
theorem witness_FullEmptyAccesses_watch :
    let s := bench (fun c => { c with sync := { c.sync with watch := List.range 16 } }) (withRegs [(1, 0x3FFFC)])
    s.cn.sync.watch.contains 0x3FFFC = false ∧ 16 ≤ s.cn.sync.watch.length ∧ s.cur.ctx ≠ 7 := by decide
theorem witness_LocalAtomics :
    let s := bench id (withRegs [(1, 0x3FFF8), (4, 7)])
    (∀ i ∈ [Instr.amoAdd 3 2 1 0 false true false, .amoMin 3 2 1 0 true false false, .amoMax 3 2 1 0 true false false,
        .amoAnd 3 2 1 0 true false false, .amoOr 3 2 1 0 true false false, .amoXchg 3 2 1 0 true false false,
        .amoCas 3 2 4 1 0 true true false], canStart s i = true)
      ∧ localFault s 0 0 .atomic 0x3FFF8 8 = none ∧ memWf s.cn.mem.mem = true
      ∧ oldValue s.cn 0x3FFF8 8 ≠ (s.sr 4).setWidth 64 ∧ oldValue s.cn 0x3FFF8 8 = (s.sr 0).setWidth 64 := by decide
/-- An atomic performs later, `cas` where its granule needs no record. -/
theorem witness_LocalAtomics_later :
    let s := bench id (withRegs [(1, 0x3FFF8)])
    let l := { s with cur := { s.cur with late := true } }
    let g := { l.modCore 0 (withLog 0) with cur := l.cur }
    defers l 0x3FFF8 8 = true ∧ canStart l (.amoCas 3 2 4 1 0 true true false) = true ∧ localFault l 0 0 .atomic 0x3FFF8 8 = none
      ∧ (∀ q ∈ granules 0x3FFF8 8, needsRecord { l.cn with mem := { l.cn.mem with logged := [0x3FF80] } } q = false)
      ∧ (∃ q ∈ granules 0x3FFF8 8, needsRecord g.cn q = true) := by decide

-- Remote accesses
/-- Core 1 opens its scratchpad to its region, with every right. -/
def opened (s : State) : State :=
  s.modCore 1 fun c => { c with comm := { c.comm with win := vset c.comm.win 0 { w0 := 0x0000000012700000 } } }
/-- A machine with messages in flight. -/
def netBench (kinds : List MsgKind) (f : Core → Core := id) (tag : Msg → Msg := id) : State :=
  let s := opened (mapped bench)
  { s.modCore 1 f with net := (kinds.zipIdx).map fun p => tag { id := p.2, kind := p.1 } }
/-- The GA of a byte of core 1. -/
def ga1 (la : Nat) : Word := BitVec.ofNat 64 (2 ^ 63 + 2 ^ 43 + la)
/-- An origin: entry 7 of context 0 of core 0. -/
def from0 : Origin := { node := 0, ctx := 0, id := 7 }

theorem witness_RemoteLoadsAndReads :
    let s := (mapped bench).modCtx 0 0 (withRegs [(1, ga1 0x100)])
    (∀ i ∈ [Instr.get 3 1 0 true, .getv 3 1 0, .put 2 1 0 true true, .putv 2 1 0 false, .amoAdd 3 2 1 0 false false true,
        .amoCas 3 2 4 1 0 true true true], canStart s i = true)
      ∧ gaFault s (globalGa (s.sr 1) 0) 128 = none ∧ gaFault s (globalGa (s.sr 1) 0) 8 = none ∧ shrCopies s (globalGa (s.sr 1) 0) = [] := by
  decide
theorem witness_RemoteLoadsAndReads_shared :
    (shrCopies (bench fun c => { c with mem := { c.mem with shr := [⟨(ga1 0x100).toNat, 5⟩] } }) (ga1 0x100)).length = 1 := by decide
/-- Bit 63 clear; bit 42 set; the numbers around the hubs and bridges; wafer 15 outside the pod. -/
theorem witness_RemoteAccessTraps :
    let bad (ga : Word) := gaBadAt bench 0 ga
    bad 0x0000080000000100 = true ∧ bad 0x8000040000000000 = true
      ∧ bad (BitVec.ofNat 64 (2 ^ 63 + 0xF3BF * 2 ^ 43)) = false ∧ bad (BitVec.ofNat 64 (2 ^ 63 + 0xF3C0 * 2 ^ 43)) = true
      ∧ bad (BitVec.ofNat 64 (2 ^ 63 + 0xFF1F * 2 ^ 43)) = false ∧ bad (BitVec.ofNat 64 (2 ^ 63 + 0xFF20 * 2 ^ 43)) = true
      ∧ bad (BitVec.ofNat 64 (2 ^ 63 + 15 * 2 ^ 59)) = true
      ∧ gaFault bench (ga1 4) 8 = some ⟨0x03, ga1 4⟩ ∧ gaFault bench 0x100 8 = some ⟨0x04, 0x100⟩ ∧ gaFault bench (ga1 8) 8 = none := by
  decide
theorem witness_RemoteAccessTraps_payload :
    let s := bench id (withRegs [(1, ga1 0), (2, 0x3FFF8), (3, 8), (4, 0x10008)])
    (∀ i ∈ [Instr.putH 2 1 3 0, .putK 2 1 3 0, .cpStart 1 2 3 0], canStart s i = true) ∧ s.cur.ctx ≠ 7
      ∧ payloadFault s (s.sr 2) (s.sr 1) (s.sr 3) = none
      ∧ payloadFault s 4 (s.sr 1) (s.sr 3) = some ⟨0x03, 4⟩ ∧ payloadFault s (s.sr 2) (ga1 4) (s.sr 3) = some ⟨0x03, ga1 4⟩
      ∧ payloadFault s (s.sr 2) (s.sr 1) 4 = some ⟨0x03, 4⟩ ∧ payloadFault s (s.sr 2) 8 (s.sr 3) = some ⟨0x04, 8⟩
      ∧ payloadFault s (s.sr 2) (s.sr 1) 0 = some ⟨0x04, 0⟩ ∧ payloadFault s 0 (s.sr 1) (s.sr 4) = some ⟨0x04, 0x10008⟩
      ∧ payloadFault s (s.sr 2) (s.sr 1) 16 = some ⟨0x04, 0x3FFF8⟩ ∧ payloadFault s 0x100000 (s.sr 1) (s.sr 3) = some ⟨0x04, 0x100000⟩ := by
  decide
theorem witness_RemoteAccessTraps_copy :
    let s := bench id (withRegs [])
    copyFault s 0x100 (ga1 0) 8 = none ∧ copyFault s 4 (ga1 0) 8 = some ⟨0x03, 4⟩ ∧ copyFault s 0 (ga1 4) 8 = some ⟨0x03, ga1 4⟩
      ∧ copyFault s 0 (ga1 0) 4 = some ⟨0x03, 4⟩ ∧ copyFault s (BitVec.ofNat 64 (2 ^ 63 + 0xFF20 * 2 ^ 43)) 0 8 = some ⟨0x04, BitVec.ofNat 64 (2 ^ 63 + 0xFF20 * 2 ^ 43)⟩
      ∧ copyFault s (ga1 0) (ga1 0) 0 = some ⟨0x04, 0⟩ ∧ copyFault s (ga1 0) (ga1 0) 0x1000008 = some ⟨0x04, 0x1000008⟩
      ∧ copyFault s 0x40000 0 8 = some ⟨0x04, 0x40000⟩ ∧ copyFault s 0 0x40000 8 = some ⟨0x04, 0x40000⟩
      ∧ copyFault s 0x100 0x108 16 = some ⟨0x04, 0x100⟩ ∧ copyFault s 0x100 0x110 16 = none := by decide
/-- A payload of two pieces, read at once or later. -/
theorem witness_Payloads :
    let s := { mapped bench with nextId := 1, net := [{ id := 0, kind := .piece from0 (ga1 0x100) [0, 0] (ga1 0x100) 2 false 5 false, unread := some (0x3FFFE, granules 0x3FFFE 2) }] }
    let l := { s with cur := { s.cur with late := true } }
    physGa (mapped bench) 0 (ga1 0x78) = some (ga1 0x78) ∧ pieces 0x78 16 = [(0, 8), (8, 8)] ∧ s.cur.late = false ∧ l.cur.late = true
      ∧ (∀ m ∈ l.net, m.id < l.nextId) ∧ (message s 0).bind (·.unread) = some (0x3FFFE, [0x3FF80]) ∧ isFrozen s 0 = false
      ∧ isFrozen (s.modDomain 0 fun d => { d with frozen := true }) 0 = true := by decide +kernel
theorem nextPiece_of_one (s : State) (x : Copy) (o : Nat) (h : x.todo = [o]) : x.nextPiece s = o := by
  simp [Copy.nextPiece, chosen, h, Nat.mod_one]
/-- A copy of one piece, and core 0 with it. -/
def copyOf (dst src : Word) (fires : Nat) : Copy :=
  { id := 7, ctx := 0, fires := fires, pc := 0, dst := dst, src := src, len := 128, k := 5, todo := [0] }
def copyBench (x : Copy) : State := opened (mapped (bench fun c => { c with comm := { c.comm with copies := [x] } }))
/-- The copy may move its piece. -/
def copyGoes (y : Copy) : Bool :=
  let s := copyBench y
  decide ((s.core 0).comm.copies.find? (fun z => z.id == 7) = some y) && decide (y.todo = [0]) && !isFrozen s 0
    && [y.src, y.dst].all fun g => !isFrozen s (copyHome s 0 g) && !portHeld s 0 (copyHome s 0 g) none
/-- From core 1 into the scratchpad and into registers, with an issuer that runs and one that has ended; into and out of what
core 1 does not open. -/
theorem witness_Copies :
    ∀ y ∈ [copyOf 0x200 (ga1 0x100) 0, copyOf 0x200 (ga1 0x100) 1, copyOf 0x200008 (ga1 0x100) 0, copyOf (ga1 0x40000000) 0x100 0,
        copyOf 0x200 (ga1 0x40000000) 0], copyGoes y = true := by decide +kernel
theorem witness_Copies_sides :
    let s := copyBench (copyOf 0x200 (ga1 0x100) 0)
    copyRefusal s 0 (ga1 0x100) 0 128 .read = none ∧ copyRefusal s 0 0x200 0 128 .write = none
      ∧ copyRefusal s 0 (ga1 0x40000000) 0 128 .read = some 0x05 ∧ copyRefusal s 0 0x100 0 128 .read = none
      ∧ copyRefusal s 0 (ga1 0x40000000) 0 128 .write = some 0x05 ∧ copyRefusal s 0 0x200008 0 128 .write = none
      ∧ (s.ctx 0 0).fires = 0 ∧ (s.ctx 0 0).st = .ready ∧ laRange (copyLa 0x200) ≠ some .regs ∧ laRange (copyLa 0x200008) = some .regs
      ∧ memWf (s.core 0).mem.mem = true ∧ inLog (s.core 0) 0x200 128 = false := by decide +kernel
/-- A `put.h` that waits at the port of core 1. -/
def waitingPut : Msg := { id := 0, src := 0, kind := .piece from0 (ga1 0x100) [1, 2] (ga1 0x100) 2 true 5 true, held := true }
def waitingBench : State := { copyBench (copyOf 0x200 (ga1 0x100) 0) with net := [waitingPut] }
theorem waitingBench_holds : portHeld waitingBench 0 1 none = true := by
  have h : msgTarget waitingBench waitingPut.kind = 1 := by decide +kernel
  have n : waitingBench.net = [waitingPut] := rfl
  have k : pieceOf waitingPut.kind ≠ none := by decide
  simp [portHeld, h, n, k, show waitingPut.held = true from rfl, show waitingPut.src = 0 from rfl]
theorem witness_Copies_waits :
    isFrozen (waitingBench.modDomain 0 fun d => { d with frozen := true }) 0 = true ∧ isGa (ga1 0x100) = true
      ∧ portHeld waitingBench 0 1 none = true ∧ copyHome waitingBench 0 (ga1 0x100) = 1 :=
  ⟨by decide +kernel, by decide +kernel, waitingBench_holds, by decide +kernel⟩
theorem witness_Fences :
    let s := (mapped bench).modCore 0 fun c =>
      { c with comm := { c.comm with tracker := [{ id := 3, ctx := 0, fires := 0, pc := 0, ga := ga1 0, kind := .put }] } }
    canStart s (.fence .rel .reg) = true ∧ inScope s 0 .reg (homeOf s 0 (ga1 0)) = true ∧ inScope s 0 .core (homeOf s 0 (ga1 0)) = false
      ∧ isWrite (.put 2 1 0 false false) = true ∧ isRead (.get 2 1 0 false) = true := by decide
/-- An access through the local alias port, and a word on its way. -/
theorem witness_Fences_words :
    let l : Later := ⟨4, 0, 0, 0x100, 1, .store [1] (BitVec.allOnes 32)⟩
    let s := { (mapped bench).modCore 0 (fun c => { c with later := [l], comm := { c.comm with out := [(6, 0)] } }) with
      net := [{ id := 6, kind := .nbWord 1 3 {} }] }
    let held (f : FenceHold) : State := s.modCtx 0 0 fun k => { k with fences := [f] }
    fenceLater s .rel = [4] ∧ fenceLater s .acq = [] ∧ fenceWords s .rel .reg = [6] ∧ fenceWords s .acq .reg = []
      ∧ accessOpen s 0 [4] (fun _ => true) = true ∧ accessOpen s 0 [6] (fun n => n == 1) = true ∧ accessOpen s 0 [7] (fun _ => true) = false
      ∧ fenceHoldsOf s .lb .core ≠ [] ∧ localPort (.ldS8 3 1 0) = true
      ∧ ownGa (held { kind := .lb, ids := [4], ga := true } |>.modCtx 0 0 (withRegs [(1, 0x8000000000000100)])) (.get 3 1 0 false) = true := by
  decide +kernel
theorem witness_RemoteReads :
    let s := netBench [.read from0 (ga1 0x3FFF8) 8, .read from0 (ga1 0x40000000) 8]
    (arriving s 0).map (·.kind) = some (.read from0 (ga1 0x3FFF8) 8) ∧ isCore (gaNode (ga1 0x3FFF8)) = true
      ∧ refusal s 1 0 .read 0x3FFF8 8 = none ∧ refusal s 1 0 .read 0x40000000 8 = some 0x05 ∧ readShared s 1 0 0x3FFF8 8 = false := by decide
/-- Addresses of the Dealers of hub 0 and bridge 0. -/
def hubGa (la : Nat) : Word := BitVec.ofNat 64 (2 ^ 63 + 0xF000 * 2 ^ 43 + la)
def bridgeGa (la : Nat) : Word := BitVec.ofNat 64 (2 ^ 63 + 0xFF00 * 2 ^ 43 + la)
/-- A read of eight bytes that arrives. -/
def readComes (ga : Word) : Bool := (arriving (netBench [.read from0 ga 8]) 0).isSome && !isCore (gaNode ga)
/-- A read of a Dealer's registers by a core that it serves, and one of an address that has none; of a bridge that serves no
region. -/
theorem witness_RemoteReads_dealers :
    readComes (hubGa 0x78) = true ∧ readComes (hubGa 0x98) = true ∧ readComes (bridgeGa 0x10080) = true
      ∧ isBridge (gaNode (hubGa 0x78)) = false ∧ isBridge (gaNode (bridgeGa 0x10080)) = true ∧ gaLa (bridgeGa 0x10080) = 0x10080
      ∧ (regionsOf (netBench []) 0).any (regionsOf (netBench []) (gaNode (hubGa 0x78))).contains = true
      ∧ regionsOf (netBench []) (gaNode (bridgeGa 0x10080)) = [] := by decide +kernel
theorem witness_RemoteWritesArrive :
    let s := netBench [.write from0 (ga1 0x3FFF8) [1, 2, 3, 4] true]
    (arriving s 0).isSome = true ∧ staleTags s { id := 0, kind := .write from0 (ga1 0x3FFF8) [1, 2, 3, 4] true } 1 = false
      ∧ refusal s 1 0 .writeFe 0x3FFF8 4 = none ∧ refusal s 1 0 .write 0x3FFFC 8 = some 0x05
      ∧ refusal (netBench [] fun c => { c with mem := { c.mem with full := [0x100] } }) 1 0 .writeFe 0x100 4 = some 0x05
      ∧ refusal (netBench [] fun c => { c with comm := { c.comm with win := vset c.comm.win 1 { w0 := 0x0020000010800000 } } }) 1 0 .write 0x200008 8 = none
      ∧ laRange 0x3FFF8 ≠ some .regs ∧ memWf (s.core 1).mem.mem = true ∧ inLog (s.core 1) 0x3FFF8 4 = false := by decide
theorem witness_RemoteWritesArrive_stale :
    let tag (m : Msg) : Msg := { m with dom := some 0, rin8 := 1 }
    let k := MsgKind.write from0 (ga1 0x100) [1] false
    (arriving (netBench [k] id tag) 0).isSome = true ∧ staleTags (netBench [k] id tag) (tag { id := 0, kind := k }) 1 = true := by decide
theorem witness_RemoteAtomics :
    let s := netBench [.atomic from0 (ga1 0x100) 6 8 true 9 0]
    (arriving s 0).isSome = true ∧ AmoOp.cas.code = 6 ∧ refusal s 1 0 .atomic 0x100 8 = none ∧ refusal s 1 0 .atomic 0x100000 4 = some 0x05
      ∧ oldValue (s.core 1) 0x100 8 = 0 := by decide
theorem witness_PayloadPieces :
    let k := MsgKind.piece from0 (ga1 0x100) [1, 2] (ga1 0x100) 2 false 5 false
    let h := MsgKind.piece from0 (ga1 0x100) [1, 2] (ga1 0x100) 2 true 5 false
    let s := netBench [k, h]
    (arriving s 0).isSome = true ∧ (arriving s 1).isSome = true ∧ (s.core 1).trg.pseudo.length < 8
      ∧ payloadRefusal s 1 0 (ga1 0x100) 2 false 5 = none ∧ payloadRefusal s 1 0 (ga1 0x100) 2 true 5 = some 0x05
      ∧ anyArmed (s.core 1) 0x100 2 = false
      ∧ 8 ≤ ((netBench [h] fun c => { c with trg := { c.trg with pseudo := List.replicate 8 ⟨0, 0, 0, 0⟩ } }).core 1).trg.pseudo.length := by
  decide
theorem witness_Responses :
    let e : Track := { id := 7, ctx := 0, fires := 1, pc := 0x40000002, ga := ga1 0x100, kind := .getS 3 8 }
    let s := { (bench (fun c => { c with comm := { c.comm with tracker := [e] } }) fun k =>
      { k with fires := 1, pending := [(.s 3, .request 7)] }) with
      net := [{ id := 0, kind := .response 0 7 .ack }, { id := 1, kind := .response 0 7 (.data [1]) }, { id := 2, kind := .response 0 7 (.refused 5) }] }
    (∀ m ∈ [0, 1, 2], (arriving s m).isSome = true) ∧ (s.core 0).comm.tracker.find? (fun x => x.id == 7) = some e
      ∧ (s.ctx 0 0).fires = e.fires ∧ (∃ p ∈ (s.ctx 0 0).pending, p.2 = .request 7) ∧ (s.ctx 0 0).st ≠ .free
      ∧ (s.ctx 0 0).kick = none ∧ ldwcTaken (s.core 0) 0 = none ∧ (∀ q ∈ (s.ctx 0 0).poked, q.1 ≠ 7)
      ∧ (7, 2) ∈ (s.modCtx 0 0 fun k => { k with poked := [(7, 2)] }).cc.poked := by decide

-- Channels, routers, ports, endpoints
/-- Channel 3 for stream 9, with a queue. -/
def chan3 (q : List ChWord) : Chan := { stream := 9, src := 1, host := false, cyclic := false, tokens := 4, spillLa := 0x40010000, queue := q }
/-- A core that declares channel 3. -/
def withChan (q : List ChWord) (c : Core) : Core := { c with comm := { c.comm with chans := [(3, chan3 q)] } }
/-- A route entry of stream 9: valid, in by `ins`, out by `outs`. -/
def route9 (ins outs : BitVec 16) (c : Core) : Core :=
  { c with comm := { c.comm with routes := [(9, { sets := #v[0xA000 ||| ins ||| outs, 0, 0, 0] })], credits := [(9, 4)] } }
/-- An endpoint of slot 0. -/
def ep0 (egress : Bool) : Endpoint :=
  { name := [0x61], egress := egress, stream := 9, core := 0, chan := 3, tokens := 4, bound := true, ptr := 0x1000, extent := 0x1000,
    limit := 128, credits := 0 }
/-- A machine whose slot 0 has an endpoint. -/
def epBench (x : Endpoint) : State :=
  (bench (withChan [])).modSlot 0 0 fun t => { t with eps := [x] }

theorem witness_ChannelReads :
    let s := bench (withChan [{ stream := 9 }, { stream := 9 }])
    s.cn.chan 3 = some (chan3 [{ stream := 9 }, { stream := 9 }]) ∧ validPair ({ stream := 9 } : ChWord).val = true
      ∧ behind s (.chan 3) .waitRecv = false ∧ behindUnit s (.chan 3) = false
      ∧ (∀ i ∈ [Instr.chrecv 1 3 3, .chpeek 1 3 3, .chtag 3 3, .chskip 3 3], canStart s i = true)
      ∧ validPair { tag := 0, sp := true } = false ∧ s.cn.chan 23 = none ∧ (bench (withChan [])).cn.chan 3 = some (chan3 []) := by decide +kernel
theorem witness_ChannelReads_credits :
    let s := { bench (withChan [{ lot := 6 }]) with lots := [(6, 1, 9, 2)] }
    s.lots.find? (fun l => l.1 == 6) = some (6, 1, 9, 2) ∧ slotOf s 0 = some 0 := by decide +kernel
/-- The matrix unit has taken the first word of a tile from channel 3, or none yet. -/
theorem witness_ChannelReads_unit :
    let s (k : Nat) : State := bench fun c =>
      { withChan [{ stream := 9 }] c with mx := { c.mx with queue := [.ldwc 1 3 .bf16 false 0 5 (List.replicate k 0)] } }
    takenByUnit (s 0) 3 = false ∧ takenByUnit (s 1) 3 = true ∧ takenByUnit (s 1) 4 = false ∧ canStart (s 1) (.chskip 3 3) = true := by
  decide +kernel
theorem witness_ChannelWordsSent :
    let s := bench (route9 0x10 0x20)
    sendSet s 0 9 = some 0xA030 ∧ (0xA030 : BitVec 16).getLsbD 15 = true ∧ (0xA030 : BitVec 16).getLsbD 4 = true
      ∧ canStart s (.chsend 1 2 9) = true ∧ canStart s (.chmark 2 9) = true ∧ egressOf s 0 9 = none ∧ isChunkStream s 0 9 = false
      ∧ creditsOf s 0 9 = 4 ∧ creditsOf bench 0 9 = 0 ∧ sendSet bench 0 9 = none
      ∧ (bench.modSlot 0 0 fun t => { t with image := some { placedImage with chunk := 0x200 } }).cur.core = 0
      ∧ isChunkStream (bench.modSlot 0 0 fun t => { t with image := some { placedImage with chunk := 0x200 } }) 0 9 = true
      ∧ egressOf (epBench (ep0 true)) 0 9 = some (0, 0, 0) := by decide +kernel
/-- A word that goes east and into channel 3, with room and without; a set that does not admit it. -/
theorem witness_RoutedWords :
    let w : ChWord := { stream := 9, src := 1, lot := 6 }
    let at_ (f : Core → Core) (port : Nat) : State := { mapped (bench f) with net := [{ id := 0, kind := .word 0 port w }] }
    let s := at_ (fun c => withChan [] (route9 0x01 0x240 c)) 0
    let set : BitVec 16 := 0xA241
    (arriving s 0).isSome = true ∧ onChunkStream s 0 w = false ∧ outPorts set = [1, 4] ∧ set.getLsbD 15 = true ∧ set.getLsbD 0 = true
      ∧ channelFor s 0 w = some (3, chan3 []) ∧ AMap.find (s.core 0).comm.chans 3 = some (chan3 [])
      ∧ set.getLsbD 9 = true ∧ set.getLsbD 1 = false ∧ (meshNext 0 1).isSome = true
      ∧ (List.replicate 16 w).length = 16 ∧ senderDomains s w = [0] ∧ overtakes s 0 w = false := by decide +kernel
/-- An earlier word of the stream and source is still on its way to the channel; a word of a chunk stream. -/
theorem witness_RoutedWords_order :
    let w (lot : Nat) : ChWord := { stream := 9, src := 1, lot := lot }
    let s := { mapped (bench fun c => withChan [] (route9 0x03 0x200 c)) with
      net := [{ id := 0, kind := .word 0 0 (w 6) }, { id := 1, kind := .word 0 1 (w 5) }], nextId := 2 }
    let chunky := s.modSlot 0 0 fun t => { t with image := some { placedImage with chunk := 0x200 } }
    overtakes s 0 (w 6) = true ∧ mustWait s 0 (w 6) 0xA203 = true ∧ (arriving s 0).isSome = true ∧ onChunkStream chunky 0 (w 6) = true
      ∧ (arriving chunky 0).isSome = true ∧ 0 < s.nextId := by decide +kernel
theorem witness_RoutedWords_sets :
    ((#v[0xA000, 0, 0, 0] : Vector (BitVec 16) 4)[0]?.getD 0).getLsbD 13 = true
      ∧ ((#v[0x8000, 0, 0, 0] : Vector (BitVec 16) 4)[3]?.getD 0).getLsbD 13 = false := by decide +kernel
theorem witness_NeighbourPorts :
    let s := mapped (bench fun c => { c with comm := { c.comm with nb := vset c.comm.nb 1 (some {}) } })
    neighbour s 0 1 = some 1 ∧ neighbour s 0 0 = none ∧ nbBusy s 0 1 = false
      ∧ nbBusy (s.modCore 1 fun c => { c with comm := { c.comm with nb := vset c.comm.nb 3 (some {}) } }) 0 1 = true
      ∧ (∀ i ∈ [Instr.nbPut 1 .e, .nbGet 1 .e, .nbTst 3 .e, .nbPut 1 .n, .nbGet 1 .n], canStart s i = true)
      ∧ vget s.cn.comm.nb none 1 = some {} ∧ vget s.cn.comm.nb none 0 = none ∧ behind s (.nb 1) .waitNb = false
      ∧ behindUnit s (.nb 1) = false ∧ validPair {} = true
      ∧ (arriving { s with net := [{ id := 0, kind := .nbWord 1 3 {} }] } 0).isSome = true ∧ vget (s.core 1).comm.nb none 3 = none := by decide +kernel
theorem witness_Endpoints :
    let s := epBench (ep0 false)
    endpoint s 0 0 0 = some (ep0 false) ∧ ((s.module 0).slot 0).orphaned = false ∧ heldBytes s 0 ((s.module 0).slot 0).owner false + 128 ≤ holdSize
      ∧ endpoint (epBench { ep0 false with pos := 128, credits := 1 }) 0 0 0 = some { ep0 false with pos := 128, credits := 1 }
      ∧ slotDomain s 0 0 = some 0 ∧ (s.domain 0).ingressPause = false ∧ (s.domain 0).frozen = false ∧ (s.domain 0).rolling = false
      ∧ (∀ m ∈ [0, 1, 2], (arriving { s with net := [{ id := 0, kind := .credit 0 9 }, { id := 1, kind := .epCredit 0 0 0 },
            { id := 2, kind := .ingress 0 0 0 0 {} }] } m).isSome = true)
      ∧ (s.core 0).chan 3 = some (chan3 []) := by decide +kernel
/-- A word on its way to the first of `m` endpoints that hold `n` words each. -/
def holdBench (m n : Nat) : State :=
  { (mapped (epBench (ep0 true))).modSlot 0 0 (fun t => { t with eps := List.replicate m { ep0 true with held := List.replicate n 0 } }) with
    net := [{ id := 0, kind := .egress 0 0 0 {} }] }
/-- A hold with room, one that the word fills, and one that is full. -/
theorem witness_Endpoints_egress :
    (∀ p ∈ [(1, 0), (2, 1), (2048, 2048)], let s := holdBench p.1 p.2
        (arriving s 0).map (·.kind) = some (.egress 0 0 0 {}) ∧ (endpoint s 0 0 0).isSome = true
          ∧ slotDomain s 0 0 = some 0 ∧ (s.domain 0).req = false)
      ∧ (((holdBench 1 5).modDomain 0 fun d => { d with req := true }).domain 0).req = true
      ∧ holdFull (holdBench 2048 2048) 0 0 = true ∧ holdFull (holdBench 2047 2048) 0 0 = false := by decide +kernel

-- Triggers, flags, barriers, firing
/-- A core whose entry 4 has a handler and no condition. -/
def withEntry (tctl : BitVec 8) (c : Core) : Core :=
  { c with trg := { c.trg with entries := vset c.trg.entries 4 { hpc := 0x40000002, tctl := tctl } } }
/-- A region of one cluster that uses barrier 1. -/
def barBench (f : Core → Core := id) (g : Ctx → Ctx := id) : State :=
  (bench f g).modSlot 0 0 fun t => { t with image := some { placedImage with barUsed := 2 } }

theorem witness_TriggersAndFlags :
    let s := bench (withEntry 0) (withRegs [(1, 0x10), (2, 0xFFFF)])
    (∀ i ∈ [Instr.trgArm (.imm 4), .trgArm (.reg 1), .trgOff (.imm 31), .trgOff (.reg 2), .trgArm (.reg 2), .flgSet (.imm 0x8001),
        .flgClr (.reg 2), .cntAdd 63 (.imm 0xFFFF), .cntSet 0 (.reg 2), .cntRd 3 63, .cntWait 3 0 (.imm 0) true,
        .cntWait 3 0 (.imm 1) false], canStart s i = true)
      ∧ (∀ e : Fin 32, namesEntry s.sr (.reg 1) e = true → s.cn.trg.entries[e].hpc ≠ 0)
      ∧ namesEntry s.sr (.reg 2) 0 = true ∧ s.cn.trg.entries[(0 : Fin 32)].hpc = 0 ∧ namesEntry s.sr (.imm 4) 4 = true
      ∧ value32 s.sr (.imm 0) = s.cn.sync.k[(0 : Fin 64)] ∧ ((0 : BitVec 32) - value32 s.sr (.imm 0xFFFF)).toNat < 2 ^ 31
      ∧ ¬((0 : BitVec 32) - value32 s.sr (.imm 1)).toNat < 2 ^ 31 ∧ s.cur.ctx ≠ 7 := by decide
theorem witness_Barriers_arrivals :
    let s := barBench id (withRegs [(1, 3), (2, 0)])
    canStart s (.barArr 3 1 true) = true ∧ barFault s 1 true = none ∧ slotOf s s.cur.core = some 0
      ∧ canStart s (.barArr 3 0 false) = true ∧ (2 : BitVec 16).getLsbD 0 = false ∧ isWide s 0 0 1 = false
      ∧ (vget (barBench (fun c => { c with sync := { c.sync with bar := vset c.sync.bar 1 { pend := 2 } } })).cn.sync.bar {} 1).pend = 2
      ∧ canStart s (.barWait 1 1) = true ∧ barFault s 1 false = none ∧ (s.sr 1).extractLsb' 0 2 = (0 : BitVec 2) - 1
      ∧ ¬((s.sr 2).extractLsb' 0 2 = (0 : BitVec 2) - 1 ∨ (s.sr 2).extractLsb' 0 2 = (0 : BitVec 2) - 2)
      ∧ slotOf (s.modModule 0 fun m => { m with slots := Vector.replicate 32 {} }) 0 = none
      ∧ canStart (s.modModule 0 fun m => { m with slots := Vector.replicate 32 {} }) (.barWait 1 1) = true := by decide
theorem witness_Barriers_nodes :
    let at_ (x : BarNode) (k : MsgKind) : State :=
      { (mapped bench).modHub 0xF000 fun h => { h with bar := vset h.bar 1 x } with net := [{ id := 0, kind := k }] }
    let x : BarNode := { localCount := 1, parent := 0 }
    (∀ k ∈ [MsgKind.token 0xF000 1 0 true, .token 0xF000 1 1 false, .report 0xF000 3 1 0 true, .report 0xF000 0 1 1 false,
        .relHub 0xF000 1 0 false, .relCore 5 1], (arriving (at_ x k) 0).isSome = true ∧ (at_ x k).barNode 0xF000 1 = x)
      ∧ x.c0 + 1 ≤ x.localCount.toNat ∧ x.c1 + 1 ≤ x.localCount.toNat ∧ x.c1 = 0 ∧ x.rep1 = 0 := by decide
/-- A tree of one node in which no core arrives, when its release comes. -/
theorem witness_Barriers_silent :
    let at_ (x : BarNode) : State :=
      { (mapped bench).modHub 0xF000 fun h => { h with bar := vset h.bar 1 x, barUsed := 2 } with net := [{ id := 0, kind := .relHub 0xF000 1 0 false }] }
    (arriving (at_ {}) 0).isSome = true ∧ silentRoot (at_ {}) 0xF000 1 = true ∧ nodeComplete (at_ {}) 0xF000 1 = true
      ∧ silentRoot (at_ { localCount := 1 }) 0xF000 1 = false ∧ ((at_ {}).barNode 0xF000 1).c1 = 0 ∧ ((at_ {}).barNode 0xF000 1).rep1 = 0 := by
  decide +kernel
theorem witness_Barriers_wide :
    let s := { (mapped bench).modDomain 0 (fun d => { d with wide := vset d.wide 1 { members := [(0, 0), (0, 1)] } }) with
      net := [{ id := 0, kind := .wide 0 1 0 0 0 false }] }
    let r := { (mapped bench).modDomain 0 (fun d => { d with wide := vset d.wide 1 { members := [(0, 0), (0, 1)], rep := [(0, 1)] } }) with
      net := [{ id := 0, kind := .wide 0 1 0 0 0 false }] }
    (arriving s 0).isSome = true ∧ (arriving r 0).isSome = true ∧ (vget (s.domain 0).wide {} 1).cur = 0
      ∧ ((0, 1) ∈ (vget (s.domain 0).wide {} 1).members ∧ (0, 1) ∉ (vget (s.domain 0).wide {} 1).rep)
      ∧ (∀ q ∈ (vget (r.domain 0).wide {} 1).members, q = (0, 0) ∨ q ∈ (vget (r.domain 0).wide {} 1).rep)
      ∧ WideBar.complete { vget (s.domain 0).wide {} 1 with rep := [(0, 0)] } = false
      ∧ WideBar.complete { vget (r.domain 0).wide {} 1 with rep := [(0, 0), (0, 1)] } = true := by decide +kernel
/-- Context 1 is the lowest FREE one; entry 4 is ready, or the pseudo-trigger is. -/
theorem witness_Firing :
    let s := mapped (bench (withEntry 1))
    let p := mapped (bench fun c => { withEntry 0 c with trg := { (withEntry 0 c).trg with pseudo := [⟨4, 0x100, 8, 1⟩] } })
    let r := mapped (bench fun c => { withEntry 1 c with trg := { (withEntry 1 c).trg with ctl := 0x1F01 } })
    (s.ctx 0 1).st = .free ∧ (s.ctx 0 0).st ≠ .free ∧ fires s 0 = some (some 4) ∧ fires p 0 = some none ∧ fires r 0 = some (some 4)
      ∧ (p.core 0).trg.pseudo ≠ [] ∧ (r.core 0).trg.ctl.getLsbD 0 = true ∧ (s.core 0).trg.ctl.getLsbD 0 = false
      ∧ (bench fun c => { c with trg := { c.trg with ctl := 2 } }).cn.trg.ctl.getLsbD 1 = true := by decide
theorem witness_Firing_wakes :
    let s := mapped (bench (withChan [{ stream := 9 }]) (withRegs []))
    let hold (i : Instr) (st : CtxState) (arg : Nat) : State := s.modCtx 0 0 fun k =>
      { k with st := st, blocked := some { instr := i, pc := 0x40000002, succ := 0x40000042, value := 0, since := 0, arg := arg, regs := { s := vset k.s 1 3 } } }
    (mayWake (hold (.cntWait 3 0 (.imm 0) true) .waitCnt 0) 0 0).isSome = true
      ∧ (mayWake (hold (.cntWait 3 0 (.imm 1) true) .waitCnt 0) 0 0).isSome = true
      ∧ (mayWake (hold (.barWait 1 1) .waitBar 0) 0 0).isSome = true
      ∧ (mayWake (hold (.chrecv 1 3 3) .waitRecv 3) 0 0).isSome = true
      ∧ (∀ b, mayWake (hold (.chrecv 1 3 3) .waitRecv 3) 0 0 = some b →
          behind (asBlocked (hold (.chrecv 1 3 3) .waitRecv 3) 0 0 b) (.chan 3) .waitRecv = false
            ∧ behindUnit (asBlocked (hold (.chrecv 1 3 3) .waitRecv 3) 0 0 b) (.chan 3) = false)
      ∧ (hold (.barWait 1 1) .waitBar 0 |>.ctx 0 0).reports = [] ∧ validPair ({ stream := 9 } : ChWord).val = true := by
  refine ⟨by decide +kernel, by decide +kernel, by decide +kernel, by decide +kernel, ?_, by decide +kernel, by decide +kernel⟩
  intro b h
  simp only [mayWake] at h
  have hb : b = _ := (Option.some.inj h).symm
  subst hb
  exact ⟨by decide +kernel, by decide +kernel⟩
/-- Context 0, blocked in an instruction that read `rs`, with changes to the core. -/
def waitBench (i : Instr) (st : CtxState) (arg : Nat) (rs : List (Nat × Word)) (f : Core → Core := id) : State :=
  (mapped (epBench (ep0 true))).modCore 0 f |>.modCtx 0 0 fun k =>
    { k with st := st, blocked := some { instr := i, pc := 0x40000002, succ := 0x40000042, value := 0, since := 0, arg := arg, regs := { s := (withRegs rs {}).s } } }
/-- The context may wake, with no report, from a memory in canonical form. -/
def canWake (s : State) : Bool := (mayWake s 0 0).isSome && decide ((s.ctx 0 0).reports = []) && memWf (s.core 0).mem.mem
/-- The state in which the blocked instruction runs again. -/
def again (s : State) : State := ((mayWake s 0 0).map (asBlocked s 0 0)).getD s
theorem witness_Firing_counts :
    canWake (waitBench (.barWait 1 1) .waitBar 0 [(1, 3)]) = true ∧ canWake (waitBench (.barWait 1 1) .waitBar 0 [(1, 2)]) = true
      ∧ canWake (waitBench (.barWait 1 1) .waitBar 0 [(1, 1)]) = true ∧ (3 : BitVec 2) = 0 - 1 ∧ (2 : BitVec 2) = 0 - 2
      ∧ canWake (waitBench (.collWait 3 1 2) .waitColl 0 [(1, 0)]) = true ∧ canWake (waitBench (.collWait 3 1 2) .waitColl 0 [(1, 1)]) = true
      ∧ ((0 : BitVec 32) - 0).toNat < 2 ^ 31 ∧ ¬((0 : BitVec 32) - 1).toNat < 2 ^ 31
      ∧ (let s (d : Nat) := waitBench .mxSync .waitMxu 5 [] fun c => { c with mx := { c.mx with done := d } }
         canWake (s 5) = true ∧ canWake (s 4) = true ∧ 5 ≤ ((s 5).core 0).mx.done ∧ ((s 4).core 0).mx.done < 5)
      ∧ (let s (a : Nat) := waitBench (.egrNow 3 9) .waitSeal a []
         canWake (s 0) = true ∧ canWake (s 1) = true ∧ egressOf (s 0) 0 9 = some (0, 0, 0) ∧ endpoint (s 0) 0 0 0 = some (ep0 true)
           ∧ (ep0 true).pos < 1 ∧ ((s 0).core 0).rcv.arrival = none) := by decide +kernel
theorem witness_Firing_words :
    let full (c : Core) : Core := { c with mem := { c.mem with full := [0x100] } }
    let watched (c : Core) : Core := { c with sync := { c.sync with watch := [0x100] } }
    let s (i : Instr) (f : Core → Core) := waitBench i .waitFe 0x100 [(1, 0x100)] f
    (∀ i ∈ [Instr.ldWf 3 1 0, .ldWfe 3 1 0, .stWef 2 1 0], canWake (s i (withLog 0 ∘ full)) = true ∧ canWake (s i (withLog 1593 ∘ watched)) = true)
      ∧ laRangeOf 0x100 4 = some .scratch ∧ ((s (.ldWf 3 1 0) full).core 0).mem.full.contains 0x100 = true
      ∧ behind (again (s (.ldWfe 3 1 0) full)) (.full 0x100) .waitFe = false ∧ readersWait (again (s (.ldWfe 3 1 0) full)) 0x100 = false
      ∧ behind (again (s (.stWef 3 1 0) watched)) (.empty 0x100) .waitFe = false
      ∧ logStalls ((s (.stWef 2 1 0) (withLog 1593)).core 0) 0x100 4 = true ∧ logStalls ((s (.stWef 2 1 0) (withLog 0)).core 0) 0x100 4 = false
      ∧ ((s (.stWef 2 1 0) watched).core 0).sync.watch.contains 0x100 = true := by decide +kernel
/-- Context 1 has waited longer for the same word to be full. -/
theorem witness_Firing_words_behind :
    let s := waitBench (.ldWfe 3 1 0) .waitFe 0x100 [(1, 0x100)] fun c => { c with mem := { c.mem with full := [0x100] } }
    let two := ((s.modCtx 0 1 fun _ => (s.ctx 0 0)).modCtx 0 0 fun k => { k with blocked := k.blocked.map fun b => { b with since := 9 } })
    behind (again two) (.full 0x100) .waitFe = true := by decide +kernel
theorem witness_Firing_stores :
    let s (n : Nat) := waitBench (.stN32 2 1 0) .waitLog 0 [(1, 0x3FFFC)] fun c =>
      withLog n { c with later := [⟨4, 0, 0, 0x3FFFF, 1, .store [1] (BitVec.allOnes 32)⟩] }
    let t := waitBench (.stN32 2 1 0) .waitLog 0 [(1, 0x3FFFC)] (withLog 0)
    canWake (s 1593) = true ∧ canWake (s 0) = true ∧ canWake t = true ∧ logStalls ((s 1593).core 0) 0x3FFFC 4 = true
      ∧ logStalls (t.core 0) 0x3FFFC 4 = false ∧ defers (again (s 0)) 0x3FFFC 4 = true ∧ defers (again t) 0x3FFFC 4 = false
      ∧ logStalls ((s 0).core 0) 0x3FFFC 4 = false ∧ 0x3FFFC % 4 = 0 ∧ laRangeOf 0x3FFFC 4 = some .scratch := by decide +kernel
theorem witness_Firing_sends :
    let s (i : Instr) (f : Core → Core) := waitBench i .waitSend 9 [] f
    let inner (f : Core → Core) : State := (mapped (bench f)).modCtx 0 0 fun _ => (s (.chsend 1 2 9) id).ctx 0 0
    (∀ i ∈ [Instr.chsend 1 2 9, .chmark 2 9], canWake (s i id) = true ∧ canWake (s i (route9 0x10 0x01)) = true)
      ∧ canWake (inner (route9 0x10 0x01)) = true ∧ isChunkStream (inner id) 0 9 = false ∧ creditsOf (inner (route9 0x10 0x01)) 0 9 = 4
      ∧ egressOf (inner (route9 0x10 0x01)) 0 9 = none ∧ creditsOf (s (.chsend 1 2 9) id) 0 9 = 0
      ∧ creditsOf (s (.chsend 1 2 9) (route9 0x10 0x01)) 0 9 = 4 ∧ egressOf (s (.chsend 1 2 9) id) 0 9 = some (0, 0, 0)
      ∧ isChunkStream (s (.chsend 1 2 9) id) 0 9 = false := by decide +kernel
theorem witness_Firing_ports :
    let s (i : Instr) (v : Option VVal) := waitBench i .waitNb 0 [] fun c => { c with comm := { c.comm with nb := vset c.comm.nb 1 v } }
    let busy := (s (.nbPut 1 .e) none).modCore 1 fun c => { c with comm := { c.comm with nb := vset c.comm.nb 3 (some {}) } }
    canWake (s (.nbPut 1 .e) none) = true ∧ neighbour (s (.nbPut 1 .e) none) 0 1 = some 1 ∧ nbBusy (s (.nbPut 1 .e) none) 0 1 = false
      ∧ canWake busy = true ∧ nbBusy busy 0 1 = true
      ∧ (∀ v ∈ [none, some {}, some { tag := 0, sp := true }], canWake (s (.nbGet 1 .e) v) = true)
      ∧ vget ((s (.nbGet 1 .e) (some {})).core 0).comm.nb none 1 = some {} ∧ vget ((s (.nbGet 1 .e) none).core 0).comm.nb none 1 = none
      ∧ behind (again (s (.nbGet 1 .e) (some {}))) (.nb 1) .waitNb = false ∧ behindUnit (again (s (.nbGet 1 .e) (some {}))) (.nb 1) = false
      ∧ validPair {} = true ∧ validPair { tag := 0, sp := true } = false := by decide +kernel
theorem witness_Firing_channels :
    let s (x : Chan) := waitBench (.chrecv 1 3 3) .waitRecv 3 [] fun c => { c with comm := { c.comm with chans := [(3, x)] } }
    let w : ChWord := { stream := 9 }
    (∀ x ∈ [chan3 [], chan3 [w], chan3 [{ stream := 9, val := { tag := 0, sp := true } }], { chan3 [w] with spill := [w] }], canWake (s x) = true)
      ∧ behind (again (s (chan3 [w]))) (.chan 3) .waitRecv = false ∧ behindUnit (again (s (chan3 [w]))) (.chan 3) = false
      ∧ ((s (chan3 [w])).core 0).chan 3 = some (chan3 [w]) ∧ validPair w.val = true := by decide +kernel
theorem witness_Firing_frozen :
    isFrozen ((mapped bench).modDomain 0 fun d => { d with frozen := true }) 0 = true := by decide +kernel

-- Vector instructions
/-- Vector registers of context 0. -/
def withVecs (vs : List (Nat × VVal)) (k : Ctx) : Ctx := { k with v := vs.foldl (fun v p => vset v p.1 p.2) k.v }
/-- A vector register of a type, with its lane 0. -/
def vreg (ty : VTy) (lane0 : Nat) : VVal := { data := BitVec.ofNat 1024 lane0, tag := ty.tag }
/-- Registers 1, 2 and 3 are of one type. -/
def typed (ty : VTy) (k : Ctx) : Ctx := withVecs [(1, vreg ty 0x3F800000), (2, vreg ty 0x7FC00000), (3, vreg ty 0x80000000)] k
/-- Context 0 of core 1, which has cores to its west and east, with a word in its W register. -/
def midBench (v : VVal) (g : Ctx → Ctx) : State :=
  let s := mapped (bench id g)
  let s := s.modCore 1 fun _ => { (s.core 0) with comm := { (s.core 0).comm with nb := vset (s.core 0).comm.nb 3 (some v) } }
  { s with cur := { s.cur with core := 1 } }

theorem witness_VectorLanes :
    (∀ ty ∈ [VTy.f32, .bf16, .s32, .n32], let s := bench id (typed ty)
      (∀ r ∈ [1, 2, 3], (s.vr r).tag = ty.tag ∧ (s.vr r).sp = false)
        ∧ ∀ op ∈ [VOp.add, .sub, .mul, .min, .max], ∀ i ∈ [vecForm op 4 1 2 (some 0) ty .rne false, vecImmForm op 4 1 none ty .rne false 0x7FC0],
            wellFormed i = true ∧ canStart s i = true) := by decide +kernel
theorem witness_VectorLanes_fused :
    (∀ ty ∈ [VTy.f32, .bf16], let s := bench id (typed ty)
      (∀ i ∈ [Instr.vfma 4 1 2 3 none ty .rtz true, .vfms 4 1 2 3 none ty .rup false, .vfnma 4 1 2 3 (some 3) ty .rne false,
          .vabs 4 2 none ty .rne false, .vneg 4 2 none ty .rne false], wellFormed i = true ∧ canStart s i = true)
        ∧ ∀ fn ∈ [VFn.rcp, .rsqrt, .sqrt, .exp2, .log2, .tanh, .sgm], wellFormed (fnForm fn 4 1 none ty .rne true) = true
            ∧ canStart s (fnForm fn 4 1 none ty .rne true) = true) := by decide +kernel
theorem witness_VectorLanes_shifts :
    let s := bench id (typed .n32)
    (∀ i ∈ [Instr.vand 4 1 2 none, .vor 4 1 2 none, .vxor 4 1 2 none, .vshl 4 1 (.amt 31) none .n32, .vshr 4 1 (.reg 2) none .n32,
        .vsra 4 1 (.reg 2) none .n32, .vmulh 4 1 2 none .n32, .vmulh 4 1 2 none .s32], canStart s i = true)
      ∧ (s.vr 1).tag = VTy.tag .n32 ∧ VTy.tag .n32 = 0 := by decide +kernel
/-- A register of another type, and one with a scale. -/
theorem witness_VectorLanes_traps :
    let s := bench id (withVecs [(1, vreg .bf16 0), (2, { vreg .f32 0 with sp := true })])
    s.cur.ctx ≠ 7 ∧ (s.vr 1).tag ≠ VTy.tag .f32 ∧ (s.vr 2).sp ≠ false
      ∧ (∀ i ∈ [vecForm .add 4 1 2 none .f32 .rne false, vecImmForm .mul 4 1 none .f32 .rne false 0, fnForm .tanh 4 2 none .f32 .rne false,
          .vfma 4 1 2 3 none .f32 .rne false, .vmulh 4 1 2 none .n32, .vredAdd 4 1 none .f32], canStart s i = true) := by decide +kernel
/-- The smallest NaN and a negative number. -/
theorem witness_VectorLanes_special :
    f32 0x7F800001 = .nan ∧ f32 (BitVec.ofNat 32 0x7F800001) = .nan
      ∧ (match f32 (BitVec.ofNat 32 0x80000001) with | .fin true m _ => decide (m ≠ 0) | _ => false) = true := by decide +kernel
theorem witness_VectorLinks :
    let g (ty : VTy) : Ctx → Ctx := fun k => typed ty k
    (∀ i ∈ [Instr.vaddc 4 1 2 1 .p .p, .vsubc 4 1 2 0 .w .e, .vaddc 4 1 2 0 .w .none], canStart (midBench {} (g .n32)) i = true)
      ∧ (neighbour (midBench {} (g .n32)) 1 3).isSome = true ∧ (neighbour (midBench {} (g .n32)) 1 1).isSome = true
      ∧ (vget (midBench {} (g .n32)).cn.comm.nb none 3).isSome = true ∧ validPair (westWord (midBench {} (g .n32))) = true
      ∧ behind (midBench {} (g .n32)) (.nb 3) .waitNb = false ∧ behindUnit (midBench {} (g .n32)) (.nb 3) = false
      ∧ nbBusy (midBench {} (g .n32)) 1 1 = false
      ∧ nbBusy ((midBench {} (g .n32)).modCore 2 fun c => { c with comm := { c.comm with nb := vset c.comm.nb 3 (some {}) } }) 1 1 = true
      ∧ ((midBench {} (g .n32)).vr 1).tag = VTy.tag .n32 := by decide +kernel
theorem witness_VectorLinks_empty :
    let s := (midBench {} (typed .n32)).modCore 1 fun c => { c with comm := { c.comm with nb := vset c.comm.nb 3 none } }
    canStart s (.vaddc 4 1 2 0 .w .none) = true ∧ vget s.cn.comm.nb none 3 = none ∧ (neighbour s 1 3).isSome = true
      ∧ (s.vr 1).tag = VTy.tag .n32 ∧ (s.vr 2).sp = false := by decide +kernel
theorem witness_VectorLinks_scans :
    let s := midBench (vreg .f32 1) (typed .f32)
    (∀ i ∈ [Instr.vredAdd 4 1 (some 0) .f32, .vredMax 4 1 none .f32, .vredMin 4 1 none .f32, .vscanAdd 4 1 none .f32 .w true,
        .vscanMax 4 1 (some 0) .f32 (.vc 2 true) false, .vscanMul 4 1 none .f32 .none true, .vlrec 4 1 2 3 true .w true, .vlrec 4 1 2 3 false .vcPair false],
        wellFormed i = true ∧ canStart s i = true)
      ∧ hasTag (westWord s) .f32 = true ∧ nbBusy s 1 1 = false ∧ (neighbour s 1 1).isSome = true ∧ (s.vr 3).tag = VTy.tag .f32
      ∧ wellFormed (.vredAdd 4 1 none .bf16) = true ∧ canStart (bench id (typed .bf16)) (.vredAdd 4 1 none .bf16) = true := by decide +kernel
theorem witness_PredicateForms :
    (∀ ty ∈ [VTy.f32, .bf16, .s32, .n32], wellFormed (.vcmp 1 1 2 (some 0) ty .ne false) = true
        ∧ canStart (bench id (typed ty)) (.vcmp 1 1 2 (some 0) ty .ne false) = true ∧ ((bench id (typed ty)).vr 2).tag = ty.tag)
      ∧ wellFormed (.vcmp 1 1 2 none .bf16 .lt true) = true
      ∧ ∀ i ∈ [Instr.vsel 4 1 2 3, .pand 1 2 3, .por 1 2 3, .pxor 1 2 3, .pnot 1 2, .pcnt 3 1, .pfirst 3 1], canStart bench i = true := by
  decide +kernel
theorem witness_VectorRegisters :
    (∀ i ∈ [Instr.vmov 4 1 (some 0), .vbcast 4 (.lane 1 31) none, .vrot 4 1 31 none, .vshf 4 1 2 0 none, .vins 4 1 31, .vext 3 1 0,
        .vbcast 4 (.scalar 1 .f32) none, .vperm 4 1 2 none, .vtagRd 3 1 false, .vtagRd 3 1 true, .vtagSet 1 2 8 false true,
        .vtagSet 1 2 3 true false, .vtagSet 1 2 2 true false, .vtagSet 1 2 9 false false], canStart bench i = true)
      ∧ (∀ p ∈ [(VTy.f32, (0x3F80 : BitVec 16)), (.bf16, 0x7FC1), (.s32, 0xFFFF), (.n32, 0xFFFF), (.f32, 0x7FC1), (.e4m3, 0x3F80), (.e5m2, 0x7F80)],
          wellFormed (.vbcastImm 4 none p.1 .rne false p.2) = true ∧ canStart bench (.vbcastImm 4 none p.1 .rne false p.2) = true)
      ∧ decodeFloat .bf16 (0x7FC1 : BitVec 16).toNat = .nan ∧ decodeFloat .bf16 (0x3F80 : BitVec 16).toNat ≠ .nan := by decide +kernel
theorem witness_VectorConversions :
    let ok (g : Ctx → Ctx) (i : Instr) : Bool := wellFormed i && canStart (bench id g) i
    ok (typed .f32) (.vcvt 4 1 .bf16 .f32 1 .rne false) = true ∧ ok (typed .bf16) (.vcvt 4 1 .f32 .bf16 0 .rne false) = true
      ∧ ok (typed .f32) (.vqnt 4 1 2 .e4m3 .f32 3 .rne) = true ∧ ok (typed .f32) (.vqnt 4 1 0 .e2m1 .f32 7 .rne) = true
      ∧ ok (withVecs [(1, { vreg .e4m3 0 with sp := true })]) (.vdq 4 1 .bf16 .e4m3 1 .rne false) = true
      ∧ ok (withVecs [(1, vreg .cb4 0)]) (.vlut 4 1 .f32 .cb4 7) = true ∧ canStart bench (.ctabWr 1) = true
      ∧ VTy.tag .cb4 = 6 ∧ ((bench id (typed .f32)).vr 2).sp = false := by decide +kernel
theorem witness_VectorMemory :
    let s := bench (withLog 0) (withRegs [(1, 0x3FF80), (2, 0x3FF81), (3, 0x300000), (4, 0x100000000)])
    (∀ i ∈ [Instr.vld 1 1 0 (some 0) .f32, .vst 1 1 0 none, .vst 1 1 0 (some 0), .vld 1 2 0 none .f32, .vst 1 2 0 none, .vst 1 3 0 none,
        .vgat 4 1 1 0 none .f32, .vsct 4 1 1 0 none, .vgat 4 1 4 0 none .f32, .vsct 4 1 4 0 (some 0)], canStart s i = true)
      ∧ localFault s 0 0 .load 0x3FF80 128 = none ∧ localFault s 0 0 .store 0x3FF80 128 = none ∧ laRangeOf 0x3FF80 128 = some .scratch
      ∧ sourceBusy s 0x3FF80 128 = false ∧ logStalls s.cn 0x3FF80 128 = false ∧ memWf s.cn.mem.mem = true
      ∧ (∀ j : Fin 32, picks s none j = true) ∧ (∀ j : Fin 32, picks s (some 0) j = false)
      ∧ (0x3FF81 : Word).toNat % 128 ≠ 0 ∧ laRangeOf 0x300000 128 = some .csr
      ∧ (∀ j : Fin 32, localFault s 0 0 .load ((s.sr 1) + 0 + (lane (s.vr 1).data j).setWidth 64) 4 = none)
      ∧ (∀ j : Fin 32, localFault s 0 0 .store ((s.sr 4) + 0 + (lane (s.vr 1).data j).setWidth 64) 4 = some ⟨0x04, 0x100000000⟩) := by
  decide +kernel
/-- The accesses perform later; a log whose stall point is 32 records away, and one that has reached it. -/
theorem witness_VectorMemory_later :
    let s := bench (withLog 0) (withRegs [(1, 0x3FF80)])
    let l := { s with cur := { s.cur with late := true } }
    (∀ i ∈ [Instr.vld 1 1 0 none .f32, .vst 1 1 0 none, .vgat 4 1 1 0 none .f32, .vsct 4 1 1 0 none], canStart l i = true)
      ∧ defers s 0x3FF80 128 = false ∧ defers l 0x3FF80 128 = true ∧ logStalls l.cn 0x3FF80 128 = false
      ∧ (∀ j : Fin 32, defers l ((l.sr 1) + 0 + (lane (l.vr 1).data j).setWidth 64).toNat 4 = true
          ∧ defers s ((l.sr 1) + 0 + (lane (l.vr 1).data j).setWidth 64).toNat 4 = false)
      ∧ 1561 + 32 ≤ logStallPoint (withLog 1561 {}) ∧ logStalls (bench (withLog 1593)).cn 0x3FF80 4 = true := by decide +kernel
theorem witness_VectorMemory_shelf :
    let s := bench id (withRegs [(1, 0x40000080)])
    canStart s (.vld 1 1 0 none .f32) = true ∧ localFault s 0 0 .load 0x40000080 128 = none ∧ laRange 0x40000080 = some .shelf
      ∧ s.cn.hasSector 0x40000080 = false := by decide +kernel

-- The matrix unit
/-- Core 0 with the operation at the head of its matrix queue, a word in its channel 3, and FP32 rows of ones. -/
def mxBench (ops : List MxOp) (w : ChWord := { val := vreg .bf16 0 }) (g : Ctx → Ctx := id) : State :=
  mapped (bench (fun c => { (withChan [w] c) with
    mx := { c.mx with queue := ops, w := vset c.mx.w 1 { wfmt := VTy.tag .bf16 } }
    comm := { (withChan [w] c).comm with nb := vset c.comm.nb 3 (some {}) } }) g)
/-- An `MX_CFG` value: channel 3, weight register 1, RSRC row 0 from the accumulator, RDST there too. -/
def cfg1 : Word := 3 + 1 * 2 ^ 5

theorem witness_MatrixForms :
    let s := mxBench [] {} fun k => typed .bf16 (withRegs [(1, 0x40000080), (2, cfg1)] k)
    (∀ i ∈ [Instr.mxLdw 1 1 0 .bf16 false, .mxLdwc 1 3 .bf16 false, .mxCfg 3 (some 2), .mxCfg 3 none, .mxClr 511 1023, .mxMac 1 1 0 .bf16 false,
        .mxMacp 1 1 511 .bf16 false .zero .e, .mxMacp 1 1 0 .bf16 false .acc .both, .mxRd 1 0 true, .mxSync], canStart s i = true)
      ∧ (s.sr 1).toNat % 128 = 0 ∧ laRangeOf (s.sr 1).toNat (tileBytes .bf16 false) = some .shelf
      ∧ localCheck s 0 0 .load (s.sr 1) (tileBytes .bf16 false) = none
      ∧ (s.cn.chan 3).isSome = true ∧ (s.cn.chan 23).isSome = false
      ∧ (issuedFormat s.cn 1).1 = VTy.tag .bf16 ∧ (issuedFormat s.cn 0).1 ≠ VTy.tag .bf16 ∧ (s.vr 1).tag = VTy.tag .bf16
      ∧ s.cn.mx.queue = [] ∧ (neighbour s 0 1).isSome = true ∧ neighbour s 0 3 = none ∧ s.cur.ctx ≠ 7 := by decide +kernel
theorem witness_MatrixForms_cfg : CfgOk cfg1 ∧ CfgOk 0x0000FF3F15FF0077 ∧ ¬CfgOk (cfg1 ||| 0x80) ∧ ¬CfgOk 24 :=
  ⟨⟨by decide, by decide, by decide, by decide⟩, ⟨by decide, by decide, by decide, by decide⟩,
    fun h => absurd h.reserved (by decide), fun h => absurd h.chan (by decide)⟩
theorem witness_MatrixForms_run :
    let s := (mxBench [] {} id).modCore 0 fun c => { c with mx := { c.mx with cfg := cfg1 } }
    canStart s (.mxRun .bf16 false 0xFFFF (some 63)) = true ∧ (issuedFormat s.cn (s.cn.mx.cfg.extractLsb' 5 2).toNat).1 = VTy.tag .bf16
      ∧ (s.cn.chan (s.cn.mx.cfg.extractLsb' 0 5).toNat).isSome = true ∧ s.cn.mx.cfg.extractLsb' 27 2 ≠ 1
      ∧ s.cn.mx.cfg.extractLsb' 25 2 ≠ 2 ∧ s.cn.mx.cfg.extractLsb' 27 2 ≠ 2 := by decide +kernel
theorem witness_MatrixForms_scales :
    let s := (mxBench [] {} (typed .f32)).modCore 0 fun c => { c with mx := { c.mx with w := vset c.mx.w 2 { wfmt := VTy.tag .e4m3 } } }
    canStart s (.mxScw 2 1 false) = true ∧ (issuedFormat s.cn 2).1.toNat = 3 ∧ (s.vr 1).tag = 1 := by decide +kernel
theorem witness_MatrixForms_sync : (mxBench [.cfg]).cn.mx.queue ≠ [] ∧ canStart (mxBench [.cfg]) .mxSync = true := by decide +kernel
theorem witness_MatrixForms_traps :
    let s := mxBench [] {} (withRegs [(1, 0x100000000), (2, 0x40000001), (3, 0x3FF80), (4, 0x100000), (5, 0x41C00000)])
    let d := s.modCore 0 fun c => { c with mem := { c.mem with bankLive := 0x3FFF } }
    (∀ i ∈ [Instr.mxLdw 1 1 0 .f32 false, .mxLdw 1 2 0 .f32 false, .mxLdw 1 3 0 .f32 false, .mxLdw 1 4 0 .f32 false, .mxLdwc 1 3 .bf16 true,
        .mxScw 0 1 false], canStart s i = true)
      ∧ laRangeOf 0x3FF80 (tileBytes .f32 false) = none ∧ laRangeOf 0x100000 (tileBytes .f32 false) = some .acc
      ∧ localCheck d 0 0 .load 0x41C00000 (tileBytes .f32 false) = some ⟨0x0B, 0x41C00000⟩
      ∧ ¬(3 ≤ (issuedFormat s.cn 0).1.toNat ∧ (issuedFormat s.cn 0).1.toNat ≤ 6) := by decide +kernel
theorem witness_MatrixUnit :
    let ctab : Vector (BitVec 16) 16 := Vector.replicate 16 0
    let ldw := mxBench [.ldw 1 0x40000080 .bf16 false 0 []]
    let rd := (mxBench [.rd 511 true 0 1 7]).modCtx 0 0 fun k => { k with pending := [(.v 1, .request 7)] }
    let mac := mxBench [.mac 1 (vreg .bf16 0) 511 false .acc .both ctab 0 .bf16 none, .cfg]
    isFrozen ldw 0 = false ∧ isFrozen rd 0 = false ∧ isFrozen mac 0 = false
      ∧ anyExpired ldw 0 0x40000080 (tileBytes .bf16 false) = false ∧ laRangeOf 0x40000080 (tileBytes .bf16 false) = some .shelf
      ∧ laRangeOf 0 (tileBytes .bf16 false) = some .scratch ∧ (granules 0 (tileBytes .bf16 false)).all (fun g => classAt (ldw.core 0) g != 2) = true
      ∧ inLog (mac.core 0) 0x100000 0x10000 = false ∧ (rd.ctx 0 0).pending.any (fun p => p.2 == .request 7) = true
      ∧ (∀ p ∈ (rd.ctx 0 0).poked, p.1 ≠ 7)
      ∧ nbBusy mac 0 1 = false ∧ (neighbour mac 0 1).isSome = true ∧ (vget (mac.core 0).comm.nb none 3).isSome = true
      ∧ contextFirst (mac.core 0) (.nb 3) .waitNb mac.nextId = false
      ∧ ∀ ops ∈ [[MxOp.scw 1 0 true], [.cfg], [.clr 511 2]], isFrozen (mxBench ops) 0 = false := by decide +kernel
/-- The word that the queue lacks is the last, or one before it. -/
theorem witness_MatrixUnit_words :
    let at_ (w : ChWord) (k : Nat) : State := (mxBench [.ldwc 1 3 .bf16 false 0 5 (List.replicate k 0)] w).modCtx 0 0 fun x =>
      { x with st := .waitRecv, blocked := some { instr := .nop, pc := 0x40000002, succ := 0x40000042, value := 0, since := 5, arg := 3, regs := {} } }
    (∀ k ∈ [0, 30, 31], k < 32 ∧ isFrozen (at_ { val := vreg .bf16 0 } k) 0 = false
        ∧ contextFirst ((at_ { val := vreg .bf16 0 } k).core 0) (.chan 3) .waitRecv 5 = false
        ∧ ((at_ { val := vreg .bf16 0 } k).ctx 0 0).reports = [])
      ∧ validPair (vreg .bf16 0) = true ∧ (vreg .bf16 0).tag = VTy.tag .bf16 ∧ (vreg .f32 0).tag ≠ VTy.tag .bf16
      ∧ ((at_ { val := vreg .bf16 0 } 31).core 0).chan 3 = some (chan3 [{ val := vreg .bf16 0 }]) := by decide +kernel
theorem witness_MatrixUnit_runs :
    let at_ (cfg : Word) (q : Nat) : State := mxBench [.run 7 cfg .bf16 false 2 q (some 0) (Vector.replicate 16 0) 0 0 0x40000002 none]
    (∀ q ∈ [0, 1], isFrozen (at_ cfg1 q) 0 = false ∧ q < 2 ∧ contextFirst ((at_ cfg1 q).core 0) (.chan 3) .waitRecv (at_ cfg1 q).nextId = false)
      ∧ (vget ((at_ cfg1 0).core 0).comm.nb none 3).isSome = true ∧ contextFirst ((at_ cfg1 0).core 0) (.nb 3) .waitNb 0 = false
      ∧ nbBusy (at_ cfg1 0) 0 1 = false ∧ (neighbour (at_ cfg1 0) 0 1).isSome = true
      ∧ maySend ((at_ cfg1 0).modCore 0 (route9 0x10 0x01)) 0 9 = true ∧ egressOf ((at_ cfg1 0).modCore 0 (route9 0x10 0x01)) 0 9 = none
      ∧ ((at_ cfg1 0).ctx 0 0).fires = 0 ∧ ((at_ cfg1 0).ctx 0 0).st = .ready ∧ ((at_ cfg1 0).ctx 0 0).kick = none
      ∧ ldwcTaken { ((at_ cfg1 0).core 0) with mx := { ((at_ cfg1 0).core 0).mx with queue := [] } } 0 = none
      ∧ (vreg .f32 0).tag ≠ VTy.tag .bf16 := by decide +kernel

-- CSRs, traps, collectives, seals
/-- Context 7 executes. -/
def asTrap (s : State) : State := { (s.modCtx 0 7 fun k => { k with st := .ready, pc := 0x40000002 }) with cur := { s.cur with ctx := 7 } }

theorem witness_SpecialRegisters :
    let s := mapped (bench (withLog 0) (withRegs [(1, 0xFFFFFFFFFFFFFFFF)]))
    let m := s.modCtx 0 0 fun k => { k with sts := 0x10 }
    (∀ i ∈ [Instr.csrWr 3 1 0x001, .csrSet 3 1 0x008, .csrClr 3 1 0x009, .csrWr 3 1 0x010, .csrSet 3 1 0x012, .csrClr 3 1 0x020,
        .csrWr 3 1 0x021, .csrWr 3 1 0x02E, .csrSet 3 1 0x02F, .csrWr 3 1 0x042, .csrClr 3 1 0x0BF], canStart s i = true)
      ∧ canStart s (.csrRd 3 0x0C0) = true ∧ s.cur.ctx ≠ 7 ∧ canStart m (.csrWr 3 1 0x054) = true
      ∧ m.cc.sts.getLsbD 4 = true ∧ s.cc.sts.getLsbD 4 = false ∧ (domainOf m 0).isSome = true := by decide +kernel
theorem witness_SpecialRegisters_reads :
    (csrNow bench 0x001).isSome = true ∧ (csrNow bench 0x042).isSome = true ∧ (csrNow bench 0x0BF).isSome = true
      ∧ csrNow bench 0x0C0 = none ∧ (csrNow bench 0x031).isSome = true ∧ (csrNow bench 0x032).isSome = true :=
  ⟨rfl, rfl, rfl, rfl, rfl, rfl⟩
theorem witness_SpecialRegisters_banks :
    popcount (0xFFFC : BitVec 16) = 14 ∧ popcount (0xFFF8 : BitVec 16) < 14 ∧ bench.cn.mem.bankLive = 0xFFFF := by decide +kernel
/-- A window write that is allowed, one whose word is not valid, and one of context 7 over a context that is not FREE. -/
theorem witness_SpecialRegisters_windows :
    let s := bench id (withRegs [(1, 0x12700000)])
    winValid (csrMerged .wr 0xFFFFFFFF3FFC0000 0 (s.sr 1)) 0 = true ∧ s.cc.sts.getLsbD 4 = false
      ∧ winValid (csrMerged .wr 0xFFFFFFFF3FFC0000 0 0xFFFFFFFF3FFC0000) 0 = false
      ∧ (let t := asTrap (bench fun c => { c with comm := { c.comm with win := vset c.comm.win 1 { writer := 0 } } })
         t.cur.ctx = 7 ∧ t.cn.comm.win[(1 : Fin 8)].writer ≠ 7 ∧ (t.ctx 0 0).st ≠ .free) := by decide +kernel
theorem witness_SystemInstructions_forms :
    let s := mapped bench
    let t := asTrap s
    (∀ i ∈ [Instr.trap 0xFFFF, .brk, .eret, .idle, .frz 1, .endHandler], canStart s i = true ∧ canStart t i = true)
      ∧ s.cur.ctx ≠ 7 ∧ t.cur.ctx = 7 ∧ domainOf s 0 = some 0 ∧ (s.domain 0).phase.pastCheck = false ∧ s.cc.sts.getLsbD 4 = false
      ∧ ((s.modDomain 0 fun d => { d with phase := .ckpt }).domain 0).phase.pastCheck = true
      ∧ (s.modCtx 0 0 fun k => { k with sts := 0x10 }).cc.sts.getLsbD 4 = true := by decide +kernel
theorem witness_SystemInstructions_eret :
    let t := asTrap (bench fun c => { c with rcv := { c.rcv with trapCtx := 0x0000000140000002 } })
    let k := asTrap (bench fun c => { c with rcv := { c.rcv with trapCtx := 0x0000010140000002 } })
    canStart t .eret = true ∧ t.cur.ctx = 7 ∧ t.cn.rcv.trapCtx.getLsbD 40 = false ∧ (t.cn.rcv.trapCtx.extractLsb' 32 3).toNat = 1
      ∧ (t.ctx 0 1).reports = [] ∧ canStart k .eret = true ∧ k.cn.rcv.trapCtx.getLsbD 40 = true := by decide +kernel
theorem witness_SystemInstructions_delivery :
    let p : PTrap := { code := 0x0D, reported := false, orphan := false, pc := 0x40000002, val := 1, rpc := 0x40000042, ctx := some 0, stamp := 3 }
    let young (c : Core) : Core := { c with rcv := { c.rcv with traps := [{ p with stamp := 0 }] } }
    let q : PTrap := { p with stamp := 2 }
    let s := mapped (bench fun c => { c with rcv := { c.rcv with traps := [p, q], trapVec := 0x40000002 } })
    let n := mapped (bench fun c => { c with rcv := { c.rcv with traps := [p, q] } })
    (s.core 0).rcv.traps = [p] ++ q :: [] ∧ q.stamp < p.stamp ∧ q.stamp < cycleOf { s with now := 3 } 0 ∧ cycleOf (mapped (bench young)) 0 ≤ 0 ∧ (s.ctx 0 7).st = .free ∧ isFrozen s 0 = false
      ∧ (s.core 0).rcv.trapVec.extractLsb' 0 32 ≠ (0 : BitVec 32) ∧ (n.core 0).rcv.trapVec.extractLsb' 0 32 = (0 : BitVec 32)
      ∧ ((s.modCtx 0 7 fun k => { k with st := .idle }).ctx 0 7).st = .idle ∧ domainOf n 0 = some 0 := by decide +kernel
theorem witness_CollectiveForms_kicks :
    let ga : Word := BitVec.ofNat 64 (2 ^ 63 + 0xF000 * 2 ^ 43)
    let s := mapped (bench id (withRegs [(1, ga), (4, ga + 8), (5, 0)]))
    canStart s (.collKick 1 2 3 7) = true ∧ canStart s (.collKick 4 2 3 0) = true ∧ gaBad s ga = false ∧ isHub (gaNode ga) = true
      ∧ ga.extractLsb' 0 32 = (0 : BitVec 32) ∧ physGa s 0 ga = some ga ∧ (ga + 8).extractLsb' 0 32 ≠ (0 : BitVec 32)
      ∧ gaBad s 0 = true := by decide +kernel
/-- Wafer 1 is a member of the pod, and no link reaches it. -/
theorem witness_CollectiveForms_path :
    let ga : Word := BitVec.ofNat 64 (2 ^ 63 + 2 ^ 59 + 0xF000 * 2 ^ 43)
    let s := ((bench id (withRegs [(1, ga)])).modModule 0 fun m => { m with members := 3 }).modModule 1 fun m => { m with present := true, wafer := 1, members := 3 }
    canStart s (.collKick 1 2 3 0) = true ∧ gaBad s ga = false ∧ isHub (gaNode ga) = true ∧ ga.extractLsb' 0 32 = (0 : BitVec 32)
      ∧ physGa s 0 ga = none := by decide +kernel
theorem witness_CollectiveForms_answers :
    let at_ (f : Dealer → Dealer) : State := { (mapped (bench id fun k => { k with kick := some 0x40000042 })).setDealer 0xF000 (f {}) with
      net := [{ id := 0, kind := .kick 0 0 0xF000 2 0 0 0x40000002 }] }
    let deck : Dealer → Dealer := fun d => { d with deck := some ⟨Vector.replicate 8 0, [0]⟩ }
    let k : Kick := { vec := 0, sb := 0, sc := 0, kicker := 0 }
    (arriving (at_ deck) 0).isSome = true ∧ ((at_ deck).ctx 0 0).kick = some 0x40000042 ∧ ((at_ deck).ctx 0 0).reports = []
      ∧ kickLate (at_ deck) 0xF000 0 = false ∧ kickLate (at_ fun d => { deck d with kickAt := (1, 5) }) 0xF000 0 = true
      ∧ servedTarget (at_ deck) 0xF000 0 = true ∧ ((at_ deck).dealer 0xF000).st ≠ .halted ∧ ((at_ deck).dealer 0xF000).kicks.length < 2
      ∧ 2 ≤ ((at_ fun d => { deck d with kicks := [k, k] }).dealer 0xF000).kicks.length ∧ ((at_ id).dealer 0xF000).deck = none := by decide +kernel
theorem witness_CollectiveForms_mailboxes :
    let s := bench (fun c => { c with sync := { c.sync with mb := vset c.sync.mb 3 5 } }) (withRegs [(1, 5), (2, 6)])
    (∀ i ∈ [Instr.collWait 3 1 3, .collWait 3 2 3, .collRng 3 1], canStart s i = true)
      ∧ (s.cn.sync.mb[(3 : Fin 4)].extractLsb' 0 32 - (s.sr 1).extractLsb' 0 32).toNat < 2 ^ 31
      ∧ ¬(s.cn.sync.mb[(3 : Fin 4)].extractLsb' 0 32 - (s.sr 2).extractLsb' 0 32).toNat < 2 ^ 31
      ∧ (arriving { mapped bench with net := [{ id := 0, kind := .mailbox 0 3 9 }] } 0).isSome = true := by decide +kernel
/-- A query of the range table at the end of its cycle, which its register still awaits, or does not. -/
theorem witness_CollectiveForms_queries :
    let q : RangeAsk := { id := 6, ctx := 0, fires := 0, dest := 3, la := 0x80 }
    let at_ (k : Ctx → Ctx) : State := bench (fun c => { c with comm := { c.comm with range := vset c.comm.range 7 (armedWord 0x80 1), rangeNext := [(7, 0), (6, armedWord 0x80 1)], rangeAsk := [q] } }) k
    let s := at_ fun k => { k with pending := [(.s 3, .request 6)] }
    s.cn.comm.rangeAsk = [q] ∧ (s.ctx 0 0).fires = q.fires ∧ (s.ctx 0 0).pending.any (fun p => p.2 == .request q.id) = true
      ∧ ((at_ id).ctx 0 0).pending.any (fun p => p.2 == .request q.id) = false ∧ (3 : SReg) ≠ 0 := by decide
theorem witness_SealInstructions :
    let s := mapped (bench id)
    let a := s.modCore 0 fun c => { c with rcv := { c.rcv with arrival := some 0 } }
    let v := s.modCtx 0 0 fun k => { k with sts := 0x10 }
    let e := (mapped (epBench (ep0 true))).modCore 0 fun c => { (route9 0x10 0x01 c) with rcv := c.rcv }
    (∀ i ∈ [Instr.sealArr 3, .sealWait 3, .sealReq, .egrNow 3 9], canStart s i = true ∧ canStart a i = true ∧ canStart v i = true ∧ canStart e i = true)
      ∧ s.cc.sts.getLsbD 4 = false ∧ s.cur.ctx ≠ 7 ∧ s.cn.rcv.arrival = none ∧ a.cn.rcv.arrival = some a.cur.ctx ∧ v.cc.sts.getLsbD 4 = true
      ∧ domainOf s 0 = some 0 ∧ (egressEndpoint e 9).isSome = true ∧ egressEndpoint s 9 = none
      ∧ domainOf (s.modModule 0 fun m => { m with slots := Vector.replicate 32 {} }) 0 = none
      ∧ (arriving { s with net := [{ id := 0, kind := .sealReq 0 }] } 0).isSome = true := by decide +kernel

-- Dealers and Decks
/-- The Dealer of hub 0 about to issue a word of a Deck of four, with a core that lets its region in. -/
def dealBench (f : Dealer → Dealer := id) : State := opened (mapped (deckBench [0, 0, 0, 0] f))
/-- Registers of a Dealer. -/
def withDregs (rs : List (Nat × Word)) (d : Dealer) : Dealer := { d with d := rs.foldl (fun v p => vset v p.1 p.2) d.d }
/-- A data word in the engine. -/
def dkOp (i : Instr) (off : Nat := 0) (ga : Word := 0) (sent : Bool := false) : DkOp :=
  { id := 5, instr := i, pc := 0, off := off, ga := ga, stream := 9, inst := 0, todo := sourcePieces i ga, sent := sent }
/-- A Dealer with one word in its engine. -/
def engineBench (o : DkOp) (f : Dealer → Dealer := id) : State := dealBench fun d => f { d with engine := [o] }

theorem witness_DeckWords :
    let s := dealBench (withDregs [(1, 5), (2, ga1 0x80), (3, 0x80), (5, ga1 0x40), (6, BitVec.ofNat 64 (2 ^ 63 + 0xF000 * 2 ^ 43))])
    let e := engineBench (dkOp (.dkPut 1 2 0 0 false 0 false 0) 0 (ga1 0x80)) (withDregs [(2, ga1 0x80)])
    (s.dealer 0xF000).st = .running ∧ dealerFrozen s 0xF000 = false ∧ s.cur.dealer = 0xF000
      ∧ (s.dealer 0xF000).length = 4 ∧ (s.dealer 0xF000).reg 1 ≠ 0 ∧ (s.dealer 0xF000).reg 4 = 0
      ∧ ((0 : BitVec 32) - 0).toNat < 2 ^ 31 ∧ ¬((0 : BitVec 32) - 5).toNat < 2 ^ 31
      ∧ gaBadAt s 0 (ga1 0x80) = false ∧ physGa s 0 (ga1 0x80) = some (ga1 0x80) ∧ gaNode (ga1 0x80) = 1
      ∧ isCore 1 = true ∧ servedTarget s 0xF000 1 = true ∧ laRangeOf 0x80 0x80 = some .scratch ∧ 0x40 % 128 ≠ 0
      ∧ (s.dealer 0xF000).engine = [] ∧ s.net = [] ∧ dealerDomain s 0xF000 = some 0
      ∧ (e.dealer 0xF000).engine.length = 1 ∧ homeOf e 0 (ga1 0x80) = 1 ∧ isHub (gaNode ((s.dealer 0xF000).reg 6)) = true
      ∧ servedTarget s 0xF000 0x100 = true ∧ servedTarget s 0xF000 8 = false := by decide +kernel
theorem witness_DeckWords_loops :
    let d : Dealer := { pc := 3, lpEnd := 3, lpBeg := 1, lpCnt := 2 }
    (d.pc = d.lpEnd ∧ 2 ≤ d.lpCnt.toNat) ∧ ({ d with lpCnt := 1 } : Dealer).lpCnt = 1 ∧ ({ d with lpCnt := 0 } : Dealer).lpCnt = 0 := by decide
theorem witness_DeckData_issue :
    let s := dealBench (withDregs [(1, 0x17FF00), (2, ga1 0), (3, 0x17FF80), (5, 0)])
    (s.dealer 0xF000).st = .running ∧ ((s.dealer 0xF000).reg 1 + BitVec.ofNat 64 (256 * 0)).toNat + 256 = 0x180000
      ∧ ((s.dealer 0xF000).reg 3).toNat % 256 ≠ 0
      ∧ remoteBad s 0xF000 (ga1 0) 256 .read = false ∧ remoteBad s 0xF000 (ga1 0x3FF80) 256 .read = true
      ∧ remoteBad s 0xF000 (ga1 0) 256 .dealer = false ∧ remoteBad s 0xF000 (ga1 0x3FF80) 256 .dealer = true
      ∧ (s.dealer 0xF000).engine.length < 8
      ∧ 8 ≤ ((dealBench fun d => { d with engine := List.replicate 8 (dkOp .dkSealpt) }).dealer 0xF000).engine.length := by decide +kernel
theorem witness_DeckData_engine :
    let recv := dkOp (.dkRecv 1 2 0 9 7 0)
    let h : Held := { sender := 0xF001, stream := 9, sz := 0, ctag := 7, inst := 0, data := [1, 2] }
    let r := engineBench recv fun d => { d with held := [h] }
    let send := engineBench (dkOp (.dkSend 1 0 2 0 9 7 false 0))
    let sendG := engineBench (dkOp (.dkSend 1 2 2 0 9 7 true 0) 0 (ga1 0))
    let copy := engineBench (dkOp (.dkCopy 1 2 0 .sum false true 0) 0 (ga1 0))
    let put := engineBench (dkOp (.dkPut 1 2 0 0 true 7 false 0) 0 (ga1 0))
    (∀ s ∈ [r, send, sendG, copy, put], dealerFrozen s 0xF000 = false ∧ ((s.dealer 0xF000).engine.find? fun e => e.id == 5).isSome = true)
      ∧ matchChunk (r.dealer 0xF000) recv = some h ∧ h.data.length = chunkWords 0 ∧ h.sz ≠ 1 ∧ mayAccess (r.dealer 0xF000) recv = true
      ∧ sendsBefore (send.dealer 0xF000) (dkOp (.dkSend 1 0 2 0 9 7 false 0)) = false
      ∧ wordsAtRouter send 0xF000 (dkOp (.dkSend 1 0 2 0 9 7 false 0) 0 0 true) = false
      ∧ remoteBad sendG 0xF000 (ga1 0) 128 .read = false ∧ remoteBad sendG 0xF000 (ga1 0x40000) 128 .read = true
      ∧ homeOf sendG 0 (ga1 0) = 1 ∧ putsBefore put 0xF000 (put.dealer 0xF000) (dkOp (.dkPut 1 2 0 0 true 7 false 0) 0 (ga1 0)) = false
      ∧ remoteBad put 0xF000 (ga1 0) 256 .dealer = false ∧ physGa put 0 (ga1 0) = some (ga1 0)
      ∧ (∀ x ∈ put.net, pieceOf x.kind ≠ some 11) := by decide +kernel
/-- A source in two aligned pieces, one of them still to be read, and none. -/
theorem witness_DeckData_pieces :
    let send := dkOp (.dkSend 1 2 0 0 9 7 true 0) 0 (ga1 0x40)
    let copy := dkOp (.dkCopy 1 2 0 .sum false true 0) 0 (ga1 0x40)
    (∀ o ∈ [send, copy, { copy with todo := copy.todo.drop 2 }, { send with todo := [] }], let s := engineBench o
        reachFree s 0xF000 (s.dealer 0xF000) o = true ∧ mayAccess (s.dealer 0xF000) o = true)
      ∧ send.todo = [(0, 64), (64, 128), (192, 64)] ∧ (copy.todo.drop 2).length = 1 ∧ powered (engineBench send) 0xF000 = true
      ∧ (∀ p ∈ send.todo, remoteBad (engineBench send) 0xF000 (ga1 0x40 + BitVec.ofNat 64 p.1) p.2 .read = false)
      ∧ remoteBad (engineBench send) 0xF000 (ga1 0x40000) 64 .read = true
      ∧ reachFree (engineBench send) 0xF000 ({ engine := [{ copy with id := 3 }, send] } : Dealer) send = false := by decide +kernel
/-- The piece that is taken next of one that is left, which a waiting `put.h` holds back or does not. -/
theorem witness_DeckData_held :
    let o := { dkOp (.dkCopy 1 2 0 .sum false true 0) 0 (ga1 0x40) with todo := [(192, 64)] }
    let w : Msg := { id := 0, src := 0xF000, kind := .piece from0 (ga1 0x100) [1, 2] (ga1 0x100) 2 true 5 true, held := true }
    portHeld (engineBench o) 0xF000 1 none = false ∧ portHeld { engineBench o with net := [w] } 0xF000 1 none = true
      ∧ o.todo[chosen (engineBench o) o.todo.length]? = some (192, 64) := by
  refine ⟨by decide +kernel, ?_, by simp [chosen, Nat.mod_one]⟩
  have h : msgTarget { engineBench { dkOp (.dkCopy 1 2 0 .sum false true 0) 0 (ga1 0x40) with todo := [(192, 64)] } with
      net := [{ id := 0, src := 0xF000, kind := .piece from0 (ga1 0x100) [1, 2] (ga1 0x100) 2 true 5 true, held := true }] }
      (.piece from0 (ga1 0x100) [1, 2] (ga1 0x100) 2 true 5 true) = 1 := by decide +kernel
  unfold portHeld
  simp only [List.any_cons, List.any_nil, Bool.or_false, h]
  simp [pieceOf]
/-- A piece whose tags are stale. -/
theorem witness_DeckData_stale :
    let m : Msg := { id := 0, kind := .dkPiece 0xF000 5 (ga1 0x100) [1, 2] 63 true 7, dom := some 0, rin8 := 1 }
    let s := { dealBench with net := [m] }
    (arriving s 0).isSome = true ∧ staleTags s m 1 = true ∧ staleTags s { m with rin8 := 0 } 1 = false := by decide +kernel
theorem witness_DeckData_chunks :
    let w (index inst : Nat) : ChWord := { stream := 9, chunk := some { sz := 0, ctag := 7, inst := inst, sender := 0xF001, index := index } }
    let at_ (w : ChWord) (f : Dealer → Dealer) : State := { dealBench f with net := [{ id := 0, kind := .chunk 0xF000 w }] }
    let h : Held := { sender := 0xF001, stream := 9, sz := 0, ctag := 7, inst := 0, data := [1] }
    (∀ x ∈ [w 0 0, w 0 1, w 0 2, w 0 3, { w 0 0 with chunk := none }, { w 0 0 with mark := true }], (arriving (at_ x id) 0).isSome = true)
      ∧ (arriving (at_ (w 1 0) fun d => { d with held := [h] }) 0).isSome = true ∧ h.data.length < chunkWords h.sz
      ∧ ((at_ (w 0 0) id).dealer 0xF000).deck ≠ none ∧ ((at_ (w 0 0) fun d => { d with deck := none }).dealer 0xF000).deck = none
      ∧ ((at_ (w 0 0) fun d => { d with st := .halted }).dealer 0xF000).st = .halted
      ∧ (1 + 4 - ((at_ (w 0 0) id).dealer 0xF000).curInst % 4) % 4 < 2 ∧ 2 ≤ (2 + 4 - ((at_ (w 0 0) id).dealer 0xF000).curInst % 4) % 4
      ∧ heldChunkBytes ((at_ (w 1 0) fun d => { d with held := [h] }).dealer 0xF000) + 128 ≤ 0x80000 := by decide +kernel
/-- Owner words of cluster 0's hub, and of another. -/
theorem witness_DeckData_tiles :
    let at_ (own : Word) (ga : Word) : State :=
      { (dealBench).modCore 1 (fun c => { c with comm := { c.comm with range := vset c.comm.range 7 own } }) with
        net := [{ id := 0, kind := .dkPiece 0xF000 5 ga [1, 2] 63 true 7 }] }
    (arriving (at_ 0x80000001 (ga1 0x100)) 0).isSome = true ∧ nacked (at_ 0x80000001 (ga1 0x100)) 1 0xF000 .dealer 0x100 2 = false
      ∧ nacked (at_ 0 (ga1 0x40000)) 1 0xF000 .dealer 0x40000 2 = true ∧ memWf ((at_ 0 (ga1 0)).core 1).mem.mem = true
      ∧ inLog ((at_ 0 (ga1 0)).core 1) 0x100 2 = false ∧ laRange 0x100 ≠ some .regs
      ∧ (0x80000001 : Word).getLsbD 31 = true ∧ (0x80000001 : Word).getLsbD 30 = false ∧ ((0x80000001 : Word).extractLsb' 20 10).toNat = clusterOf 0xF000
      ∧ ((0x80100001 : Word).extractLsb' 20 10).toNat ≠ clusterOf 0xF000
      ∧ (∀ x ∈ (at_ 0 (ga1 0x100)).net, x.id ≠ 0 → pieceOf x.kind ≠ some 11) := by decide +kernel
/-- An entry whose change comes at the end of the cycle. -/
theorem witness_DealerArrivals_cycle :
    let c : Core := { comm := { range := Vector.replicate 8 5, rangeNext := [(7, 1), (6, 2), (7, 3)] } }
    entryAtEnd c 7 = 3 ∧ entryAtEnd c 6 = 2 ∧ entryAtEnd c 0 = 5 := by decide
theorem witness_DealerArrivals :
    let k : Kick := { vec := 7, sb := 1, sc := 2, kicker := 1 }
    let s := dealBench fun d => { d with kicks := [k], st := .idle }
    let arm (len : Nat) (own : Word) : State := { dealBench.modCore 1 (fun c => { c with comm := { c.comm with range := vset c.comm.range 7 own } }) with
      net := [{ id := 0, kind := .arm 0xF000 1 7 0x80 len 3 }, { id := 1, kind := .signal 0xF000 7 }] }
    (s.dealer 0xF000).deck.isSome = true ∧ (s.dealer 0xF000).kicks = [k] ∧ (s.dealer 0xF000).st = .idle ∧ dealerFrozen s 0xF000 = false
      ∧ (∀ p ∈ [(0x80, (0 : Word)), (0, 0), (0, 0x80000001), (0, 0x80100001), (0x2000000, 0), (0x80, 0x80000001)],
          (arriving (arm p.1 p.2) 0).isSome = true ∧ (arriving (arm p.1 p.2) 1).isSome = true)
      ∧ ((arm 0 0x80000001).core 1).comm.range[7]?.getD 0 = 0x80000001 := by decide +kernel

-- Seals and recovery
/-- A domain of one cluster whose contexts are all FREE, with changes to the domain and to core 0. -/
def sealBench (x : Domain → Domain := id) (f : Core → Core := id) : State :=
  ((mapped (bench id fun k => { k with st := .free })).modCore 0 f).modDomain 0 x
/-- Core 0 holds the arrival of context 0, which waits in `i`. -/
def arrivedCore (i : Instr) (c : Core) : Core :=
  { c.setCtx 0 { c.ctx 0 with st := .waitSeal, blocked := some { instr := i, pc := 0x40000002, succ := 0x40000042, value := 0, since := 0, arg := 0, regs := {} } } with
    rcv := { c.rcv with arrival := some 0 } }

/-- What `QuietCore` asks, as one decidable proposition. -/
abbrev QuietBits (s : State) (n : Node) : Prop :=
  (∀ i : Fin 8, i ≠ 7 → (s.ctx n i).reports = []
      ∧ if (s.core n).rcv.arrival = some i then (s.ctx n i).st = .waitSeal else ctxQuiet s n (s.ctx n i) = true)
    ∧ ((s.ctx n 7).st = .free ∨ (s.ctx n 7).st = .idle) ∧ (∀ e, e < 32 → entryReady (s.core n) e = false) ∧ (s.core n).trg.pseudo = []
    ∧ (∀ p ∈ (s.core n).comm.chans, p.2.queue = [] ∧ p.2.spill = []) ∧ (∀ i : Fin 4, (s.core n).comm.nb[i] = none)
    ∧ (s.core n).comm.tracker = [] ∧ (s.core n).comm.copies = [] ∧ (s.core n).mx.queue = []
    ∧ (s.core n).later = [] ∧ (s.core n).mem.fills = []
theorem quietCore_of_bits {s : State} {n : Node} (h : QuietBits s n) : QuietCore s n :=
  ⟨h.1, h.2.1, h.2.2.1, h.2.2.2.1, h.2.2.2.2.1, h.2.2.2.2.2.1, h.2.2.2.2.2.2.1, h.2.2.2.2.2.2.2.1, h.2.2.2.2.2.2.2.2.1, h.2.2.2.2.2.2.2.2.2⟩
/-- A domain that asks for a seal. -/
def wantBench : State := sealBench fun x => { x with req := true }
theorem wantBench_quiet : ∀ p ∈ launchedSlots wantBench 0, ∀ n ∈ slotCores wantBench p.1 p.2, QuietBits wantBench n := by decide +kernel
theorem witness_SealSequence : SealMayBegin wantBench 0 :=
  ⟨by decide +kernel, by decide +kernel, by decide +kernel, by decide +kernel, by decide +kernel, fun p hp n hn => quietCore_of_bits (wantBench_quiet p hp n hn),
    by decide +kernel, by decide +kernel⟩
theorem witness_SealSequence_phases :
    let s (p : SealPhase) := sealBench fun x => { x with phase := p }
    ((s .hold).domain 0).phase = .hold ∧ inFlight (s .hold) 0 = false ∧ allReady (s .hold) 0 = true
      ∧ inFlight { s .hold with net := [{ id := 0, kind := .sealReq 0 }] } 0 = true
      ∧ allReady ((mapped bench).modDomain 0 fun x => { x with phase := .hold }) 0 = false
      ∧ ((s .clean).domain 0).phase = .clean ∧ ((s .ckpt).domain 0).phase = .ckpt ∧ ((s .flip).domain 0).phase = .flip
      ∧ (domCores (s .flip) 0).Nodup ∧ ¬((s .clean).domain 0).phase = .open_ := by decide +kernel
theorem witness_SealSequence_change :
    let s := sealBench (fun x => { x with phase := .change }) fun c =>
      { c with mem := { c.mem with bankNext := 0x7FFF }, rcv := { c.rcv with logBase := 0x41F80000, logSize := 0x80000 } }
    (s.domain 0).phase = .change ∧ PlainChange s 0 ∧ remapRefused s 0 = false ∧ (s.core 0).mem.bankNext ≠ (s.core 0).mem.bankLive :=
  ⟨by decide +kernel, ⟨by decide +kernel, by decide +kernel, by decide +kernel, by decide +kernel, by decide +kernel⟩,
    by decide +kernel, by decide +kernel⟩
theorem witness_SealSequence_release :
    let s (i : Instr) := sealBench (fun x => { x with phase := .release }) (arrivedCore i)
    (∀ i ∈ [Instr.sealWait 3, .egrNow 3 9], ((s i).domain 0).phase = .release ∧ ((s i).domain 0).wantFreeze = none ∧ 0 ∈ domCores (s i) 0
        ∧ ((s i).core 0).rcv.arrival = some 0 ∧ ((s i).ctx 0 0).st = .waitSeal) ∧ (((s (.sealWait 3)).core 0).ctx 1).reports = [] := by decide +kernel
theorem witness_SealSequence_waits :
    (((sealBench id fun c => (arrivedCore (.sealWait 3) c)).core 0).rcv.arrival = some 0) ∧ ((arrivedCore (.sealWait 3) {}).ctx 0).st = .waitSeal
      ∧ ((arrivedCore (.sealWait 3) {}).ctx 0).reports = [] := by decide +kernel
theorem witness_Recovery_checks :
    let s := mapped bench
    affected s 0 = [0] ∧ affected s 8 = [] ∧ unrecoverable s 0 = false ∧ (s.domain 0).rolling = false ∧ (memberSlots s 0).Nodup
      ∧ (domCores s 0).Nodup ∧ ((s.modDomain 0 fun x => { x with phase := .flip }).domain 0).phase = .flip
      ∧ (∀ p ∈ memberSlots s 0, p.2 < 32) := by decide +kernel
theorem witness_Recovery_resets : Resets bench 0 0 6 0 ∧ ¬Resets bench 0 0 0 0 :=
  ⟨.inl rfl, by
    have h : unrecoverable bench 0 = false := by decide +kernel
    have r : (bench.domain 0).rolling = false := by decide
    simp [Resets, h, r]⟩
/-- A memory fault that meets the core of a launched region, and one in service mode, whose context 0 executes. -/
theorem witness_Recovery_service :
    let s := bench.modModule 0 fun m => { m with slots := Vector.replicate 32 {} }
    affected s 0 = [] ∧ openDomains s 0 0 0 = none ∧ isCore 0 = true ∧ (s.ctx 0 0).st ≠ .free
      ∧ (∀ p ∈ launchedSlots (mapped bench) 0, ∀ b, b < 15 → ∀ h ∈ slotHubs (mapped bench) p.1 p.2, ((mapped bench).hub h).barUsed.getLsbD b = false) := by
  decide +kernel
theorem witness_Recovery_change :
    let s := sealBench (fun x => { x with phase := .change }) fun c => { c with mem := { c.mem with bankNext := 0x7FFF } }
    affected s 0 = [0] ∧ unrecoverable s 0 = false ∧ (s.domain 0).rolling = false ∧ (s.domain 0).phase = .change
      ∧ changeAt s 0 0 0 = true ∧ changeAt s 0 1 0 = false ∧ changeAt s 0 0 2 = false := by decide +kernel
theorem witness_Recovery_links :
    let s := mapped bench
    let l := s.modBridge 0xFF00 fun b => { b with ports := vset b.ports 2 { up := true, entry := 0x80010000 } }
    openDomains s 0 0 0 = none ∧ openDomains s 8 2 0 = none ∧ openDomains s 0 3 0 = some ([], []) ∧ openDomains s 0xFF00 3 0 = some ([], [])
      ∧ openDomains { s with net := [{ id := 0, kind := .sealReq 0 }] } 8 3 0 = some ([], [0])
      ∧ openDomains { s with net := [{ id := 0, src := 0, kind := .word 0 2 {} }] } 0 3 2 = some ([0], [0])
      ∧ (vget (l.bridge 0xFF00).ports {} 2).up = true := by decide +kernel
theorem witness_Recovery_faults :
    let s := dealBench
    isHub 0xF000 = true ∧ (s.dealer 0xF000).kicks.length ≤ 2 ∧ affected s 0xF000 = [0] ∧ unrecoverable s 0 = false
      ∧ affected s 0xF001 = [] ∧ (servedCores s 0xF000).length = 64 := by decide +kernel
/-- A checkpoint with nothing in it. -/
def emptyCkpt : Ckpt :=
  { ctxs := [], flags := 0, k := Vector.replicate 64 0, armed := 0, trgCtl := 0, win := Vector.replicate 8 {}, prot := 0, ctab := Vector.replicate 16 0
    mb := Vector.replicate 4 0, range := Vector.replicate 8 0, bar := Vector.replicate 15 {}, sealSeq := 0, curs := [], w := Vector.replicate 4 {}, acc := []
    mxCfg := 0, sent := [] }
/-- A rollback has begun in a core whose log has a record of the granule 0x80. -/
def undoBench : State :=
  sealBench (fun x => { x with rolling := true }) fun c =>
    { (withLog 1 { c with mem := { c.mem with mem := [] } }).pokeRaw (0x41F00000 + 0x40000) (leBytes 4 0 ++ leBytes 4 0x80 ++ leBytes 8 0 ++ [7, 8]) with
      rcv := { (withLog 1 c).rcv with slot0 := some emptyCkpt, slot1 := some emptyCkpt } }
theorem witness_Recovery_rollbacks :
    RollsBack undoBench 0 ∧ ((undoBench.domain 0).failed = [] ∧ (undoBench.domain 0).finished = 0) ∧ (domCores undoBench 0).Nodup ∧ (domHubs undoBench 0).Nodup ∧ 0 ∈ domCores undoBench 0
      ∧ (if (undoBench.core 0).rcv.active then (undoBench.core 0).rcv.slot1 else (undoBench.core 0).rcv.slot0) = some emptyCkpt :=
  ⟨⟨by decide +kernel, by decide +kernel⟩, by decide +kernel, by decide +kernel, by decide +kernel, by decide +kernel⟩
theorem witness_UndoRestores : ((undoBench.domain 0).failed = [] ∧ (undoBench.domain 0).finished = 0) ∧ SoundLog (undoBench.core 0) ∧ emptyCkpt.wf ∧ (undoBench.core 0).rcv.logFill = 1
    ∧ recordGranule (undoBench.core 0) 0 = 0x80 ∧ RollsBack undoBench 0 :=
  ⟨by decide +kernel, ⟨by decide +kernel, by decide +kernel, by decide +kernel, by decide +kernel, by decide +kernel⟩, by simp [Ckpt.wf, emptyCkpt, memWf],
    by decide +kernel, by decide +kernel, ⟨by decide +kernel, by decide +kernel⟩⟩
theorem witness_Recovery_failed :
    let s := undoBench.modDomain 0 fun x => { x with failed := [5] }
    let u := undoBench.modDomain 0 fun x => { x with finished := 3 }
    (s.domain 0).rolling = true ∧ (s.domain 0).restored = false ∧ 5 ∈ (s.domain 0).failed
      ∧ RollsBack u 0 ∧ (u.domain 0).failed = [] ∧ (u.domain 0).finished = 3 :=
  ⟨by decide +kernel, by decide +kernel, by decide +kernel, ⟨by decide +kernel, by decide +kernel⟩, by decide +kernel, by decide +kernel⟩
/-- R331: a check in CHANGE after one finished operation: the core has its new banks when the rollback has begun, and
the retirement of core 3 waits. -/
theorem test_finished_operation_stands :
    let s := (sealBench (fun x => { x with rolling := true, finished := 1 }) fun c => { c with mem := { c.mem with bankNext := 0x7FFF } }).modModule 0
      fun m => { m with retireReqs := [3] }
    ((runChange s 0 1).core 0).mem.bankLive = 0x7FFF ∧ ((runChange s 0 1).module 0).retireReqs = [3]
      ∧ ((runChange s 0 2).module 0).retireReqs = [] := by decide +kernel
theorem witness_Recovery_resumes :
    let s := sealBench (fun x => { x with rolling := true, restored := true }) (arrivedCore (.sealWait 3))
    (s.domain 0).rolling = true ∧ (s.domain 0).restored = true ∧ (domCores s 0).Nodup ∧ (s.domain 0).wantFreeze = none
      ∧ (∀ p ∈ memberSlots s 0, ((s.module p.1).slot p.2).wakes = false)
      ∧ (∀ n ∈ domCores s 0, ∀ x : Fin 8, (s.ctx n x).reports = []) ∧ (s.ctx 0 0).st = .waitSeal := by decide +kernel
theorem witness_Recovery_freezes :
    let s := sealBench id (withChan [{ stream := 9 }])
    (s.domain 0).frozen = false ∧ (s.domain 0).phase.pastCheck = false ∧ 0 ∈ domCores s 0 ∧ (((s.core 0).comm.chans.map (·.1)).Nodup)
      ∧ ((s.modDomain 0 fun x => { x with frozen := true }).domain 0).frozen = true
      ∧ ((s.modDomain 0 fun x => { x with phase := .ckpt }).domain 0).phase.pastCheck = true := by decide +kernel

-- Power, service phases, the host
/-- A machine whose first eight rows of sites are mapped, with slot 0, the arguments of port 1, bytes at 0x1000 of its host's memory, and all
semaphores with port 1. -/
def hostBench (t : Slot) (args : List Nat) (mem : List Byte := []) (f : Module → Module := id) : State :=
  (mapped State.reset).modModule 0 fun m => f { m with
    hsem := Vector.replicate 32 { owner := 1 }
    slots := vset m.slots 0 t
    ports := vset m.ports 0 { args := Vector.ofFn fun i => BitVec.ofNat 64 (args.getD i.val 0), hostMem := memWrite [] 0x1000 mem } }
/-- Slot 0 with the rectangle of cluster 0. -/
def slotIn (st : SlotSt) : Slot := { st := st, w := 1, h := 1, owner := 1, image := some { placedImage with argSize := 8 } }

theorem witness_PowerAndThermal :
    let s := State.reset.modHub 0xF005 fun h => { h with power := .ramping 0 }
    let late := { s with now := 2 ^ 20 }
    (s.module 0).inrush ≠ [] ∧ tokensHeld s 0 < 16
      ∧ 16 ≤ tokensHeld ((List.range 16).foldl (fun s c => s.modHub (hubNode 0 c) fun h => { h with power := .ramping 0 }) State.reset) 0
      ∧ (s.hub (hubNode 0 5)).power = .ramping 0 ∧ s.now < 0 + 2 ^ 20 ∧ 0 + 2 ^ 20 ≤ late.now ∧ (s.module 0).present = true
      ∧ ((State.reset.modModule 0 fun m => { m with inrush := [] }).module 0).inrush = [] := by decide +kernel
/-- R367: THROT_ON is set in the ramp; 8 reference cycles after power good are 4 of the core's. -/
theorem witness_PowerAndThermal_throttled :
    let s := { State.reset.modHub 0xF005 fun h => { h with power := .ramping 0, thermSts := 0x200 } with now := 100 }
    (s.hub (hubNode 0 5)).power = .ramping 0 ∧ (s.hub (hubNode 0 5)).thermSts.getLsbD 9 = true
      ∧ cycleOf s 40 = 100 ∧ hubOf 40 = hubNode 0 5
      ∧ cycleOf { nextOr s (execPowerGood 0 5 s) with now := 108 } 40 = 104 := by decide +kernel
/-- No link leads to a module, or one of another module does. -/
theorem witness_PowerAndThermal_links :
    let s := (State.reset.modModule 1 fun m => { m with present := true, wafer := 1 }).modBridge (mkNode 1 0xFF00) fun b =>
      { b with ports := vset b.ports 3 { up := true, entry := 0x80000003 } }
    linksTo State.reset 0 = [] ∧ linksTo s 0 = [(mkNode 1 0xFF00, 3)] ∧ (s.module 0).present = true := by decide +kernel
/-- The reset values of the trips are 85, 95 and 105; the hysteresis is 5. -/
theorem witness_PowerAndThermal_trips :
    let h : Hub := {}
    thermField h 8 = 85 ∧ thermField h 16 = 95 ∧ thermField h 24 = 105 ∧ thermField h 32 = 5 ∧ (104 : BitVec 8).toNat < thermField h 24
      ∧ thermField h 24 ≤ (105 : BitVec 8).toNat ∧ h.power ≠ .shut ∧ trips (h.thermSts.getLsbD 8) 85 85 5 = true
      ∧ trips (h.thermSts.getLsbD 8) 84 85 5 = false ∧ trips true 80 85 5 = true ∧ trips true 79 85 5 = false
      ∧ slotOf bench (hubNode 0 0) = some 0 ∧ slotOf bench (hubNode 0 1) = none ∧ domainOf bench (hubNode 0 0) = some 0 := by decide +kernel
theorem witness_HostInterface :
    let s := hostBench {} []
    let f := State.reset
    let t := { f with agenda := [(0, .event (.hsemAcquireRead 0 1 2))] }
    (s.module 0).present = true ∧ ((s.module 0).sem 2).owner = 1 ∧ ((f.module 0).sem 2).owner = 0 ∧ tiedRead f 0 1 2 = false ∧ tiedRead t 0 1 2 = true
      ∧ (t.module 0).tieTo = 1 ∧ ((t.modModule 0 fun m => { m with tieTo := 2 }).module 0).tieTo ≠ 1 ∧ holdsSem s 0 1 0 = true ∧ holdsSem f 0 1 0 = false
      ∧ (let e := f.modModule 0 fun m => { m with hsem := vset m.hsem 2 { owner := 2, expires := some 5 } }
         ((e.module 0).sem 2).expires = some 5 ∧ 5 ≤ ({ e with now := 5 } : State).now ∧ e.now < 5
            ∧ leaseOver e 0 2 = false ∧ leaseOver { e with now := 5 } 0 2 = true ∧ tiedRead { t with now := 5 } 0 1 2 = true
            ∧ tiedRead (t.modModule 0 fun m => { m with tied := some (2, 1) }) 0 1 2 = false) := by decide +kernel
/-- LOCKED 1 and OWNER 2, with the 0x0400 units of a lease that has just begun; the worked example's endpoint 1 of slot 3
lies at 0x2820. -/
theorem witness_HostInterface_reads :
    let f := State.reset
    let h := f.modModule 0 fun m => { m with hsem := vset m.hsem 5 { owner := 2, expires := leaseEnd f 0 }, tieTo := 2 }
    let e := (h.modSlot 0 3 fun t => { t with eps := [{ ep0 false with bound := false }, ep0 true], limErr := 2 })
    let tied := { h with agenda := [(0, .event (.hsemAcquireRead 0 1 6))] }
    registerRead h 0 1 0x14 = 0x04000021 ∧ registerRead f 0 1 0x14 = 0 ∧ registerRead tied 0 1 0x18 = 0x04000021
      ∧ ((h.module 0).sem 5).expires = some 0x40000000 ∧ ((h.module 0).sem 6).owner = 0 ∧ tiedRead h 0 1 6 = false
      ∧ tiedRead tied 0 1 6 = true ∧ (tied.module 0).tieTo ≠ 1
      ∧ registerRead e 0 1 0x2838 = 7 ∧ registerRead e 0 1 0x2818 = 0 ∧ ((e.module 0).slot 3).eps[2]? = none := by decide +kernel
theorem witness_HostInterface_limits :
    let s := hostBench { slotIn .launched with eps := [ep0 false] } []
    let t0 := (s.module 0).slot 0
    t0.st ≠ .empty ∧ t0.owner = 1 ∧ t0.orphaned = false ∧ t0.eps[0]? = some (ep0 false) ∧ (ep0 false).bound = true
      ∧ (ep0 false).limit ≤ 0x1000 ∧ 0x1000 ≤ (ep0 false).pos + (ep0 false).extent ∧ 0x1000 % 128 = 0 ∧ ¬(0x1080 ≤ (ep0 false).pos + (ep0 false).extent)
      ∧ ((hostBench {} []).module 0 |>.slot 0).st = .empty ∧ ¬((slotIn .loaded).owner = 2) := by decide +kernel
theorem reset_slotOf (n : Node) : slotOf State.reset n = none := by
  have h : ∀ i, (State.reset.module (nodeWafer n)).slot i = {} := by
    intro i
    have e : (State.reset.module (nodeWafer n)).slots = Vector.replicate 32 {} := by
      simp only [State.module, State.reset, AMap.find]
      split <;> rfl
    simp only [Module.slot, vget, e]
    by_cases h : i < 32 <;> simp [h]
  simp [slotOf, h, SlotSt.isLoaded]
theorem witness_ServiceCommands_phases : MayBringUp State.reset 0 0 0 33 32 ∧ mappable (State.reset.module 0) 0 0 32 = true :=
  ⟨⟨by decide, by decide, by decide, by simp [windowLoaded, reset_slotOf], fun _ _ _ _ => reset_slotOf _⟩, by decide +kernel⟩
/-- A window with a fused-off site of column 0 is mapped directly. -/
theorem witness_ServiceCommands_direct :
    mappable { fuseDead := [0], present := true } 0 0 32 = false ∧ ¬(33 % 33 = 0 ∧ 33 < 264 ∧ 33 = 33 ∧ 4 % 8 = 0) := by decide +kernel
theorem witness_ServiceCommands_ends :
    let p : Phase := { delivery := false, slot := 0, port := 1, px0 := 0, py0 := 0, width := 33, height := 8, sites := [], started := 0, image := [] }
    let s := hostBench {} [] [] fun m => { m with phase := some p }
    let bad := hostBench {} [] [] fun m => { m with phase := some p, rmapWritten := [(0, 0)] }
    let busy := { hostBench {} [] [] fun m => { m with phase := some { p with sites := [0] } } with net := [{ id := 0, kind := .nbWord 0 0 {} }] }
    (s.module 0).phase = some p ∧ phaseDone s p = true ∧ phaseDone busy { p with sites := [0] } = false ∧ mapValid (entryNow (s.module 0)) (windowSegs 0 0 8) = true
      ∧ ((s.module 0).rmap.map (·.1)).Pairwise (· < ·) ∧ mapValid (entryNow (bad.module 0)) (windowSegs 0 0 8) = false
      ∧ ¬(0 + 2 ^ 26 ≤ s.now) ∧ 0 + 2 ^ 26 ≤ ({ s with now := 2 ^ 26 } : State).now := by decide +kernel
/-- A delivery phase that is done in time, and one that is late. -/
theorem witness_ServiceCommands_delivery :
    let p : Phase := { delivery := true, slot := 3, port := 1, px0 := 0, py0 := 0, width := 8, height := 8, sites := [5], started := 0, image := [] }
    let s := hostBench {} [] [] fun m => { m with phase := some p }
    (s.module 0).phase = some p ∧ phaseDone s p = true ∧ p.slot < 32 ∧ ¬(p.started + 2 ^ 26 ≤ s.now)
      ∧ p.started + 2 ^ 26 ≤ ({ s with now := 2 ^ 26 } : State).now := by decide +kernel
theorem witness_RepairMapServes :
    let m : Module := { rmap := rmapOf {} }
    rmapAvail (rmapEntry m 0) = true ∧ rmapAvail (rmapEntry m (239 * 8 + 255 / 32)) = true := by decide +kernel

-- Host commands
/-- The header of an image of one cluster in domain 5, its length and CRC. -/
def imgHeader (total crc : Nat) : List Byte :=
  leBytes 4 0x4732574C ++ leBytes 2 1 ++ leBytes 2 0x80 ++ leBytes 4 total ++ leBytes 4 crc ++ leBytes 2 1 ++ leBytes 2 1 ++ leBytes 2 1 ++ leBytes 2 0
    ++ leBytes 8 0 ++ leBytes 4 5 ++ [1, 0] ++ leBytes 2 0 ++ leBytes 4 0x80000 ++ leBytes 4 0 ++ [14, 0] ++ leBytes 78 0
/-- An image whose one section is an empty Data body for all cores. -/
def imgPlain : List Byte := imgHeader 0x90 1174907162 ++ leBytes 2 3 ++ leBytes 2 0 ++ [0, 0, 7, 7] ++ leBytes 4 0x90 ++ leBytes 4 0
/-- An image whose one section is one line of code for all cores. -/
def imgCode : List Byte := imgHeader 0xD0 564832434 ++ leBytes 2 1 ++ leBytes 2 0 ++ [0, 0, 7, 7] ++ leBytes 4 0x90 ++ leBytes 4 64 ++ oneLine 0
/-- The checks before those of the command itself. -/
theorem accepted_of_bits {s : State} {w p op slot : Nat} (h : (s.module w).present = true ∧ ((s.module w).port p).busy = false ∧ opOk op slot = true
    ∧ holdsSem s w p (opSem op slot) = true ∧ orphanBars s w op slot = false) : Accepted s w p op slot := ⟨h.1, h.2.1, h.2.2.1, h.2.2.2.1, h.2.2.2.2⟩

theorem witness_HostCommands :
    (∀ op ∈ [1, 2, 3, 4, 5, 6, 0x10, 0x11, 0x12, 0x13, 0x14, 0x15, 0x16, 0x17, 0x18, 0x19], Accepted (hostBench {} []) 0 1 op 0) ∧ Accepted (hostBench {} []) 0 1 0x11 0xFF := by
  refine ⟨?_, accepted_of_bits (by decide +kernel)⟩
  have h : ∀ op ∈ [1, 2, 3, 4, 5, 6, 0x10, 0x11, 0x12, 0x13, 0x14, 0x15, 0x16, 0x17, 0x18, 0x19], ((hostBench {} []).module 0).present = true
      ∧ (((hostBench {} []).module 0).port 1).busy = false ∧ opOk op 0 = true ∧ holdsSem (hostBench {} []) 0 1 (opSem op 0) = true
      ∧ orphanBars (hostBench {} []) 0 op 0 = false := by decide +kernel
  exact fun op ho => accepted_of_bits (h op ho)
theorem witness_HostCommands_checks :
    opKnown 7 = false ∧ opOk 1 30 = false ∧ opOk 1 29 = true ∧ holdsSem State.reset 0 1 2 = false
      ∧ orphanBars (hostBench { slotIn .loaded with orphaned := true } []) 0 1 0 = true
      ∧ ((hostBench {} [] [] fun m => { m with ports := vset m.ports 0 { busy := true } }).module 0 |>.port 1).busy = true := by decide +kernel
theorem witness_HostCommands_regions :
    let s := hostBench {} [0x01010000]
    argOf s 0 1 0 = 0 + 0 * 2 ^ 8 + 1 * 2 ^ 16 + 1 * 2 ^ 24 ∧ ((s.module 0).slot 0).st = .empty ∧ rectClusters 0 0 1 1 = [0]
      ∧ clusterAvailable (s.module 0) 0 = true ∧ ((s.module 0).slots.toList.all fun t => t.st == .empty) = true
      ∧ clusterAvailable (s.module 0) 32 = false ∧ ((hostBench (slotIn .unloaded) []).module 0 |>.slot 0).st = .unloaded
      ∧ (let r := hostBench { slotIn .launched with eps := [ep0 true] } [0, 0x1000]
         argOf r 0 1 0 < 64 ∧ argOf r 0 1 1 % 4096 = 0 ∧ ((r.module 0).slot 0).eps[0]? = some (ep0 true) ∧ slotDomain r 0 0 = some 0
          ∧ (r.domain 0).frozen = false ∧ ((r.modDomain 0 fun d => { d with frozen := true }).domain 0).frozen = true) := by decide +kernel
/-- What the CRC of an image is taken over. -/
def imgZero (img : List Byte) : List Byte := img.take 12 ++ leBytes 4 0 ++ img.drop 16
theorem imgPlain_crc : badCrc imgPlain = false := by
  have e : imgZero imgPlain = ((imgZero imgPlain).drop 0).take 40 ++ ((imgZero imgPlain).drop 40).take 40 ++ ((imgZero imgPlain).drop 80).take 40 ++ ((imgZero imgPlain).drop 120).take 40 := by decide +kernel
  have h0 : (((imgZero imgPlain).drop 0).take 40).foldl crcByte 0xFFFFFFFF = 0xce608d60 := by decide +kernel
  have h1 : (((imgZero imgPlain).drop 40).take 40).foldl crcByte 0xce608d60 = 0xa3aba8ea := by decide +kernel
  have h2 : (((imgZero imgPlain).drop 80).take 40).foldl crcByte 0xa3aba8ea = 0x51b1d5a2 := by decide +kernel
  have h3 : (((imgZero imgPlain).drop 120).take 40).foldl crcByte 0x51b1d5a2 = 0xb9f856e5 := by decide +kernel
  have c : imageCrc imgPlain = ~~~(0xb9f856e5 : BitVec 32) := by
    show ~~~(List.foldl crcByte 0xFFFFFFFF (imgZero imgPlain)) = _
    rw [e]
    simp only [List.foldl_append, h0, h1, h2, h3]
  simp only [badCrc, c]
  decide +kernel
theorem imgCode_crc : badCrc imgCode = false := by
  have e : imgZero imgCode = ((imgZero imgCode).drop 0).take 40 ++ ((imgZero imgCode).drop 40).take 40 ++ ((imgZero imgCode).drop 80).take 40 ++ ((imgZero imgCode).drop 120).take 40 ++ ((imgZero imgCode).drop 160).take 40 ++ ((imgZero imgCode).drop 200).take 40 := by decide +kernel
  have h0 : (((imgZero imgCode).drop 0).take 40).foldl crcByte 0xFFFFFFFF = 0x913248ff := by decide +kernel
  have h1 : (((imgZero imgCode).drop 40).take 40).foldl crcByte 0x913248ff = 0xe44d8cc4 := by decide +kernel
  have h2 : (((imgZero imgCode).drop 80).take 40).foldl crcByte 0xe44d8cc4 = 0xc34d83c8 := by decide +kernel
  have h3 : (((imgZero imgCode).drop 120).take 40).foldl crcByte 0xc34d83c8 = 0x4c7787a0 := by decide +kernel
  have h4 : (((imgZero imgCode).drop 160).take 40).foldl crcByte 0x4c7787a0 = 0x0a9d95c0 := by decide +kernel
  have h5 : (((imgZero imgCode).drop 200).take 40).foldl crcByte 0x0a9d95c0 = 0xde55574d := by decide +kernel
  have c : imageCrc imgCode = ~~~(0xde55574d : BitVec 32) := by
    show ~~~(List.foldl crcByte 0xFFFFFFFF (imgZero imgCode)) = _
    rw [e]
    simp only [List.foldl_append, h0, h1, h2, h3, h4, h5]
  simp only [badCrc, c]
  decide +kernel
/-- Cluster 0 has power. -/
def withPower (s : State) : State := s.modHub 0xF000 fun h => { h with power := .good }
/-- A machine whose host memory holds an image for its claimed slot 0. -/
def loadBench (img : List Byte) : State := withPower <| hostBench { slotIn .unloaded with image := none } [0x1000, img.length] img
theorem witness_HostCommands_loading :
    (∀ img ∈ [imgPlain, imgCode], (cmdOf (loadBench img) 0 1 0).image (loadBench img) = img ∧ (cmdOf (loadBench img) 0 1 0).loadWaits (loadBench img) = false
        ∧ fld img 8 4 = argOf (loadBench img) 0 1 1 ∧ argOf (loadBench img) 0 1 1 % 16 = 0)
      ∧ wholeCode imgPlain = none ∧ wholeCode imgCode = some (oneLine 0) ∧ launchedSlots (loadBench imgPlain) 5 = []
      ∧ (cmdOf (loadBench imgPlain) 0 1 0).loadWaits ((loadBench imgPlain).modHub 0xF000 fun h => { h with power := .off }) = true
      ∧ ((relCores (header imgPlain)).map (relCore 0 ((loadBench imgPlain).module 0 |>.slot 0))).Nodup := by decide +kernel
theorem witness_HostCommands_loading_code :
    ∀ img ∈ [imgPlain, imgCode], imageCode (loadBench img) 0 ((loadBench img).module 0 |>.slot 0) img = 0 := by
  intro img h
  have g : badCrc img = false := by
    rcases List.mem_cons.1 h with rfl | h
    · exact imgPlain_crc
    · exact (List.mem_singleton.1 h) ▸ imgCode_crc
  have k : ∀ img ∈ [imgPlain, imgCode], badMagic img = false ∧ fld img 8 4 = img.length ∧ badLayout img = false ∧ badFields img = false
      ∧ badShape img ((loadBench img).module 0 |>.slot 0) = false ∧ badCapacity (loadBench img) 0 ((loadBench img).module 0 |>.slot 0) img = false
      ∧ badRules img = false ∧ badDomain (loadBench img) 0 ((loadBench img).module 0 |>.slot 0) img = false := by decide +kernel
  have q := k img h
  simp [imageCode, g, q]
theorem witness_HostCommands_launching :
    let s := hostBench { slotIn .loaded with eps := [ep0 false] } [0x1000, 8, 0x1008] ([1, 2, 3, 4, 5, 6, 7, 8] ++ leBytes 8 0x4000 ++ leBytes 4 0x1000 ++ leBytes 4 0)
    let t0 := (s.module 0).slot 0
    t0.st = .loaded ∧ t0.image.map (·.argSize) = some (argOf s 0 1 1) ∧ readFails s 0 1 (argOf s 0 1 0) 8 = false
      ∧ bindingsOf (hostRead s 0 1 (argOf s 0 1 2) 16) = [(0x4000, 0x1000, 0)] ∧ slotDomain s 0 0 = some 0 ∧ domainBusy s 0 = false
      ∧ (slotCores s 0 0).Nodup ∧ (t0.image.map (·.argClash)) = some false
      ∧ domainBusy (s.modDomain 0 fun d => { d with rolling := true }) 0 = true ∧ (s.domain 0).frozen = false
      ∧ domainBusy (s.modDomain 0 fun d => { d with frozen := true }) 0 = false
      ∧ memWf (s.core 0).mem.mem = true ∧ inLog (s.core 0) (0x40000 - 8) 8 = false ∧ (s.ctx 0 0).st = .free
      ∧ readFails (hostBench (slotIn .loaded) [] [] fun m => { m with ports := vset m.ports 0 { unreadable := [(0, 0x2000)] } }) 0 1 0x1000 8 = true := by
  decide +kernel
theorem witness_ServiceCommands :
    let s (args : List Nat) := hostBench (slotIn .launched) args
    argOf (s [8]) 0 1 0 % 8 = 0 ∧ ((s []).module 0).key 1 < 2 ^ 40 ∧ ((s []).module 0 |>.slot 0).heldReadouts = []
      ∧ ¬(argOf (s [8, 4096]) 0 1 0 % 8 ≠ 0 ∨ argOf (s [8, 4096]) 0 1 1 < 4096 ∨ 2 ^ 32 < argOf (s [8, 4096]) 0 1 1)
      ∧ argOf (s [959]) 0 1 0 < 960 ∧ clusterAvailable ((s []).module 0) 0 = true ∧ clusterAvailable ((s []).module 0) 959 = false
      ∧ 0 ∈ ((s []).module 0).inrush ∧ slotDomain (s []) 0 0 = some 0 ∧ ((s []).domain 0).frozen = false
      ∧ (((s []).modDomain 0 fun d => { d with frozen := true }).domain 0).frozen = true
      ∧ (∀ q ∈ memberSlots (s []) 0, (((s []).module q.1).slot q.2).wakeHeld = false) ∧ ((s []).module 0 |>.slot 0).owner = 1 ∧ (domCores (s []) 0).Nodup := by decide +kernel
/-- Arguments of THERM: its reset value, a reserved bit, thresholds that fall, and no cluster; a frozen domain that RESUME lets
run, with no injection armed; a region with no silent barrier. -/
theorem witness_ServiceCommands_therm :
    let ok (a : Nat) : Prop := a ≠ 0 ∧ a / 2 ^ 8 % 2 ^ 8 ≤ a / 2 ^ 16 % 2 ^ 8 ∧ a / 2 ^ 16 % 2 ^ 8 ≤ a / 2 ^ 24 % 2 ^ 8 ∧ 1 ≤ a / 2 ^ 32 % 2 ^ 8
    let reserved (a b : Nat) : Prop := 2 ^ 40 ≤ a ∨ a % 2 ^ 8 ≠ 0 ∨ b / 2 ^ 11 % 2 ^ 21 ≠ 0
    let s := hostBench (slotIn .launched) []
    ok 0x05695F5500 ∧ ¬ok 0x0555695F00 ∧ ¬reserved 0x05695F5500 0x400 ∧ reserved 1 0 ∧ reserved 0 0x800 ∧ reserved (2 ^ 40) 0
      ∧ (∀ b ∈ s.bridges, b.2.vbInj.getLsbD 63 = false) ∧ (s.core 0).mem.beat = none
      ∧ (∀ b, b < 15 → ∀ h ∈ slotHubs s 0 0, (s.hub h).barUsed.getLsbD b = false)
      ∧ (s.module 0).present = true ∧ (s.hub (hubNode 0 959)).power ≠ .shut := by
  decide +kernel
theorem witness_ServiceCommands_repairs :
    let s (args : List Nat) := hostBench {} args
    let l (args : List Nat) := hostBench (slotIn .launched) args
    rmapAvail (rmapEntry ((s []).module 0) 0) = true ∧ domainOf (s []) 0 = none ∧ domainOf (l []) 0 = some 0 ∧ ((s []).module 0).wafer = 0
      ∧ fieldDomains (s []) 0 0 0 = [] ∧ fieldDomains (l []) 0 0 0 = [0] ∧ ((l []).domain 0).phase ≠ .change
      ∧ (((l []).modDomain 0 fun d => { d with phase := .change }).domain 0).phase = .change ∧ ((s []).module 0).phase = none
      ∧ remapClaimed ((s []).module 0) (windowSegs 0 0 32) = false ∧ remapClaimed ((l []).module 0) (windowSegs 0 0 8) = true
      ∧ mappable ((s []).module 0) 0 0 32 = true ∧ mappable ((s []).module 0) 0 0 8 = false ∧ ((s []).modules.map (·.1)).Nodup
      ∧ argOf (s [0x10000, 0x1000]) 0 1 0 = 0 + (1 : BitVec 16).toNat * 2 ^ 16 ∧ (1 : BitVec 16).getLsbD 0 = true
      ∧ readFails (s [0x10000, 0x1000]) 0 1 0x1000 512 = false := by decide +kernel
/-- The table of zeros has no link; the first link of bridge 0 to wafer 1 is one that POD takes. -/
theorem witness_ServiceCommands_links : LinkOk 0 1 0 0 ∧ LinkOk 0 3 0 0x80010000 ∧ ¬LinkOk 0 1 0 0x80010000 :=
  ⟨fun h => absurd h (by decide), fun _ => by decide, fun h => absurd (h (by decide)) (by decide)⟩

/-! ### Single steps of the other families -/

/-- Lane 0 of register 4 after an instruction. -/
def lane0 (g : Ctx → Ctx) (i : Instr) : Option (BitVec 32) := gives (exec i (bench id g)) fun t => lane (t.vr 4).data 0
/-- Registers 1 and 2 with FP32 values in lane 0. -/
def pair32 (a b : Nat) : Ctx → Ctx := withVecs [(1, vreg .f32 a), (2, vreg .f32 b)]
/-- A register whose 1,024 bits are all ones. -/
def ones (ty : VTy) : VVal := { data := BitVec.allOnes 1024, tag := ty.tag }

-- R40: 1 + 2^-24 lies midway between 1 and the next number.
theorem test_vadd_ties_to_even : lane0 (pair32 0x3F800000 0x33800000) (.vadd 4 1 2 none .f32 .rne false) = some 0x3F800000 := by decide +kernel
theorem test_vadd_rounds_up : lane0 (pair32 0x3F800000 0x33800000) (.vadd 4 1 2 none .f32 .rup false) = some 0x3F800001 := by decide +kernel
-- R40, R42: the product of the largest numbers overflows.
theorem test_vmul_overflows : gives (exec (.vmul 4 1 2 none .f32 .rne false) (bench id (pair32 0x7F7FFFFF 0x7F7FFFFF)))
    (fun t => (lane (t.vr 4).data 0, t.cc.sts)) = some (0x7F800000, 4) := by decide +kernel
theorem test_vmul_saturates : lane0 (pair32 0x7F7FFFFF 0xFF7FFFFF) (.vmul 4 1 2 none .f32 .rne true) = some 0xFF7FFFFF := by decide +kernel
-- R218: an unselected lane keeps its value.
theorem test_vadd_unselected : lane0 (withVecs [(1, vreg .s32 5), (2, vreg .s32 6), (4, vreg .f32 9)]) (.vadd 4 1 2 (some 0) .s32 .rne false) = some 9 := by
  decide +kernel
theorem test_vsub_wraps : lane0 (withVecs [(1, vreg .n32 0), (2, vreg .n32 1)]) (.vsub 4 1 2 none .n32 .rne false) = some 0xFFFFFFFF := by decide +kernel
theorem test_vmulh_signed : lane0 (withVecs [(1, vreg .s32 0xFFFFFFFF), (2, vreg .s32 2)]) (.vmulh 4 1 2 none .s32) = some 0xFFFFFFFF := by decide +kernel
theorem test_vmulh_unsigned : lane0 (withVecs [(1, vreg .n32 0xFFFFFFFF), (2, vreg .n32 2)]) (.vmulh 4 1 2 none .n32) = some 1 := by decide +kernel
-- R221
theorem test_vrcp_of_zero : lane0 (pair32 0x80000000 0) (.vrcp 4 1 none .f32 false) = some 0xFF800000 := by decide +kernel
theorem test_vsqrt_of_four : lane0 (pair32 0x40800000 0) (.vsqrt 4 1 none .f32 .rne) = some 0x40000000 := by decide +kernel
-- R234: 1 + 2^-8 rounds to the even BF16 number.
theorem test_vcvt_narrows : lane0 (pair32 0x3F808000 0) (.vcvt 4 1 .bf16 .f32 0 .rne false) = some 0x00003F80 := by decide +kernel
theorem test_vcvt_widens : lane0 (withVecs [(1, vreg .bf16 0x4000)]) (.vcvt 4 1 .f32 .bf16 0 .rne false) = some 0x40000000 := by decide +kernel
-- R224: all ones and a carry-in of 1 give 0 and a carry-out.
theorem test_vaddc_carries : gives (exec (.vaddc 4 1 2 1 .c1 .p) (bench id (withVecs [(1, ones .n32), (2, vreg .n32 0)])))
    (fun t => (lane (t.vr 4).data 31, t.pr 1)) = some (0, 1) := by decide +kernel
theorem test_vred_add_sums : lane0 (withVecs [(1, ones .s32)]) (.vredAdd 4 1 none .s32) = some (BitVec.ofInt 32 (-32)) := by decide +kernel
theorem test_vscan_add_prefix : gives (exec (.vscanAdd 4 1 none .s32 .none false) (bench id (withVecs [(1, ones .s32)])))
    (fun t => lane (t.vr 4).data 4) = some (BitVec.ofInt 32 (-5)) := by decide +kernel
theorem test_pfirst_none : gives (exec (.pfirst 3 1) bench) (·.sr 3) = some 32 := by decide +kernel
theorem test_vext_zero_extends : gives (exec (.vext 3 1 0) (bench id (withVecs [(1, vreg .s32 0xFFFFFFFF)]))) (·.sr 3) = some 0xFFFFFFFF := by decide +kernel
theorem test_vtag_set_refused : gives (exec (.vtagSet 1 2 9 false false) bench) (·.cc.st) = some .trapped := by decide +kernel
theorem test_vst_masked : gives (exec (.vst 1 1 0 (some 0)) (bench id fun k => { (withRegs [(1, 0x100)] (withVecs [(1, ones .s32)] k)) with p := vset k.p 0 2 }))
    (fun t => (laBytes t.cn 0x103 2, laBytes t.cn 0x107 2)) = some ([0, 0xFF], [0xFF, 0]) := by decide +kernel
-- R183: VALID, and the tag of the word.
theorem test_chrecv_takes : gives (exec (.chrecv 1 3 3) (bench (withChan [{ stream := 9, htag := 0x5A, lot := 0 }])))
    (fun t => (t.sr 3, (t.cn.chan 3).map (·.queue.length))) = some (0x8000005A, some 0) := by decide +kernel
theorem test_chpeek_depth : gives (exec (.chpeek 1 3 3) (bench (withChan [{ stream := 9 }, { stream := 9 }]))) (·.sr 3) = some 0x80020000 := by decide +kernel
theorem test_chtag_empty : gives (exec (.chtag 3 3) (bench (withChan []))) (·.sr 3) = some 0 := by decide +kernel
-- R278: the phase is (REL + PEND) mod 4.
theorem test_bar_arr_phase : gives (exec (.barArr 3 1 false) (barBench fun c => { c with sync := { c.sync with bar := vset c.sync.bar 1 { rel := 3, pend := 1 } } }))
    (fun t => (t.sr 3, (vget t.cn.sync.bar {} 1).pend)) = some (0, 2) := by decide +kernel
-- R52, R53: 1 × 2 in column 0.
theorem test_mac_multiplies : gives (exec (.mxOpPerform 0)
      (mxBench [.mac 1 (vreg .bf16 0x3F80) 5 false .zero .acc (Vector.replicate 16 0) 0 .bf16 none]
        |>.modCore 0 fun c => { c with mx := { c.mx with w := vset c.mx.w 1 { wfmt := VTy.tag .bf16, tile := vset (Vector.replicate 32 0) 0 0x4000 } } }))
    (fun t => laBytes (t.core 0) (0x100000 + 128 * 5) 8) = some [0, 0, 0, 0x40, 0, 0, 0, 0] := by decide +kernel
theorem test_seal_wait_without_arrival : gives (exec (.sealWait 3) bench) (fun t => t.cn.rcv.traps.map fun p => (p.code, p.val)) = some [(0x13, 8)] := by decide +kernel
theorem test_csr_set_restricted : gives (exec (.csrSet 3 1 0x042) bench) (fun t => t.cn.rcv.traps.map fun p => (p.code, p.val)) = some [(0x04, 0x42)] := by
  decide +kernel
-- R308
theorem test_dk_add_subtracts : gives (exec (.dkAdd 3 1 2 .sub 0xFFFFFFFF) (dealBench (withDregs [(1, 5), (2, 3)]))) (fun t => (t.dealer 0xF000).reg 3) = some 3 := by
  decide +kernel
theorem test_dk_loop_skips : gives (exec (.dkLoop 1 2) dealBench) (fun t => (t.dealer 0xF000).pc) = some 3 := by decide +kernel
theorem test_dk_jmp_outside : gives (exec (.dkJmp 4) dealBench) (fun t => ((t.dealer 0xF000).st, (t.dealer 0xF000).cause)) = some (.halted, 7) := by decide +kernel
-- R62, R63
theorem test_hsem_taken : gives (exec (.hsemAcquireRead 0 1 2) State.reset) (fun t => ((t.module 0).sem 2).owner) = some 2 := by decide +kernel
-- R67
theorem test_claim_taken_rectangle : gives (exec (.claim 0 0 1) (hostBench (slotIn .loaded) [0x01010000])) (fun t => ((t.module 0).port 1).code) = some 0x23 := by
  decide +kernel

end Sys2Proof.Tests
end

section
/-! SUPPORT. Frames of the shared operations, as the statements speak of them: issuing, going on, a precise trap, and a
change of a core's caches. -/

namespace Sys2Proof.Machine

open Sys2Proof.Claims

/-! ### Frames compose -/

theorem keptAt_trans {n : Node} {x : Fin 8} {but : List Part} {s t u : State} (h : KeptAt n x but s t)
    (g : KeptAt n x but t u) : KeptAt n x but s u := by
  intro p hp
  have hst := h p hp
  have htu := g p hp
  cases p <;> simp only [Part.same] at hst htu ⊢ <;> simp_all

theorem keptAt_mono {n : Node} {x : Fin 8} {but more : List Part} {s t : State} (h : KeptAt n x but s t)
    (hs : but ⊆ more) : KeptAt n x more s t := fun p hp => h p fun hb => hp (hs hb)

/-! ### Issuing (R135) -/

theorem cn_issued (s : State) : ∃ i l y, (issued s).cn = { s.cn with issueFrom := i, lastIssued := l, yielded := y } :=
  ⟨_, _, _, State.cn_modCn s _⟩

@[simp] theorem cn_issued_mem (s : State) : (issued s).cn.mem = s.cn.mem := by
  obtain ⟨i, l, y, e⟩ := cn_issued s
  rw [e]

@[simp] theorem cycle_issued (s : State) : (issued s).cycle = s.cycle := by
  obtain ⟨i, l, y, e⟩ := cn_issued s
  simp only [State.cycle, cycleOf, cur_issued, ← State.cn_def]
  rw [State.cn_def, cur_issued] at e
  rw [e]
  rfl

/-- Issuing changes the issue order of the core, and nothing else. -/
theorem keptAt_issued (s : State) : KeptAt s.cur.core s.cur.ctx [.order] s (issued s) := by
  obtain ⟨i, l, y, e⟩ := cn_issued s
  rw [State.cn_def, cur_issued, State.cn_def] at e
  intro p hp
  cases p
  case otherCores => exact fun m hm => State.core_modCn_other s _ m hm
  case order => simp at hp
  all_goals simp [Part.same, State.ctx, Core.ctx, e] <;> rfl

/-! ### Going on and trapping -/

theorem keptAt_modCtx (s : State) (n : Node) (x : Fin 8) (f : Ctx → Ctx) : KeptAt n x [.own] s (s.modCtx n x f) := by
  have e : (s.modCtx n x f).core n = (s.core n).setCtx x (f (s.ctx n x)) := State.core_modCore_same s n _
  intro p hp
  cases p
  case otherCores => exact fun m hm => State.core_modCore_other s n m _ hm
  case otherContexts =>
    intro y hy
    rw [State.ctx, e]
    exact Core.ctx_setCtx_other _ _ _ _ hy
  case own => simp at hp
  all_goals simp [Part.same, e]

/-- An instruction that runs, with an effect `u` that leaves the issuing context alone, and goes on completes. -/
theorem completesAt_of_advance {s u : State} {i : Instr} {but : List Part} {q : State → Prop}
    (he : exec i s = .next (advance u)) (hk : KeptAt s.cur.core s.cur.ctx (.order :: but) s u) (hr : u.cur = s.cur)
    (hc : u.cc = s.cc) (hy : u.cycle = s.cycle) (hq : q (advance u)) : CompletesAt s i (goneOn s s.cc) but q := by
  refine ⟨_, he, keptAt_trans (keptAt_mono hk (by simp)) ?_, ?_, hq⟩
  · rw [← hr]
    exact keptAt_mono (keptAt_modCtx u _ _ _) (by simp)
  · rw [cc_advance, hc, hr, hy]
    rfl

/-- A trap that joins the pending set changes that set, and nothing else. -/
theorem keptAt_addTrap (s : State) (n : Node) (x : Fin 8) (t : PTrap) :
    KeptAt n x [.traps] s (s.modCore n fun c => { c with rcv := { c.rcv with traps := c.rcv.traps ++ [t] } }) := by
  intro p hp
  cases p
  case otherCores => exact fun m hm => State.core_modCore_other s n m _ hm
  case traps => simp at hp
  all_goals simp [Part.same, State.ctx, Core.ctx]

/-- A trap that a context among 0–6 takes changes that context and the pending set, and nothing else. -/
theorem keptAt_takeTrap (s : State) (n : Node) (x : Fin 8) (t : PTrap) (h : x ≠ 7) :
    KeptAt n x [.own, .traps] s (takeTrap s n x t) := by
  rw [takeTrap, if_neg h]
  exact keptAt_trans (keptAt_mono (keptAt_modCtx s n x _) (by simp)) (keptAt_mono (keptAt_addTrap _ n x t) (by simp))

/-- R334: an instruction of a context among 0–6 that takes a precise trap as it issues. -/
theorem trapsAt_of_precise {s : State} {i : Instr} {t : TrapOf} (hx : s.cur.ctx ≠ 7)
    (he : exec i s = .next (precise (issued s) t)) : TrapsAt s i t.code t.val := by
  have hx' : (issued s).cur.ctx ≠ 7 := hx
  have hr : (precise (issued s) t).cur = s.cur := takeTrap_cur _ _ _ _ hx'
  refine ⟨_, he, keptAt_trans (keptAt_mono (keptAt_issued s) (by simp)) ?_, ?_, ?_⟩
  · exact keptAt_mono (keptAt_takeTrap (issued s) _ _ _ hx') (by simp)
  · rw [cc_precise _ _ hx', cc_issued]
  · obtain ⟨_, _, _, e⟩ := cn_issued s
    rw [State.cn_def, hr, precise, cur_issued, core_takeTrap _ _ _ _ hx]
    rw [State.cn_def, cur_issued] at e
    simp only [e, cycle_issued]
    rfl

/-- R334: an instruction that can start and fails its check takes a precise trap, unless context 7 runs it. -/
theorem trapsAt_of_checked {s : State} {i : Instr} {fault : State → Option TrapOf} {k : State → State} {t : TrapOf}
    (hx : s.cur.ctx ≠ 7) (he : exec i s = .next (checked s i fault k)) (h : canStart s i = true)
    (hf : fault (issued s) = some t) : TrapsAt s i t.code t.val :=
  trapsAt_of_precise hx (by rw [he, checked_trap fault k t h hf])

/-! ### A core's caches (R97, R98) -/

/-- `d` is the core `c` but for its L1, its copies of SHR lines, its logged bits and its first read beat. -/
def OnlyCaches (c d : Core) : Prop :=
  d = { c with mem := { c.mem with l1 := d.mem.l1, shr := d.mem.shr, logged := d.mem.logged, beat := d.mem.beat } }

theorem onlyCaches_touch (c : Core) (a : Nat) (d : Bool) : OnlyCaches c (c.touch a d) := by
  simp only [OnlyCaches, Core.touch]
  split <;> rfl

theorem onlyCaches_trans {c d e : Core} (h : OnlyCaches c d) (g : OnlyCaches d e) : OnlyCaches c e := by
  rw [OnlyCaches] at h g ⊢
  rw [h] at g
  exact g

theorem onlyCaches_touchRange (c : Core) (a n : Nat) (d : Bool) : OnlyCaches c (c.touchRange a n d) := by
  simp only [Core.touchRange]
  generalize granules a n = l
  induction l generalizing c with
  | nil => rfl
  | cons g l ih => exact onlyCaches_trans (onlyCaches_touch c g d) (ih _)

theorem OnlyCaches.ctx {c d : Core} (h : OnlyCaches c d) (x : Fin 8) : d.ctx x = c.ctx x := by
  rw [h]
  rfl

/-- A change of a core's caches changes nothing of the machine but them, and of them only those that the list names. -/
theorem keptAt_modCore_caches {n : Node} {x : Fin 8} {but : List Part} {s : State} {f : Core → Core}
    (hf : OnlyCaches (s.core n) (f (s.core n)))
    (hl : .l1 ∉ but → (f (s.core n)).mem.l1 = (s.core n).mem.l1)
    (hs : .copiesShr ∉ but → (f (s.core n)).mem.shr = (s.core n).mem.shr)
    (hg : .logged ∉ but → (f (s.core n)).mem.logged = (s.core n).mem.logged)
    (hb : .beat ∉ but → (f (s.core n)).mem.beat = (s.core n).mem.beat) : KeptAt n x but s (s.modCore n f) := by
  have e := (State.core_modCore_same s n f).trans hf
  intro p hp
  cases p
  case otherCores => exact fun m hm => State.core_modCore_other s n m f hm
  case l1 => simpa [Part.same] using hl hp
  case copiesShr => simpa [Part.same] using hs hp
  case logged => simpa [Part.same] using hg hp
  case beat => simpa [Part.same] using hb hp
  all_goals simp [Part.same, State.ctx, Core.ctx, e]

end Sys2Proof.Machine
end

section
/-! SUPPORT. The L1, the shared copies and transient granules (R91, R97, R98, R165, R166, R181). -/

namespace Sys2Proof.Machine

open Sys2Proof.Claims

/-! ### An instruction whose effect is on the caches of its core -/

theorem cycle_modCn_caches {s : State} {f : Core → Core} (h : OnlyCaches s.cn (f s.cn)) :
    (s.modCn f).cycle = s.cycle := by
  have e : (s.modCn f).core s.cur.core = f s.cn := State.cn_modCn s f
  change cycleOf (s.modCn f) s.cur.core = cycleOf s s.cur.core
  simp only [cycleOf, e]
  rw [h]
  rfl

/-- An instruction that runs, changes the caches of its core and goes on completes. -/
theorem completesAt_of_caches {s : State} {i : Instr} {but : List Part} {q : State → Prop} {f : Core → Core}
    (he : exec i s = .next (advance ((issued s).modCn f))) (hf : OnlyCaches (issued s).cn (f (issued s).cn))
    (hl : .l1 ∉ but → (f (issued s).cn).mem.l1 = s.cn.mem.l1)
    (hs : .copiesShr ∉ but → (f (issued s).cn).mem.shr = s.cn.mem.shr)
    (hg : .logged ∉ but → (f (issued s).cn).mem.logged = s.cn.mem.logged)
    (hb : .beat ∉ but → (f (issued s).cn).mem.beat = s.cn.mem.beat)
    (hq : ∀ t, t.cn.mem = (f (issued s).cn).mem → q t) : CompletesAt s i (goneOn s s.cc) but q := by
  rw [← cn_issued_mem s] at hl hs hg hb
  have hk : KeptAt s.cur.core s.cur.ctx but (issued s) ((issued s).modCn f) := keptAt_modCore_caches hf hl hs hg hb
  refine completesAt_of_advance he (keptAt_trans (keptAt_mono (keptAt_issued s) (by simp))
    (keptAt_mono hk (by simp))) rfl ?_ ?_ (hq _ (by simp))
  · rw [State.cc_modCn, hf.ctx]
    exact cc_issued s
  · rw [cycle_modCn_caches hf, cycle_issued]

theorem hasSector_of_mem {c d : Core} (h : c.mem = d.mem) (a : Nat) : c.hasSector a = d.hasSector a := by
  simp only [Core.hasSector, h]

/-! ### Sectors that an access has reached are present (R97) -/

/-- The number of the own-Shelf line that holds an address. -/
def shelfLine (a : Nat) : Nat := (a - 0x40000000) / 512

/-- The sectors of a line that are present in the L1. -/
def Core.presentIn (c : Core) (line : Nat) : BitVec 4 :=
  ((c.mem.l1.find? (·.line == line)).map (·.present)).getD 0

theorem hasSector_eq (c : Core) (a : Nat) : c.hasSector a = (c.presentIn (shelfLine a)).getLsbD (a / 128 % 4) := by
  simp only [Core.hasSector, Core.presentIn, shelfLine]
  cases c.mem.l1.find? (·.line == (a - 0x40000000) / 512) <;> simp

theorem presentIn_touchLine (c : Core) (line : Nat) (bit : BitVec 4) (d : Bool) :
    (c.touchLine line bit d).presentIn line = c.presentIn line ||| bit := by
  have hline : ((c.mem.l1.find? (·.line == line)).getD { line := line, present := 0, dirty := 0 }).line = line := by
    cases h : c.mem.l1.find? (·.line == line) with
    | none => rfl
    | some l => simpa using List.find?_some h
  have hnone : (c.mem.l1.filter fun l => l.line ≠ line && some l.line ≠ c.victim line).find? (·.line == line) = none := by
    simp_all
  simp only [Core.presentIn, Core.touchLine, List.find?_append, hnone, Option.none_or, List.find?_cons, hline,
    beq_self_eq_true, Option.map_some, Option.getD_some]
  cases c.mem.l1.find? (·.line == line) <;> rfl

theorem presentIn_touch {c : Core} {a : Nat} (d : Bool) (h : laRange a = some .shelf) :
    (c.touch a d).presentIn (shelfLine a) = c.presentIn (shelfLine a) ||| sectorBit a := by
  rw [← presentIn_touchLine _ _ _ d]
  simp [Core.touch, h, Core.presentIn, shelfLine]

theorem sectorBit_self (a : Nat) : (sectorBit a).getLsbD (a / 128 % 4) = true := by
  have h : a / 128 % 4 < 4 := Nat.mod_lt _ (by decide)
  simp only [sectorBit, BitVec.getLsbD_ofNat, Nat.testBit_two_pow_self, Bool.and_true, decide_eq_true_eq, h]

/-- R97: an access reaches a sector: that sector is present, and those of its line that were present still are. -/
theorem hasSector_touch {c : Core} {a b : Nat} {d : Bool} (ha : laRange a = some .shelf) (hl : shelfLine b = shelfLine a)
    (hb : b = a ∨ c.hasSector b = true) : (c.touch a d).hasSector b = true := by
  rw [hasSector_eq, hl, presentIn_touch d ha, BitVec.getLsbD_or, Bool.or_eq_true]
  rcases hb with rfl | hb
  · exact .inr (sectorBit_self b)
  · rw [hasSector_eq, hl] at hb
    exact .inl hb

/-- R97: when the granules that a range reaches lie in one line, their sectors are present afterwards. -/
theorem hasSector_touchRange {c : Core} {a n k b : Nat} {d : Bool}
    (hl : ∀ g ∈ granules a n, laRange g = some .shelf ∧ shelfLine g = k) (hb : b ∈ granules a n) :
    (c.touchRange a n d).hasSector b = true := by
  have hk : shelfLine b = k := (hl b hb).2
  simp only [Core.touchRange]
  generalize granules a n = gs at hl hb
  have key : ∀ c : Core, b ∈ gs ∨ c.hasSector b = true → (gs.foldl (fun c g => c.touch g d) c).hasSector b = true := by
    clear hb
    induction gs with
    | nil => simp
    | cons g gs ih =>
      intro c hc
      obtain ⟨hg, hgk⟩ := hl g (by simp)
      refine ih (fun x hx => hl x (by simp [hx])) _ ?_
      by_cases hm : b ∈ gs
      · exact .inl hm
      · refine .inr (hasSector_touch hg (hk.trans hgk.symm) ?_)
        simpa [hm] using hc
  exact key c (.inl hb)

theorem mem_granules_line (q g : Nat) : g ∈ granules (q * 512) 512 ↔ ∃ j : Fin 4, g = q * 512 + 128 * j.val := by
  have h : (q * 512 + 512 - 1) / 128 - q * 512 / 128 + 1 = 4 := by omega
  rw [granules, if_neg (by decide), h, List.mem_map]
  simp only [List.mem_range]
  constructor
  · rintro ⟨i, hi, rfl⟩
    exact ⟨⟨i, hi⟩, by simp only; omega⟩
  · rintro ⟨j, rfl⟩
    exact ⟨j.val, j.isLt, by omega⟩

theorem laRange_eq_shelf {a : Nat} : laRange a = some .shelf ↔ 0x40000000 ≤ a ∧ a < 0x42000000 := by
  simp only [laRange, inRange, Bool.and_eq_true, decide_eq_true_eq]
  repeat' split
  all_goals (simp; omega)

/-- R166: every sector of the own-Shelf line of an address is present once the line has been reached. -/
theorem hasSector_touchRange_line {c : Core} {a : Nat} {d : Bool} (ha : laRange a = some .shelf) (j : Fin 4) :
    (c.touchRange (a / 512 * 512) 512 d).hasSector (a / 512 * 512 + 128 * j.val) = true := by
  refine hasSector_touchRange (k := shelfLine a) (fun g hg => ?_) ((mem_granules_line _ _).2 ⟨j, rfl⟩)
  obtain ⟨i, rfl⟩ := (mem_granules_line _ _).1 hg
  have hi := i.isLt
  rw [laRange_eq_shelf] at ha
  rw [laRange_eq_shelf, shelfLine, shelfLine]
  omega

/-! ### Prefetch (R166) -/

@[simp] theorem shelfTop_issued (s : State) : shelfTop (issued s).cn = shelfTop s.cn := by
  obtain ⟨i, l, y, e⟩ := cn_issued s
  rw [e]
  rfl

@[simp] theorem anyArmed_issued (s : State) (a n : Nat) : anyArmed (issued s).cn a n = anyArmed s.cn a n := by
  obtain ⟨i, l, y, e⟩ := cn_issued s
  rw [e]
  rfl

@[simp] theorem anyExpired_issued (s : State) (a n : Nat) :
    anyExpired (issued s) s.cur.core a n = anyExpired s s.cur.core a n := by
  obtain ⟨i, l, y, e⟩ := cn_issued s
  rw [State.cn_def, cur_issued, State.cn_def] at e
  have h : expired (issued s) s.cur.core = expired s s.cur.core := by
    funext g
    simp only [expired, deadlineFrom, cycleStart, e]
    rfl
  simp only [anyExpired, h]

theorem exec_pf {s : State} {a : SReg} {off : BitVec 16} (h : canStart s (.pf a off) = true) :
    let ea := (s.sr a + off.signExtend 64).toNat
    let line := ea / 512 * 512
    exec (.pf a off) s = .next (advance
      (if laRange ea = some .shelf ∧ ea < shelfTop s.cn ∧ anyArmed s.cn line 512 = false
          ∧ anyExpired s s.cur.core line 512 = false
        then (issued s).modCn fun c => c.touchRange line 512 false else issued s)) := by
  intro ea line
  have hx : exec (.pf a off) s = execPf a off s := rfl
  rw [hx, execPf, guarded_start _ h]
  simp only [sr_issued, shelfTop_issued, anyArmed_issued, cur_issued, anyExpired_issued, localEa]
  congr 2
  rw [← ite_not]
  congr 1
  simp [ea, line]

theorem prefetch : Claims.Prefetch := by
  intro a off s h ea line fills
  have he : exec (.pf a off) s = .next (advance
      (if fills then (issued s).modCn fun c => c.touchRange line 512 false else issued s)) := exec_pf h
  constructor
  · intro hn
    rw [if_neg hn] at he
    exact completesAt_of_advance he (keptAt_issued s) rfl (cc_issued s) (cycle_issued s) trivial
  · intro hf
    rw [if_pos hf] at he
    refine completesAt_of_caches he (onlyCaches_touchRange _ _ _ _) (by simp) (by simp) (by simp) (by simp) fun t ht j => ?_
    rw [hasSector_of_mem ht]
    exact hasSector_touchRange_line hf.1 j

/-! ### Cache maintenance (R181) -/

/-- R181: where no LA is allowed, one is refused. -/
theorem cacheFault_refused_la {s : State} {a : Word} (b : Word) (ga : Bool) (h : a.getLsbD 63 = false) :
    cacheFault s a b false ga = some (ePerm a) := by
  simp only [cacheFault, h]
  simp

/-- R181: where no GA is allowed, one is refused. -/
theorem cacheFault_refused_ga {s : State} {a : Word} (b : Word) (la : Bool) (h : a.getLsbD 63 = true) :
    cacheFault s a b la false = some (ePerm a) := by
  simp only [cacheFault, h]
  simp

/-- R85, R181: a GA that names nothing is refused. -/
theorem cacheFault_gaBad {s : State} {a : Word} (b : Word) (la : Bool) (h : a.getLsbD 63 = true)
    (hg : gaBad s a = true) : cacheFault s a b la true = some (ePerm a) := by
  simp only [cacheFault, h, hg]
  simp

/-- R181: where an LA is allowed, only the length is refused. -/
theorem cacheFault_la {s : State} {a : Word} (b : Word) (ga : Bool) (h : a.getLsbD 63 = false) :
    cacheFault s a b true ga = if 2 ^ 32 ≤ b.toNat then some (ePerm b) else none := by
  simp only [cacheFault, h]
  simp

/-- R181: where a GA is allowed and names something, only the length is refused. -/
theorem cacheFault_ga {s : State} {a : Word} (b : Word) (la : Bool) (h : a.getLsbD 63 = true)
    (hg : gaBad s a = false) : cacheFault s a b la true = if 2 ^ 32 ≤ b.toNat then some (ePerm b) else none := by
  simp only [cacheFault, h, hg]
  simp

@[simp] theorem cacheFault_issued (s : State) (a b : Word) (la ga : Bool) :
    cacheFault (issued s) a b la ga = cacheFault s a b la ga := rfl

theorem lineIn_eq_true (line base len : Nat) :
    lineIn line 512 base len = true ↔ len = 0 ∨ line < base + len ∧ base < line + 512 := by
  simp only [lineIn, overlaps, Bool.or_eq_true, Bool.and_eq_true, decide_eq_true_eq]
  omega

@[simp] theorem keepCopies_issued (s : State) (l : List ShrCopy) (a b : Word) :
    keepCopies (issued s) l a b = keepCopies s l a b := rfl

/-- R181: a line of the own Shelf that overlaps a range; a length of 0 names them all. -/
def LineInside (base len : Nat) (l : L1Line) : Prop :=
  l.own = true ∧ (len = 0 ∨ 0x40000000 + 512 * l.line < base + len ∧ base < 0x40000000 + 512 * l.line + 512)

/-- R98, R181: a copy of a line that overlaps the range that a GA begins; a length of 0 names them all. -/
def CopyInside (s : State) (a : Word) (len : Nat) (x : ShrCopy) : Prop :=
  len = 0 ∨ ∃ p, physGa s (nodeWafer s.cur.core) a = some p
    ∧ x.ga / 512 * 512 < p.toNat + len ∧ p.toNat < x.ga / 512 * 512 + 512

theorem own_and_lineIn (base len : Nat) (l : L1Line) :
    (l.own && lineIn (0x40000000 + 512 * l.line) 512 base len) = true ↔ LineInside base len l := by
  rw [Bool.and_eq_true, lineIn_eq_true, LineInside]

/-- R181: a line that is written back stays, with its present sectors. -/
theorem writeBack_present (c : Core) (base len : Nat) :
    (c.writeBack base len).mem.l1.map (fun l => (l.line, l.present)) = c.mem.l1.map fun l => (l.line, l.present) := by
  simp only [Core.writeBack, List.map_map]
  refine List.map_congr_left fun l _ => ?_
  simp only [Function.comp_apply]
  split <;> rfl

/-- R181: the lines inside the range are clean once it is written back, and the others are as they were. -/
theorem mem_writeBack {c : Core} {base len : Nat} {l : L1Line} (h : l ∈ (c.writeBack base len).mem.l1) :
    (LineInside base len l → l.dirty = 0) ∧ (¬LineInside base len l → l ∈ c.mem.l1) := by
  simp only [Core.writeBack, List.mem_map] at h
  obtain ⟨k, hk, rfl⟩ := h
  split
  · next hi => exact ⟨fun _ => rfl, fun hn => absurd ((own_and_lineIn base len k).1 hi) hn⟩
  · next hi => exact ⟨fun h => absurd ((own_and_lineIn base len k).2 h) hi, fun _ => hk⟩

/-- R181: the lines inside the range leave the L1. -/
theorem mem_dropLines (c : Core) (base len : Nat) (l : L1Line) :
    l ∈ (c.dropLines base len).mem.l1 ↔ l ∈ c.mem.l1 ∧ ¬LineInside base len l := by
  simp only [Core.dropLines, List.mem_filter, Bool.not_eq_true', ← Bool.not_eq_true, List.contains_iff_mem,
    List.mem_map, own_and_lineIn]
  refine and_congr_right fun hl => not_congr ⟨?_, fun hi => ⟨l, ⟨hl, hi⟩, rfl⟩⟩
  rintro ⟨k, ⟨_, hk⟩, e⟩
  simpa only [LineInside, L1Line.own, e] using hk

theorem mem_keepCopies (s : State) (l : List ShrCopy) (a b : Word) (x : ShrCopy) :
    x ∈ keepCopies s l a b ↔ x ∈ l ∧ ¬CopyInside s a b.toNat x := by
  simp only [keepCopies, CopyInside]
  cases physGa s (nodeWafer s.cur.core) a with
  | none =>
    have hb : b.toNat = 0 ↔ b = 0 := by simp [← BitVec.toNat_inj]
    simp [hb, and_comm]
  | some p =>
    rw [List.mem_filter, Bool.not_eq_true', ← Bool.not_eq_true, lineIn_eq_true]
    simp

theorem mem_setCopies (c : Core) (k : List ShrCopy) (l : L1Line) :
    l ∈ (c.setCopies k).mem.l1 ↔ l ∈ c.mem.l1 ∧ (l.own = true ∨ ∃ x ∈ k, x.ga / 512 = l.line) := by
  simp [Core.setCopies]

@[simp] theorem hub_advance (s : State) (k : Node) : (advance s).hub k = s.hub k := rfl

theorem trapsAt_l1Wb {s : State} {a b : SReg} {t : TrapOf} (hx : s.cur.ctx ≠ 7) (h : canStart s (.l1Wb a b) = true)
    (hf : cacheFault s (s.sr a) (s.sr b) true false = some t) : TrapsAt s (.l1Wb a b) t.code t.val :=
  trapsAt_of_checked hx rfl h (by simpa using hf)

theorem trapsAt_l1Inv {s : State} {a b : SReg} {t : TrapOf} (hx : s.cur.ctx ≠ 7) (h : canStart s (.l1Inv a b) = true)
    (hf : cacheFault s (s.sr a) (s.sr b) true true = some t) : TrapsAt s (.l1Inv a b) t.code t.val :=
  trapsAt_of_checked hx rfl h (by simpa using hf)

theorem trapsAt_l2Inv {s : State} {a b : SReg} {t : TrapOf} (hx : s.cur.ctx ≠ 7) (h : canStart s (.l2Inv a b) = true)
    (hf : cacheFault s (s.sr a) (s.sr b) false true = some t) : TrapsAt s (.l2Inv a b) t.code t.val :=
  trapsAt_of_checked hx rfl h (by simpa using hf)

/-- R181: `l1.wb` of a range that it accepts. -/
theorem completesAt_l1Wb {s : State} {a b : SReg} (h : canStart s (.l1Wb a b) = true)
    (hf : cacheFault s (s.sr a) (s.sr b) true false = none) :
    CompletesAt s (.l1Wb a b) (goneOn s s.cc) [.l1] fun t =>
      t.cn.mem.l1.map (fun l => (l.line, l.present)) = s.cn.mem.l1.map (fun l => (l.line, l.present))
        ∧ ∀ l ∈ t.cn.mem.l1, (LineInside (s.sr a).toNat (s.sr b).toNat l → l.dirty = 0)
          ∧ (¬LineInside (s.sr a).toNat (s.sr b).toNat l → l ∈ s.cn.mem.l1) := by
  have hx : exec (.l1Wb a b) s = execL1Wb a b s := rfl
  have he : exec (.l1Wb a b) s
      = .next (advance ((issued s).modCn fun c => c.writeBack (s.sr a).toNat (s.sr b).toNat)) := by
    rw [hx, execL1Wb, checked_start _ _ h (by simpa using hf)]
    simp only [sr_issued]
  refine completesAt_of_caches he rfl (by simp) (by simp [Core.writeBack]) (by simp [Core.writeBack])
    (by simp [Core.writeBack]) fun t ht => ?_
  rw [ht, ← cn_issued_mem s]
  exact ⟨writeBack_present _ _ _, fun l hl => mem_writeBack hl⟩

/-- R181: `l1.inv` of a range of LAs that it accepts. -/
theorem completesAt_l1Inv_la {s : State} {a b : SReg} (h : canStart s (.l1Inv a b) = true)
    (hf : cacheFault s (s.sr a) (s.sr b) true true = none) (hl : (s.sr a).getLsbD 63 = false) :
    CompletesAt s (.l1Inv a b) (goneOn s s.cc) [.l1, .logged] fun t =>
      ∀ l, l ∈ t.cn.mem.l1 ↔ l ∈ s.cn.mem.l1 ∧ ¬LineInside (s.sr a).toNat (s.sr b).toNat l := by
  have hx : exec (.l1Inv a b) s = execL1Inv a b s := rfl
  have he : exec (.l1Inv a b) s
      = .next (advance ((issued s).modCn fun c => c.dropLines (s.sr a).toNat (s.sr b).toNat)) := by
    rw [hx, execL1Inv, checked_start _ _ h (by simpa using hf)]
    simp only [sr_issued, hl, Bool.false_eq_true, if_false]
  refine completesAt_of_caches he rfl (by simp) (by simp [Core.dropLines]) (by simp) (by simp [Core.dropLines])
    fun t ht l => ?_
  rw [ht, ← cn_issued_mem s]
  exact mem_dropLines _ _ _ l

/-- R181: `l1.inv` of a range of GAs that it accepts. -/
theorem completesAt_l1Inv_ga {s : State} {a b : SReg} (h : canStart s (.l1Inv a b) = true)
    (hf : cacheFault s (s.sr a) (s.sr b) true true = none) (hg : (s.sr a).getLsbD 63 = true) :
    CompletesAt s (.l1Inv a b) (goneOn s s.cc) [.copiesShr, .l1] fun t =>
      (∀ x, x ∈ t.cn.mem.shr ↔ x ∈ s.cn.mem.shr ∧ ¬CopyInside s (s.sr a) (s.sr b).toNat x)
        ∧ ∀ l, l ∈ t.cn.mem.l1 ↔ l ∈ s.cn.mem.l1 ∧ (l.own = true ∨ ∃ x ∈ t.cn.mem.shr, x.ga / 512 = l.line) := by
  have hx : exec (.l1Inv a b) s = execL1Inv a b s := rfl
  have he : exec (.l1Inv a b) s
      = .next (advance ((issued s).modCn fun c => c.setCopies (keepCopies s c.mem.shr (s.sr a) (s.sr b)))) := by
    rw [hx, execL1Inv, checked_start _ _ h (by simpa using hf)]
    simp only [sr_issued, hg, if_true, keepCopies_issued]
  refine completesAt_of_caches he rfl (by simp) (by simp) (by simp [Core.setCopies]) (by simp [Core.setCopies])
    fun t ht => ?_
  rw [ht, ← cn_issued_mem s]
  exact ⟨fun x => mem_keepCopies s _ _ _ x, fun l => mem_setCopies _ _ l⟩

theorem keptAt_modHub (s : State) (n k : Node) (x : Fin 8) (f : Hub → Hub) : KeptAt n x [.hubs] s (s.modHub k f) := by
  intro p hp
  cases p
  case hubs => simp at hp
  all_goals simp [Part.same, State.ctx, State.core]

/-- R1, R349: of a hub, a cycle depends on THROTTLE alone. -/
theorem cycle_modHub (s : State) (k : Node) (f : Hub → Hub) (h : (f (s.hub k)).throttled = (s.hub k).throttled) :
    (s.modHub k f).cycle = s.cycle := by
  have ht : ∀ n, ((s.modHub k f).hub n).throttled = (s.hub n).throttled := by
    intro n
    rw [State.hub_modHub]
    split
    · next e => rw [h, e]
    · rfl
  change cycleOf (s.modHub k f) s.cur.core = cycleOf s s.cur.core
  simp only [cycleOf, ht]
  rfl

/-- R181: `l2.inv` of a range that it accepts. -/
theorem completesAt_l2Inv {s : State} {a b : SReg} (h : canStart s (.l2Inv a b) = true)
    (hf : cacheFault s (s.sr a) (s.sr b) false true = none) :
    CompletesAt s (.l2Inv a b) (goneOn s s.cc) [.hubs] fun t =>
      let h := hubOf s.cur.core
      (∀ x, x ∈ (t.hub h).l2 ↔ x ∈ (s.hub h).l2 ∧ ¬CopyInside s (s.sr a) (s.sr b).toNat x)
        ∧ ∀ k, t.hub k = if k = h then { s.hub h with l2 := (t.hub h).l2 } else s.hub k := by
  have hx : exec (.l2Inv a b) s = execL2Inv a b s := rfl
  have he : exec (.l2Inv a b) s = .next (advance ((issued s).modHub (hubOf s.cur.core) fun k =>
      { k with l2 := keepCopies s k.l2 (s.sr a) (s.sr b) })) := by
    rw [hx, execL2Inv, checked_start _ _ h (by simpa using hf)]
    simp only [sr_issued, keepCopies_issued, cur_issued]
  have hhub := fun k => State.hub_modHub (issued s) (hubOf s.cur.core) k fun k =>
      { k with l2 := keepCopies s k.l2 (s.sr a) (s.sr b) }
  refine completesAt_of_advance he ?_ rfl (cc_issued s) ?_ ⟨fun x => ?_, fun k => ?_⟩
  · exact keptAt_trans (keptAt_mono (keptAt_issued s) (by simp)) (keptAt_mono (keptAt_modHub _ _ _ _ _) (by simp))
  · rw [cycle_modHub _ _ _ (by rfl), cycle_issued]
  · rw [hub_advance, hhub, if_pos rfl]
    exact mem_keepCopies s _ _ _ x
  · rw [hub_advance, hub_advance, hhub, hhub, if_pos rfl]
    rfl

theorem cacheMaintenance : Claims.CacheMaintenance := by
  intro a b s base len local_ inside copyInside
  have hga : ¬local_ → (s.sr a).getLsbD 63 = true := fun h => by simpa [local_] using h
  refine ⟨fun h hl hn => completesAt_l1Wb h ?_, fun h hl hn => completesAt_l1Inv_la h ?_ hl,
    fun h hl hg hn => completesAt_l1Inv_ga h ?_ (hga hl), fun h hl hg hn => completesAt_l2Inv h ?_, fun hx => ?_⟩
  · rw [cacheFault_la _ _ hl, if_neg (Nat.not_le.2 hn)]
  · rw [cacheFault_la _ _ hl, if_neg (Nat.not_le.2 hn)]
  · rw [cacheFault_ga _ _ (hga hl) hg, if_neg (Nat.not_le.2 hn)]
  · rw [cacheFault_ga _ _ (hga hl) hg, if_neg (Nat.not_le.2 hn)]
  · refine ⟨fun h hl => trapsAt_l1Wb hx h (cacheFault_refused_ga _ _ (hga hl)),
      fun h hl => trapsAt_l2Inv hx h (cacheFault_refused_la _ _ hl),
      fun h hl hg => trapsAt_l1Inv hx h (cacheFault_gaBad _ _ (hga hl) hg),
      fun h hl hg => trapsAt_l2Inv hx h (cacheFault_gaBad _ _ (hga hl) hg),
      fun h hl hn => trapsAt_l1Wb (t := ePerm (s.sr b)) hx h ?_,
      fun h hl hn => trapsAt_l1Inv (t := ePerm (s.sr b)) hx h ?_,
      fun h hl hg hn => trapsAt_l2Inv (t := ePerm (s.sr b)) hx h ?_⟩
    · rw [cacheFault_la _ _ hl, if_pos hn]
    · by_cases h0 : local_
      · rw [cacheFault_la _ _ h0, if_pos hn]
      · rw [cacheFault_ga _ _ (hga h0) (hl.resolve_left h0), if_pos hn]
    · rw [cacheFault_ga _ _ (hga hl) hg, if_pos hn]

/-! ### The sector that a load awaits (R165, R351) -/

/-- R165: a sector has arrived: no load awaits it any more, and the registers that awaited it hold their values. -/
def Core.gotSector (c : Core) (sector : Nat) : Core :=
  { c with
    mem := { c.mem with fills := c.mem.fills.filter (· ≠ sector) }
    ctxs := c.ctxs.map fun x => { x with pending := x.pending.filter (fun p => p.2 ≠ .sector sector) } }

theorem ctx_gotSector (c : Core) (sector : Nat) (x : Fin 8) : (c.gotSector sector).ctx x
    = { c.ctx x with pending := (c.ctx x).pending.filter fun p => p.2 ≠ .sector sector } := by
  simp only [Core.ctx, Core.gotSector]
  exact Vector.getElem_map _ _

theorem keptAt_gotSector (s : State) (c : Node) (x : Fin 8) (sector : Nat) :
    KeptAt c x [.own, .otherContexts, .fills] s (s.modCore c fun k => k.gotSector sector) := by
  intro p hp
  cases p
  case otherCores => exact fun m hm => State.core_modCore_other s c m _ hm
  case own | otherContexts | fills => simp at hp
  all_goals simp [Part.same, Core.gotSector]

theorem exec_sectorFillArrive_idle {s : State} {c : Node} {sector : Nat}
    (h : (s.core c).mem.fills.contains sector = false) : exec (.sectorFillArrive c sector) s = .next s := by
  have hx : exec (.sectorFillArrive c sector) s = execSectorFillArrive c sector s := rfl
  rw [hx, execSectorFillArrive, if_neg (by simpa using h)]

theorem exec_sectorFillArrive {s : State} {c : Node} {sector : Nat} (h : (s.core c).mem.fills.contains sector = true) :
    let t := s.modCore c fun k => k.touch sector false
    exec (.sectorFillArrive c sector) s = .next
      (if (injection t).isSome then failFill s t c sector else t.modCore c fun k => k.gotSector sector) := by
  intro t
  have hx : exec (.sectorFillArrive c sector) s = execSectorFillArrive c sector s := rfl
  rw [hx, execSectorFillArrive, if_pos h, apply_ite Host.Outcome.next]
  rfl

theorem sectorFills : Claims.SectorFills := by
  intro s c sector
  refine ⟨exec_sectorFillArrive_idle, fun h hi => ?_, fun h hs hi => ?_⟩
  · rw [exec_sectorFillArrive h, if_pos hi]
  · refine ⟨_, (exec_sectorFillArrive h).trans (by rw [if_neg (by simp [hi])]), fun x => ?_, ?_, ?_, fun x => ?_⟩
    · refine keptAt_trans (t := s.modCore c fun k => k.touch sector false) ?_
        (keptAt_mono (keptAt_gotSector _ c x sector) (by simp))
      exact keptAt_modCore_caches (onlyCaches_touch _ _ _) (by simp) (by simp) (by simp) (by simp)
    · simp [Core.gotSector]
    · rw [State.core_modCore_same, State.core_modCore_same]
      exact hasSector_touch hs rfl (.inl rfl)
    · rw [State.ctx, State.core_modCore_same, State.core_modCore_same, ctx_gotSector, (onlyCaches_touch _ _ _).ctx]
      rfl

/-! ### Transient granules (R91) -/

theorem amap_find_drop_same {α : Type} (m : AMap α) (k : Nat) : AMap.find (AMap.drop m k) k = none := by
  induction m with
  | nil => rfl
  | cons p t ih =>
    obtain ⟨j, a⟩ := p
    by_cases h : j = k <;> simp_all [AMap.drop, AMap.find]

theorem amap_find_drop_other {α : Type} (m : AMap α) (k j : Nat) (h : j ≠ k) :
    AMap.find (AMap.drop m k) j = AMap.find m j := by
  induction m with
  | nil => rfl
  | cons p t ih =>
    obtain ⟨i, a⟩ := p
    by_cases hi : i = k
    · have hj : i ≠ j := fun e => h (e.symm.trans hi)
      simp_all [AMap.drop, AMap.find]
    · simp_all [AMap.drop, AMap.find]

/-- R91: the core forgets when a granule was written. -/
def Core.forgetWritten (c : Core) (g : Nat) : Core := { c with mem := { c.mem with written := AMap.drop c.mem.written g } }

theorem exec_retentionDeadline {s : State} {c : Node} {g : Nat} {w : Nat × Option Nat}
    (h : AMap.find (s.core c).mem.written g = some w) (hd : w.1 + Config.retention ≤ s.now) :
    exec (.retentionDeadline c g) s = .next (s.modCore c fun k => k.forgetWritten g) := by
  have hx : exec (.retentionDeadline c g) s = execRetentionDeadline c g s := rfl
  rw [hx, execRetentionDeadline, h]
  simp only [hd, if_true]
  rfl

theorem keptAt_forgetWritten (s : State) (c : Node) (x : Fin 8) (g : Nat) :
    KeptAt c x [.written] s (s.modCore c fun k => k.forgetWritten g) := by
  intro p hp
  cases p
  case otherCores => exact fun m hm => State.core_modCore_other s c m _ hm
  case written => simp at hp
  all_goals simp [Part.same, Core.forgetWritten, State.ctx, Core.ctx]

/-- R91: a transient granule of which its core remembers no write is expired. -/
theorem expired_of_unwritten {s : State} {c : Node} {g : Nat} (hc : classAt (s.core c) g = 2)
    (hw : AMap.find (s.core c).mem.written g = none) : expired s c g = true := by
  simp [expired, hc, deadlineFrom, hw]

theorem retentionDeadlines : Claims.RetentionDeadlines := by
  intro s c g w h hd
  refine ⟨_, exec_retentionDeadline h hd, fun x => keptAt_forgetWritten s c x g, ?_, fun q hq => ?_, fun hc => ?_⟩
  · rw [State.core_modCore_same]
    exact amap_find_drop_same _ g
  · rw [State.core_modCore_same]
    exact amap_find_drop_other _ g q hq
  · refine expired_of_unwritten hc ?_
    rw [State.core_modCore_same]
    exact amap_find_drop_same _ g

/-- Settles O29, from what each form and event does to the caches. -/
theorem shelfCaches : Obligations.ShelfCaches := ⟨prefetch, cacheMaintenance, sectorFills, retentionDeadlines⟩

end Sys2Proof.Machine
end

section
/-! SUPPORT. The scalar instructions: what one of them changes, and what their results are (R139, R143–R148). -/

namespace Sys2Proof.Machine

open Sys2Proof.Claims

/-! ### An instruction whose effect is on its own context -/

theorem cycle_modCc (s : State) (f : Ctx → Ctx) : (s.modCc f).cycle = s.cycle := by
  have e : (s.modCc f).core s.cur.core = s.cn.setCtx s.cur.ctx (f s.cc) := State.cn_modCc s f
  change cycleOf (s.modCc f) s.cur.core = cycleOf s s.cur.core
  simp only [cycleOf, e]
  rfl

theorem keptAt_modCc (s : State) (f : Ctx → Ctx) : KeptAt s.cur.core s.cur.ctx [.own] s (s.modCc f) :=
  keptAt_modCtx s s.cur.core s.cur.ctx f

/-- An instruction that runs, with an effect `u` that makes its context `k`, and goes on completes. -/
theorem completesAt_of_effect {s u : State} {i : Instr} {k : Ctx} {but : List Part} (he : exec i s = .next (advance u))
    (hk : KeptAt s.cur.core s.cur.ctx (.own :: .order :: but) s u) (hr : u.cur = s.cur) (hc : u.cc = k)
    (hy : u.cycle = s.cycle) : CompletesAt s i (goneOn s k) but fun _ => True := by
  refine ⟨_, he, keptAt_trans hk ?_, ?_, trivial⟩
  · rw [← hr]
    exact keptAt_mono (keptAt_modCc u _) (by simp)
  · rw [cc_advance, hc, hr, hy]
    rfl

/-- R135: issuing and then changing the own context. -/
theorem keptAt_modCc_issued (s : State) (f : Ctx → Ctx) :
    KeptAt s.cur.core s.cur.ctx [.own, .order] s ((issued s).modCc f) :=
  keptAt_trans (keptAt_mono (keptAt_issued s) (by simp)) (keptAt_mono (keptAt_modCc (issued s) f) (by simp))

theorem cycle_modCc_issued (s : State) (f : Ctx → Ctx) : ((issued s).modCc f).cycle = s.cycle :=
  (cycle_modCc _ f).trans (cycle_issued s)

/-- R139: an instruction whose only effect is the result in `sd` writes it and goes on. -/
theorem writesS_of_alu {i : Instr} {sd : SReg} {f v : State → Word} (he : ∀ s, exec i s = .next (alu s i sd f))
    (hv : ∀ s, f (issued s) = v s := by intro; simp only [sr_issued]) : WritesS i sd v := by
  intro s h
  have hs : exec i s = .next (advance ((issued s).setS sd (v s))) := by rw [he, alu, guarded_start _ h, hv]
  exact completesAt_of_effect hs (keptAt_modCc_issued s _) rfl (by simp) (cycle_modCc_issued s _)

/-! ### Results of the three-register forms (R143) -/

theorem mul_eq_ofInt (x y : Word) : x * y = BitVec.ofInt 64 (x.toInt * y.toInt) := by
  rw [BitVec.ofInt_mul, BitVec.ofInt_toInt, BitVec.ofInt_toInt]

theorem highHalf_ofInt (z : Int) : (BitVec.ofInt 128 z).extractLsb' 64 64 = BitVec.ofInt 64 (z / 2 ^ 64) := by
  apply BitVec.eq_of_toNat_eq
  simp only [BitVec.extractLsb'_toNat, BitVec.toNat_ofInt, Nat.shiftRight_eq_div_pow]
  omega

theorem highHalf_ofNat (n : Nat) : (BitVec.ofNat 128 n).extractLsb' 64 64 = BitVec.ofNat 64 (n / 2 ^ 64) := by
  apply BitVec.eq_of_toNat_eq
  simp only [BitVec.extractLsb'_toNat, BitVec.toNat_ofNat, Nat.shiftRight_eq_div_pow]
  omega

theorem highHalf_signed (x y : Word) : (x.signExtend 128 * y.signExtend 128).extractLsb' 64 64
    = BitVec.ofInt 64 (x.toInt * y.toInt / 2 ^ 64) := by
  rw [← highHalf_ofInt, BitVec.ofInt_mul]
  rfl

theorem highHalf_unsigned (x y : Word) : (x.setWidth 128 * y.setWidth 128).extractLsb' 64 64
    = BitVec.ofNat 64 (x.toNat * y.toNat / 2 ^ 64) := by
  rw [← highHalf_ofNat, BitVec.ofNat_mul, BitVec.ofNat_toNat, BitVec.ofNat_toNat]

theorem shiftA_eq_ofInt (x : Word) (n : Nat) : shiftA x n = BitVec.ofInt 64 (x.toInt / 2 ^ (n % 64)) := by
  rw [shiftA, BitVec.sshiftRight_eq, Int.shiftRight_eq_div_pow]
  norm_cast

theorem min_signed (x y : Word) : (if y.slt x then y else x) = BitVec.ofInt 64 (min x.toInt y.toInt) := by
  simp only [BitVec.slt_iff_toInt_lt]
  split
  · next h => rw [Int.min_eq_right (Int.le_of_lt h), BitVec.ofInt_toInt]
  · next h => rw [Int.min_eq_left (Int.not_lt.1 h), BitVec.ofInt_toInt]

theorem max_signed (x y : Word) : (if x.slt y then y else x) = BitVec.ofInt 64 (max x.toInt y.toInt) := by
  simp only [BitVec.slt_iff_toInt_lt]
  split
  · next h => rw [Int.max_eq_right (Int.le_of_lt h), BitVec.ofInt_toInt]
  · next h => rw [Int.max_eq_left (Int.not_lt.1 h), BitVec.ofInt_toInt]

theorem min_unsigned (x y : Word) : (if y.ult x then y else x) = BitVec.ofNat 64 (min x.toNat y.toNat) := by
  simp only [BitVec.ult_iff_toNat_lt]
  split
  · next h => rw [Nat.min_eq_right (Nat.le_of_lt h), BitVec.ofNat_toNat, BitVec.setWidth_eq]
  · next h => rw [Nat.min_eq_left (Nat.not_lt.1 h), BitVec.ofNat_toNat, BitVec.setWidth_eq]

theorem max_unsigned (x y : Word) : (if x.ult y then y else x) = BitVec.ofNat 64 (max x.toNat y.toNat) := by
  simp only [BitVec.ult_iff_toNat_lt]
  split
  · next h => rw [Nat.max_eq_right (Nat.le_of_lt h), BitVec.ofNat_toNat, BitVec.setWidth_eq]
  · next h => rw [Nat.max_eq_left (Nat.not_lt.1 h), BitVec.ofNat_toNat, BitVec.setWidth_eq]

theorem scalarResults : Claims.ScalarResults := fun d a b =>
  ⟨writesS_of_alu fun _ => rfl,
    writesS_of_alu fun _ => rfl,
    writesS_of_alu (fun _ => rfl) fun _ => by simp only [sr_issued, mul_eq_ofInt],
    writesS_of_alu (fun _ => rfl) fun _ => by simp only [sr_issued, highHalf_signed],
    writesS_of_alu (fun _ => rfl) fun _ => by simp only [sr_issued, highHalf_unsigned],
    writesS_of_alu fun _ => rfl,
    writesS_of_alu fun _ => rfl,
    writesS_of_alu fun _ => rfl,
    writesS_of_alu fun _ => rfl,
    writesS_of_alu (fun _ => rfl) fun _ => by simp only [sr_issued, shiftL],
    writesS_of_alu (fun _ => rfl) fun _ => by simp only [sr_issued, shiftR],
    writesS_of_alu (fun _ => rfl) fun _ => by simp only [sr_issued, shiftA_eq_ofInt],
    writesS_of_alu (fun _ => rfl) fun _ => by simp only [sr_issued, min_signed],
    writesS_of_alu (fun _ => rfl) fun _ => by simp only [sr_issued, max_signed],
    writesS_of_alu (fun _ => rfl) fun _ => by simp only [sr_issued, min_unsigned],
    writesS_of_alu (fun _ => rfl) fun _ => by simp only [sr_issued, max_unsigned],
    writesS_of_alu (fun _ => rfl) fun _ => by simp only [sr_issued, BitVec.slt_iff_toInt_lt],
    writesS_of_alu (fun _ => rfl) fun _ => by simp only [sr_issued, BitVec.ult_iff_toNat_lt]⟩

/-! ### Divisions (R144) -/

/-- R140: the divider is taken, and nothing else of the core. -/
theorem keptAt_modCn_divFree (s : State) (x : Fin 8) (n : Nat) :
    KeptAt s.cur.core x [.divider] s (s.modCn fun c => { c with divFree := n }) := by
  have e : (s.modCn fun c => { c with divFree := n }).core s.cur.core = { s.core s.cur.core with divFree := n } :=
    State.cn_modCn s _
  intro p hp
  cases p
  case otherCores => exact fun m hm => State.core_modCn_other s _ m hm
  case divider => simp at hp
  all_goals simp [Part.same, State.ctx, Core.ctx, e]

theorem cc_modCn_divFree (s : State) (n : Nat) : (s.modCn fun c => { c with divFree := n }).cc = s.cc :=
  State.cc_modCn s _

theorem cycle_modCn_divFree (s : State) (n : Nat) : (s.modCn fun c => { c with divFree := n }).cycle = s.cycle := by
  have e : (s.modCn fun c => { c with divFree := n }).core s.cur.core = { s.cn with divFree := n } := State.cn_modCn s _
  change cycleOf (s.modCn fun c => { c with divFree := n }) s.cur.core = cycleOf s s.cur.core
  simp only [cycleOf, e]
  rfl

@[simp] theorem Ctx.setSreg_sts (k : Ctx) (r : SReg) (x : Word) : (k.setSreg r x).sts = k.sts := by
  simp only [Ctx.setSreg]
  split <;> rfl

/-- R144: what a division by `y` leaves in its context; `q` is the result where `y` is not zero. -/
theorem setSreg_raiseFlag_divResult (k : Ctx) (d : SReg) {x y q : Word} {signed rem : Bool}
    (hq : y ≠ 0 → divResult x y signed rem = q) :
    (k.setSreg d (divResult x y signed rem)).raiseFlag stsDZ (y = 0)
      = if y = 0 then { k.setSreg d (BitVec.allOnes 64) with sts := k.sts ||| 1 } else k.setSreg d q := by
  by_cases hy : y = 0
  · have hr : divResult x y signed rem = BitVec.allOnes 64 := if_pos hy
    rw [hr, if_pos hy, Ctx.raiseFlag, if_pos (decide_eq_true hy), Ctx.setSreg_sts]
    rfl
  · rw [hq hy, if_neg hy, Ctx.raiseFlag, if_neg (by simpa using hy)]

/-- R144: a division writes its result, raises `STS.DZ` for a zero divisor, takes the divider and goes on. -/
theorem completesAt_of_divide {s : State} {i : Instr} {d a b : SReg} {signed rem : Bool} {q : Word}
    (he : exec i s = .next (guarded s i fun s => divide s d (s.sr a) (s.sr b) signed rem)) (h : canStart s i = true)
    (hq : s.sr b ≠ 0 → divResult (s.sr a) (s.sr b) signed rem = q) :
    CompletesAt s i (goneOn s (if s.sr b = 0 then { s.cc.setSreg d (BitVec.allOnes 64) with sts := s.cc.sts ||| 1 }
      else s.cc.setSreg d q)) [.divider] fun _ => True := by
  rw [guarded_start _ h, sr_issued, sr_issued, divide] at he
  refine completesAt_of_effect he (keptAt_trans ?_ (keptAt_mono (keptAt_modCn_divFree _ _ _) (by simp))) rfl ?_ ?_
  · exact keptAt_trans (keptAt_mono (keptAt_modCc_issued s _) (by simp)) (keptAt_mono (keptAt_modCc _ _) (by simp))
  · rw [cc_modCn_divFree, State.cc_modCc, State.cc_setS, cc_issued, setSreg_raiseFlag_divResult s.cc d hq]
  · rw [cycle_modCn_divFree, cycle_modCc]
    exact cycle_modCc_issued s _

theorem scalarDivision : Claims.ScalarDivision := fun _ _ _ =>
  ⟨fun _ h => completesAt_of_divide rfl h fun hb => if_neg hb,
    fun _ h => completesAt_of_divide rfl h fun hb => (if_neg hb).trans BitVec.udiv_def,
    fun _ h => completesAt_of_divide rfl h fun hb => if_neg hb,
    fun _ h => completesAt_of_divide rfl h fun hb => (if_neg hb).trans BitVec.umod_def⟩

/-- Settles O10, from what each form writes and what a division does besides. -/
theorem scalarArithmetic : Obligations.ScalarArithmetic := ⟨scalarResults, scalarDivision⟩

/-! ### Selection and bit counts (R145, R146) -/

theorem popcount_eq_countP (x : Word) : popcount x = (List.range 64).countP fun i => x.getLsbD i :=
  List.countP_eq_length_filter.symm

theorem bitLength_le {n k : Nat} (h : n < 2 ^ k) : bitLength n ≤ k := by
  by_cases h0 : n = 0
  · simp [bitLength, h0]
  · rw [bitLength, if_neg h0]
    exact (Nat.log2_lt h0).2 h

theorem lt_two_pow_bitLength (n : Nat) : n < 2 ^ bitLength n := by
  by_cases h0 : n = 0
  · simp [bitLength, h0]
  · rw [bitLength, if_neg h0]
    exact Nat.lt_log2_self

theorem testBit_pred_bitLength {n : Nat} (h : 0 < bitLength n) : n.testBit (bitLength n - 1) = true := by
  by_cases h0 : n = 0
  · simp [bitLength, h0] at h
  · rw [bitLength, if_neg h0]
    exact Nat.testBit_log2 h0

/-- R146: the count of `clz`: the bits above it from the top are zero, and the next is set. -/
theorem leadingZeros_spec (x : Word) :
    64 - bitLength x.toNat ≤ 64 ∧ (∀ i, 64 - (64 - bitLength x.toNat) ≤ i → x.getLsbD i = false)
      ∧ (64 - bitLength x.toNat < 64 → x.getLsbD (63 - (64 - bitLength x.toNat)) = true) := by
  have hle : bitLength x.toNat ≤ 64 := bitLength_le x.isLt
  refine ⟨Nat.sub_le _ _, fun i hi => ?_, fun hn => ?_⟩
  · rw [Nat.sub_sub_self hle] at hi
    exact Nat.testBit_lt_two_pow (Nat.lt_of_lt_of_le (lt_two_pow_bitLength _) (Nat.pow_le_pow_right (by decide) hi))
  · have hk : 63 - (64 - bitLength x.toNat) = bitLength x.toNat - 1 := by omega
    rw [hk]
    exact testBit_pred_bitLength (by omega)

/-- R146: the count of `ctz`: the bits below it are zero, and it is the position of a set bit or the width. -/
theorem trailingZeros_spec (x : Word) (n : Nat) :
    trailingZeros x n ≤ n ∧ (∀ i, i < trailingZeros x n → x.getLsbD i = false)
      ∧ (trailingZeros x n < n → x.getLsbD (trailingZeros x n) = true) := by
  rw [trailingZeros]
  cases h : (List.range n).find? fun i => x.getLsbD i with
  | none =>
    rw [List.find?_range_eq_none] at h
    exact ⟨Nat.le_refl n, fun i hi => by simpa using h i hi, fun hn => absurd hn (Nat.lt_irrefl n)⟩
  | some k =>
    obtain ⟨hk, hn, hlow⟩ := List.find?_range_eq_some.1 h
    exact ⟨Nat.le_of_lt (List.mem_range.1 hn), fun i hi => by simpa using hlow i hi, fun _ => hk⟩

theorem writesS_clz (d a : SReg) : WritesS (.clz d a) d fun s => BitVec.ofNat 64 (64 - bitLength (s.sr a).toNat) :=
  writesS_of_alu fun _ => rfl

theorem writesS_ctz (d a : SReg) : WritesS (.ctz d a) d fun s => BitVec.ofNat 64 (trailingZeros (s.sr a) 64) :=
  writesS_of_alu fun _ => rfl

theorem scalarSelectAndCount : Claims.ScalarSelectAndCount := fun d a b c =>
  ⟨fun _ => writesS_of_alu fun _ => rfl,
    writesS_of_alu (fun _ => rfl) fun _ => by simp only [sr_issued, popcount_eq_countP],
    fun s h => ⟨_, writesS_clz d a s h, leadingZeros_spec _⟩,
    fun s h => ⟨_, writesS_ctz d a s h, trailingZeros_spec _ 64⟩⟩

/-! ### Immediate forms (R147, R148) -/

/-- R148: the word `x` with its 16-bit quarter `q` replaced. -/
def replaceQuarter (x : Word) (imm : BitVec 16) (q : Fin 4) : Word :=
  (x &&& ~~~(0xFFFF#64 <<< (16 * q.val))) ||| (imm.setWidth 64 <<< (16 * q.val))

theorem writesS_movk (d : SReg) (imm : BitVec 16) (q : Fin 4) :
    WritesS (.movk d imm q) d fun s => replaceQuarter (s.sr d) imm q :=
  writesS_of_alu (fun _ => rfl) fun _ => by simp only [sr_issued, replaceQuarter]

/-- R148: a bit of the replaced quarter is one of the immediate, and another bit is as it was. -/
theorem getLsbD_replaceQuarter (x : Word) (imm : BitVec 16) (q : Fin 4) {n : Nat} (hn : n < 64) :
    (replaceQuarter x imm q).getLsbD n
      = if 16 * q.val ≤ n ∧ n < 16 * q.val + 16 then imm.getLsbD (n - 16 * q.val) else x.getLsbD n := by
  have hm : 0xFFFF#64 = (BitVec.allOnes 16).setWidth 64 := rfl
  simp only [replaceQuarter, hm, BitVec.getLsbD_or, BitVec.getLsbD_and, BitVec.getLsbD_not, BitVec.getLsbD_shiftLeft,
    BitVec.getLsbD_setWidth, BitVec.getLsbD_allOnes, hn, Nat.sub_lt_of_lt hn]
  by_cases hlow : n < 16 * q.val
  · rw [if_neg (by omega)]
    simp [hlow]
  · by_cases hhigh : n < 16 * q.val + 16
    · rw [if_pos (by omega)]
      have hi : n - 16 * q.val < 16 := by omega
      simp [hlow, hi]
    · rw [if_neg (by omega)]
      have hi : 16 ≤ n - 16 * q.val := by omega
      simp [hlow, hi]

theorem quarter_replaceQuarter (x : Word) (imm : BitVec 16) (q j : Fin 4) :
    (replaceQuarter x imm q).extractLsb' (16 * j.val) 16 = if j = q then imm else x.extractLsb' (16 * j.val) 16 := by
  apply BitVec.eq_of_getLsbD_eq
  intro i hi
  rw [BitVec.getLsbD_extractLsb', getLsbD_replaceQuarter _ _ _ (by omega)]
  by_cases h : j = q
  · subst h
    rw [if_pos rfl, if_pos (by omega), Nat.add_sub_cancel_left]
    simp [hi]
  · have hv : j.val ≠ q.val := fun e => h (Fin.ext e)
    rw [if_neg h, if_neg (by omega), BitVec.getLsbD_extractLsb']

theorem scalarImmediates : Claims.ScalarImmediates := fun d a =>
  ⟨fun imm =>
    ⟨writesS_of_alu fun _ => rfl, writesS_of_alu fun _ => rfl, writesS_of_alu fun _ => rfl,
      writesS_of_alu fun _ => rfl⟩,
    fun n =>
    ⟨writesS_of_alu (fun _ => rfl) fun _ => by simp only [sr_issued, shiftL, Nat.mod_eq_of_lt n.isLt],
      writesS_of_alu (fun _ => rfl) fun _ => by simp only [sr_issued, shiftR, Nat.mod_eq_of_lt n.isLt],
      writesS_of_alu (fun _ => rfl) fun _ => by simp only [sr_issued, shiftA, Nat.mod_eq_of_lt n.isLt]⟩,
    fun _ => writesS_of_alu (fun _ => rfl) fun _ => rfl,
    fun imm q s h => ⟨_, writesS_movk d imm q s h, quarter_replaceQuarter _ imm q⟩⟩

/-- Settles O11, from what each form writes and what the two counts and a replaced quarter are. -/
theorem scalarForms : Obligations.ScalarForms := ⟨scalarSelectAndCount, scalarImmediates⟩

end Sys2Proof.Machine
end

section
/-! SUPPORT. The data of a vector register: reading an element after elements were packed, merged or computed (R28, R215). -/

namespace Sys2Proof.Machine

open Sys2Proof.Claims

/-! ### Packed elements (R28) -/

theorem packNat_div_mod {w e : Nat} {l : List Nat} (h : e < l.length) :
    packNat w l / 2 ^ (w * e) % 2 ^ w = l[e] % 2 ^ w := by
  induction l generalizing e with
  | nil => simp at h
  | cons x t ih =>
    have hx : (x % 2 ^ w + 2 ^ w * packNat w t) / 2 ^ w = packNat w t := by
      rw [Nat.add_mul_div_left _ _ (Nat.two_pow_pos w), Nat.div_eq_of_lt (Nat.mod_lt _ (Nat.two_pow_pos w)), Nat.zero_add]
    cases e with
    | zero => simp [packNat]
    | succ e =>
      have he : 2 ^ (w * (e + 1)) = 2 ^ w * 2 ^ (w * e) := by rw [← Nat.pow_add, Nat.mul_succ, Nat.add_comm]
      rw [packNat, he, ← Nat.div_div_eq_div_mul, hx, ih (Nat.lt_of_succ_lt_succ h), List.getElem_cons_succ]

theorem getLsbD_packBits (f : Nat → Bool) {n j : Nat} (hj : j < n) :
    (BitVec.ofNat n (packNat 1 ((List.range n).map fun i => if f i then 1 else 0))).getLsbD j = f j := by
  have h := packNat_div_mod (w := 1) (e := j) (l := (List.range n).map fun i => if f i then 1 else 0) (by simpa using hj)
  rw [Nat.one_mul, Nat.pow_one, List.getElem_map, List.getElem_range] at h
  rw [BitVec.getLsbD_ofNat, Nat.testBit_eq_decide_div_mod_eq, h]
  cases f j <;> simp [hj]

theorem toNat_elem (w e : Nat) (v : VData) : (elem w e v).toNat = bits v.toNat (w * e) w := by
  rw [elem, BitVec.extractLsb'_toNat, Nat.shiftRight_eq_div_pow, bits]

theorem extractLsb'_ofNat {n lo w : Nat} (x : Nat) (h : lo + w ≤ n) :
    (BitVec.ofNat n x).extractLsb' lo w = BitVec.ofNat w (x / 2 ^ lo) := by
  apply BitVec.eq_of_getLsbD_eq
  intro i hi
  have hn : lo + i < n := by omega
  rw [BitVec.getLsbD_extractLsb', BitVec.getLsbD_ofNat, BitVec.getLsbD_ofNat, Nat.testBit_div_two_pow, Nat.add_comm lo]
  simp [hi, Nat.add_comm i, hn]

theorem elem_packRounded {w e : Nat} {rs : List Rounded} (h : e < rs.length) (hw : w * (e + 1) ≤ 1024) :
    elem w e (packRounded w rs) = BitVec.ofNat w rs[e].enc := by
  rw [Nat.mul_succ] at hw
  rw [elem, packRounded, extractLsb'_ofNat _ hw]
  apply BitVec.eq_of_toNat_eq
  rw [BitVec.toNat_ofNat, packNat_div_mod (by simpa using h), List.getElem_map, BitVec.toNat_ofNat]

/-! ### Lanes computed one by one, and merged by a predicate (R215) -/

theorem getLsbD_ofElems {w : Nat} (hw : 0 < w) (f : Nat → BitVec w) (n : Nat) {i : Nat} (hi : i < 1024) :
    (ofElems w f n).getLsbD i = (decide (i < w * n) && (f (i / w)).getLsbD (i % w)) := by
  induction n with
  | zero => simp [ofElems]
  | succ n ih =>
    rw [ofElems, BitVec.getLsbD_or, ih, BitVec.getLsbD_shiftLeft, BitVec.getLsbD_setWidth]
    by_cases hlow : i < w * n
    · have hs : i < w * (n + 1) := Nat.lt_of_lt_of_le hlow (Nat.mul_le_mul_left w n.le_succ)
      simp [hlow, hs]
    · by_cases hs : i < w * (n + 1)
      · have hlt : i - w * n < w := by rw [Nat.mul_succ] at hs; omega
        have he : i = w * n + (i - w * n) := by omega
        have hq : i / w = n := by rw [he, Nat.mul_add_div hw, Nat.div_eq_of_lt hlt, Nat.add_zero]
        have hr : i % w = i - w * n := by rw [he, Nat.mul_add_mod, Nat.mod_eq_of_lt hlt]; omega
        have hb : i - w * n < 1024 := by omega
        simp [hlow, hs, hi, hq, hr, hb]
      · have hge : w ≤ i - w * n := by rw [Nat.mul_succ] at hs; omega
        simp [hlow, hs, BitVec.getLsbD_of_ge _ _ hge]

theorem lane_ofLanes (f : Nat → BitVec 32) (j : Fin 32) : lane (ofLanes f) j = f j := by
  apply BitVec.eq_of_getLsbD_eq
  intro i hi
  have hj := j.isLt
  have hq : (32 * j.val + i) / 32 = j.val := by omega
  have hr : (32 * j.val + i) % 32 = i := by omega
  rw [lane, elem, BitVec.getLsbD_extractLsb', ofLanes, getLsbD_ofElems (by decide) f 32 (by omega), hq, hr]
  simp [hi]
  omega

theorem getLsbD_mergeData (p : Pred) (old new : VData) {i : Nat} (hi : i < 1024) :
    (mergeData p old new).getLsbD i = if p.getLsbD (i / 32) then new.getLsbD i else old.getLsbD i := by
  have hm : (laneMask p).getLsbD i = p.getLsbD (i / 32) := by
    rw [laneMask, ofLanes, getLsbD_ofElems (by decide) _ 32 hi]
    split
    · next hp => rw [BitVec.getLsbD_allOnes, hp]; simp [hi, Nat.mod_lt]
    · next hp => simp [hp]
  rw [mergeData, BitVec.getLsbD_or, BitVec.getLsbD_and, BitVec.getLsbD_and, BitVec.getLsbD_not, hm]
  split <;> simp_all

/-- R215: an element of a merged register comes from the new data where its lane is selected, else from the old. -/
theorem elem_mergeData {w e : Nat} (hw : w ∣ 32) (he : w * (e + 1) ≤ 1024) (p : Pred) (old new : VData) :
    elem w e (mergeData p old new) = if p.getLsbD (e * w / 32) then elem w e new else elem w e old := by
  apply BitVec.eq_of_getLsbD_eq
  intro i hi
  obtain ⟨k, hk⟩ := hw
  have hlane : (w * e + i) / 32 = e * w / 32 := by
    rw [hk, ← Nat.div_div_eq_div_mul, ← Nat.div_div_eq_div_mul, Nat.mul_add_div (by omega), Nat.div_eq_of_lt hi,
      Nat.mul_div_cancel _ (by omega), Nat.add_zero]
  rw [Nat.mul_succ] at he
  rw [elem, BitVec.getLsbD_extractLsb', getLsbD_mergeData _ _ _ (by omega), hlane]
  split <;> simp [elem, hi]

theorem lane_mergeData (p : Pred) (old new : VData) (j : Fin 32) :
    lane (mergeData p old new) j = if p.getLsbD j then lane new j else lane old j := by
  have h := elem_mergeData (w := 32) (e := j) (Nat.dvd_refl 32) (by omega) p old new
  rwa [Nat.mul_div_cancel _ (by decide)] at h

end Sys2Proof.Machine
end

section
/-! SUPPORT. What an instruction that writes a vector register or a predicate leaves (R215, R216), and its tag trap. -/

namespace Sys2Proof.Machine

open Sys2Proof.Claims

/-! ### Predicates and tags -/

@[simp] theorem predOf_issued (s : State) (pm : Option PReg) : predOf (issued s) pm = predOf s pm := by
  cases pm with
  | none => rfl
  | some p => exact pr_issued s p

/-- R215: the lanes that a statement calls selected are the bits of the predicate. -/
theorem getLsbD_predOf (s : State) (pm : Option PReg) (j : Nat) : (predOf s pm).getLsbD j = picks s pm j := by
  cases pm with
  | none => exact BitVec.getLsbD_allOnes
  | some p => rfl

theorem picks_none (s : State) (j : Fin 32) : picks s none j = true := decide_eq_true j.isLt

theorem hasTag_iff_tagged (s : State) (ty : VTy) (r : VReg) : hasTag (s.vr r) ty = true ↔ tagged s ty r := by
  simp [hasTag, tagged]

theorem tagFault_issued_of_tagged {s : State} {ty : VTy} {rs : List VReg} (h : ∀ r ∈ rs, tagged s ty r) :
    tagFault ty rs (issued s) = none := by
  refine if_pos (List.all_eq_true.2 fun r hr => ?_)
  rw [vr_issued, hasTag_iff_tagged]
  exact h r hr

theorem tagFault_issued_of_not_tagged {s : State} {ty : VTy} {rs : List VReg} (h : ∃ r ∈ rs, ¬tagged s ty r) :
    tagFault ty rs (issued s) = some eFmt := by
  obtain ⟨r, hr, hn⟩ := h
  refine if_neg fun ha => hn ?_
  rw [← hasTag_iff_tagged, ← vr_issued]
  exact List.all_eq_true.1 ha r hr

/-- R216: a form takes `E_FMT` precisely when one of its sources does not carry the tag of its type. -/
theorem trapsAt_of_not_tagged {s : State} {i : Instr} {ty : VTy} {rs : List VReg} {k : State → State}
    (he : exec i s = .next (checked s i (tagFault ty rs) k)) (h : canStart s i = true) (hx : s.cur.ctx ≠ 7)
    (hr : ∃ r ∈ rs, ¬tagged s ty r) : TrapsAt s i 0x06 0 :=
  trapsAt_of_checked hx he h (tagFault_issued_of_not_tagged hr)

/-! ### Effects on the own context -/

/-- An instruction whose only effect is a change of its own context makes it and goes on. -/
theorem completesAt_of_modCc {s : State} {i : Instr} {f : Ctx → Ctx}
    (he : exec i s = .next (advance ((issued s).modCc f))) : CompletesAt s i (goneOn s (f s.cc)) [] fun _ => True :=
  completesAt_of_effect he (keptAt_modCc_issued s f) rfl (by simp) (cycle_modCc_issued s f)

theorem laneWrites_of_setV {s : State} {i : Instr} {vd : VReg} {pm : Option PReg} {x : VVal} {f : Fin 32 → BitVec 32}
    (he : exec i s = .next (advance ((issued s).setV vd x)))
    (hf : ∀ j : Fin 32, lane x.data j = if picks s pm j then f j else lane (s.vr vd).data j) :
    LaneWrites s i vd pm x.tag x.sp x.side f :=
  ⟨x, rfl, rfl, rfl, hf, completesAt_of_modCc he⟩

/-- R215, R222, R223: the selected lanes of a register come from new data, with a tag, SP and side field. -/
theorem laneWrites_of_setLanes {s : State} {i : Instr} {vd : VReg} {pm : Option PReg} {x : VVal}
    {f : Fin 32 → BitVec 32} (he : exec i s = .next (advance (setLanes (issued s) vd (predOf s pm) x)))
    (hf : ∀ j : Fin 32, lane x.data j = f j) : LaneWrites s i vd pm x.tag x.sp x.side f := by
  rw [setLanes, vr_issued] at he
  refine laneWrites_of_setV (x := { x with data := mergeData (predOf s pm) (s.vr vd).data x.data }) he fun j => ?_
  rw [lane_mergeData, getLsbD_predOf, hf]

/-! ### Results that set the flags (R42) -/

theorem raiseRounded_eq_flagged (k : Ctx) (l : List Rounded) :
    k.raiseRounded l = flagged k (l.any (·.ovf)) (l.any (·.inv)) := by
  rw [Ctx.raiseRounded]
  cases l.any (·.ovf) <;> cases l.any (·.inv) <;> simp [Ctx.raiseFlag, flagged, stsOF, stsNV]

theorem indexed_map_range' {α : Type} (f : Nat → α) (k n : Nat) :
    indexed ((List.range' k n).map f) k = (List.range' k n).map fun e => (e, f e) := by
  induction n generalizing k with
  | zero => rfl
  | succ n ih => rw [List.range'_succ, List.map_cons, indexed, ih, List.map_cons]

/-- R42, R215: a flag of the results that were written. -/
theorem any_selected (p : Pred) (w n : Nat) (f : Nat → Rounded) (flag : Rounded → Bool) :
    (selected p w ((List.range n).map f)).any flag
      = (List.range n).any fun e => p.getLsbD (e * w / 32) && flag (f e) := by
  rw [selected, List.range_eq_range', indexed_map_range']
  simp [List.any_filter, List.any_map, Function.comp_def]

theorem VTy.width_dvd (ty : VTy) : ty.width ∣ 32 := by
  cases ty <;> decide

theorem VTy.width_mul_count (ty : VTy) : ty.width * ty.count = 1024 := by
  cases ty <;> decide

/-- R215, R216: a form that writes its results to the selected lanes, as the statements say it. -/
theorem vecWrites_of_setResults {s : State} {i : Instr} {vd : VReg} {pm : Option PReg} {ty : VTy} {tag : BitVec 4}
    {f : Nat → Rounded} (he : exec i s = .next (advance
      (setResults (issued s) vd (predOf s pm) ty.width tag ((List.range ty.count).map f)))) :
    VecWrites s i vd pm ty tag f := by
  generalize hrs : (List.range ty.count).map f = rs at he
  refine ⟨{ data := mergeData (predOf s pm) (s.vr vd).data (packRounded ty.width rs), tag := tag }, rfl, rfl, rfl,
    fun e hl => ?_, ?_⟩
  · have hw : ty.width * (e + 1) ≤ 1024 := by
      rw [← VTy.width_mul_count ty]
      exact Nat.mul_le_mul_left _ hl
    rw [elem_mergeData (VTy.width_dvd ty) hw, elem_packRounded (by simpa [← hrs] using hl) hw, getLsbD_predOf]
    simp [← hrs]
  · rw [setResults, setLanes, vr_issued] at he
    refine completesAt_of_effect he (keptAt_trans (keptAt_modCc_issued s _) (keptAt_mono (keptAt_modCc _ _) (by simp)))
      rfl ?_ ((cycle_modCc _ _).trans (cycle_modCc_issued s _))
    rw [State.cc_modCc, State.cc_setV, cc_issued, raiseRounded_eq_flagged]
    simp only [← hrs, any_selected, getLsbD_predOf]

/-- R216: a form whose sources carry the tag of its type writes its results. -/
theorem vecWrites_of_tagged {s : State} {i : Instr} {vd : VReg} {pm : Option PReg} {ty : VTy} {rs : List VReg}
    {results : State → List Rounded} {f : Nat → Rounded}
    (he : exec i s = .next (checked s i (tagFault ty rs) fun s =>
      advance (setResults s vd (predOf s pm) ty.width ty.tag (results s))))
    (h : canStart s i = true) (ht : ∀ r ∈ rs, tagged s ty r)
    (hr : results (issued s) = (List.range ty.count).map f) : VecWrites s i vd pm ty ty.tag f := by
  rw [checked_start _ _ h (tagFault_issued_of_tagged ht), predOf_issued, hr] at he
  exact vecWrites_of_setResults he

/-! ### The elements of a register -/

theorem elems_vr (s : State) (ty : VTy) (r : VReg) :
    ty.elems ((issued s).vr r).data = (List.range ty.count).map (at_ s ty r) := by
  rw [vr_issued, VTy.elems, elemsOf]
  exact List.map_congr_left fun e _ => (toNat_elem ty.width e _).symm

theorem at_lt (s : State) (ty : VTy) (r : VReg) (e : Nat) : at_ s ty r e < 2 ^ ty.width := BitVec.isLt _

theorem zip3_map (f : Nat → Nat → Nat → Rounded) (a b c : Nat → Nat) (l : List Nat) :
    zip3 f (l.map a) (l.map b) (l.map c) = l.map fun e => f (a e) (b e) (c e) := by
  induction l with
  | nil => rfl
  | cons e l ih => rw [List.map_cons, List.map_cons, List.map_cons, zip3, ih, List.map_cons]

end Sys2Proof.Machine
end

section
/-! SUPPORT. The results of the lane-wise forms on one element: integers, signs, and the predicates (R35, R43, R218, R223,
R226). -/

namespace Sys2Proof.Machine

open Sys2Proof.Claims

/-! ### 32-bit integers (R35) -/

theorem intValue_signed {a : Nat} (h : a < 2 ^ 32) : intValue 32 true a = (BitVec.ofNat 32 a).toInt := by
  rw [intValue, BitVec.toInt_eq_toNat_cond, BitVec.toNat_ofNat, Nat.mod_eq_of_lt h]
  simp only [Bool.true_and, decide_eq_true_eq]
  split <;> split <;> omega

theorem intValue_unsigned (a : Nat) : intValue 32 false a = a := by simp [intValue]

theorem ofInt_intValue (signed : Bool) (a : Nat) : BitVec.ofInt 32 (intValue 32 signed a) = BitVec.ofNat 32 a := by
  apply BitVec.eq_of_toNat_eq
  rw [BitVec.toNat_ofInt, BitVec.toNat_ofNat, intValue]
  split <;> omega

theorem lowBits_eq_toNat (i : Int) : lowBits 32 i = (BitVec.ofInt 32 i).toNat := by
  rw [lowBits, BitVec.toNat_ofInt]
  rfl

/-- R43: the order of two 32-bit integers, signed or not. -/
theorem intValue_le_iff {a b : Nat} (ha : a < 2 ^ 32) (hb : b < 2 ^ 32) (signed : Bool) :
    intValue 32 signed a ≤ intValue 32 signed b ↔ (if signed then (BitVec.ofNat 32 a).sle (BitVec.ofNat 32 b)
      else (BitVec.ofNat 32 a).ule (BitVec.ofNat 32 b)) = true := by
  cases signed with
  | true => simp [intValue_signed ha, intValue_signed hb, BitVec.sle_iff_toInt_le]
  | false =>
    simp only [intValue_unsigned, BitVec.ule_iff_toNat_le, BitVec.toNat_ofNat, Nat.mod_eq_of_lt ha, Nat.mod_eq_of_lt hb,
      Bool.false_eq_true, if_false, Int.ofNat_le]

/-! ### The two-operand forms (R218, R219) -/

/-- R218: an operation on 32-bit words. -/
def VOp.word (op : VOp) (signed : Bool) (p q : BitVec 32) : BitVec 32 :=
  let less : Bool := if signed then p.sle q else p.ule q
  match op with
  | .add => p + q
  | .sub => p - q
  | .mul => p * q
  | .min => if less then p else q
  | .max => if less then q else p

theorem ofInt_vopInt {a b : Nat} (ha : a < 2 ^ 32) (hb : b < 2 ^ 32) (signed : Bool) (op : VOp) :
    BitVec.ofInt 32 (op.int (intValue 32 signed a) (intValue 32 signed b))
      = op.word signed (BitVec.ofNat 32 a) (BitVec.ofNat 32 b) := by
  have hle := intValue_le_iff ha hb signed
  cases op with
  | add => rw [VOp.int, BitVec.ofInt_add, ofInt_intValue, ofInt_intValue, VOp.word]
  | sub =>
    rw [VOp.int, Int.sub_eq_add_neg, BitVec.ofInt_add, BitVec.ofInt_neg, ofInt_intValue, ofInt_intValue, VOp.word,
      BitVec.sub_eq_add_neg]
  | mul => rw [VOp.int, BitVec.ofInt_mul, ofInt_intValue, ofInt_intValue, VOp.word]
  | min => simp only [VOp.int, VOp.word, hle, apply_ite (BitVec.ofInt 32), ofInt_intValue]
  | max => simp only [VOp.int, VOp.word, hle, apply_ite (BitVec.ofInt 32), ofInt_intValue]

/-- R218: one element of a two-operand form, as the statements say it. -/
theorem elem_eq_vecValue {ty : VTy} (hty : ty.arith = true) {a b : Nat} (ha : a < 2 ^ 32) (hb : b < 2 ^ 32) (op : VOp)
    (rnd : RMode) (sat : Bool) : op.elem ty rnd sat a b = vecValue op ty rnd sat a b := by
  have hword (signed : Bool) : plain (lowBits 32 (op.int (intValue 32 signed a) (intValue 32 signed b)))
      = plain (op.word signed (BitVec.ofNat 32 a) (BitVec.ofNat 32 b)).toNat := by
    rw [lowBits_eq_toNat, ofInt_vopInt ha hb]
  cases ty with
  | f32 | bf16 => cases op <;> rfl
  | s32 => exact (hword true).trans (by cases op <;> rfl)
  | n32 => exact (hword false).trans (by cases op <;> rfl)
  | _ => cases hty

theorem immElem_eq_immValue (ty : VTy) (imm : BitVec 16) : immElem ty imm = immValue ty imm := by
  cases ty with
  | f32 => rw [immElem, immValue, BitVec.toNat_append, Nat.shiftLeft_eq]; exact (Nat.or_zero _).symm
  | _ => rfl

theorem immValue_lt (ty : VTy) (imm : BitVec 16) : immValue ty imm < 2 ^ 32 := by
  have h := imm.isLt
  cases ty with
  | f32 => exact BitVec.isLt _
  | s32 => exact BitVec.isLt _
  | _ => exact Nat.lt_trans h (by decide)

theorem at_lt_word (s : State) (ty : VTy) (r : VReg) (e : Nat) : at_ s ty r e < 2 ^ 32 :=
  Nat.lt_of_lt_of_le (at_lt s ty r e)
    (Nat.pow_le_pow_right (by decide) (Nat.le_of_dvd (by decide) (VTy.width_dvd ty)))

/-! ### High products (R223) -/

theorem mulHigh_signed (x y : BitVec 32) :
    mulHigh true x.toNat y.toNat = BitVec.ofInt 32 (x.toInt * y.toInt / 2 ^ 32) := by
  rw [mulHigh, intValue_signed x.isLt, intValue_signed y.isLt, BitVec.ofNat_toNat, BitVec.ofNat_toNat,
    BitVec.setWidth_eq, BitVec.setWidth_eq]

theorem mulHigh_unsigned (x y : BitVec 32) :
    mulHigh false x.toNat y.toNat = BitVec.ofNat 32 (x.toNat * y.toNat / 2 ^ 32) := by
  rw [mulHigh, intValue_unsigned, intValue_unsigned]
  norm_cast

/-! ### Signs (R43, R218) -/

/-- A value with a sign given to it; a NaN stays a NaN. -/
def Ext.withSign (neg : Bool) : Ext → Ext
  | .nan => .nan
  | .inf _ => .inf neg
  | .fin _ m e => .fin neg m e

theorem Ext.neg_eq_withSign (x : Ext) : x.neg = x.withSign (!x.isNeg) := by cases x <;> rfl

theorem Ext.abs_eq_withSign (x : Ext) : x.abs = x.withSign false := by cases x <;> rfl

theorem quantize_self (md : RMode) (neg : Bool) (m : Nat) (e : Int) : quantize md neg m e e = m := by
  simp [quantize]

/-- R32: the largest finite encoding is the one before infinity. -/
theorem maxBits_add_one {f : FFmt} (hf : f.hasInf = true) : f.maxBits + 1 = f.infBits := by
  cases f with
  | fp32 | bf16 | e5m2 => rfl
  | e4m3 | e2m1 => cases hf

/-- R38: a subnormal value of a format is rounded to itself. -/
theorem roundFloat_subnormal {f : FFmt} (hf : f.hasInf = true) (n : Bool) {m : Nat} (hm : m < 2 ^ f.manBits) :
    roundFloat f .rne false (.fin n m (1 - (f.bias : Int) - f.manBits))
      = plain ((if n then f.signBit else 0) + m) := by
  by_cases h0 : m = 0
  · simp [roundFloat, h0, plain]
  have hlog : Nat.log2 m < f.manBits := (Nat.log2_lt h0).2 hm
  have hq : max (1 - (f.bias : Int) - f.manBits)
      ((Nat.log2 m : Int) + (1 - (f.bias : Int) - f.manBits) - f.manBits) = 1 - (f.bias : Int) - f.manBits := by
    omega
  have hne : m ≠ 2 ^ (f.manBits + 1) := by rw [Nat.pow_succ]; omega
  have hmax : ¬m > f.maxBits := by
    have h1 := maxBits_add_one hf
    have h2 : 2 ^ f.manBits ≤ f.infBits := by cases f <;> decide
    omega
  simp only [roundFloat, if_neg h0, hq, quantize_self, if_neg hne, encodeMag, if_pos hm, if_neg hmax, plain]

/-- R38: a normal value of a format is rounded to itself. -/
theorem roundFloat_normal {f : FFmt} (hf : f.hasInf = true) (n : Bool) {m e : Nat} (hm : m < 2 ^ f.manBits)
    (he : 1 ≤ e) (htop : e < 2 ^ f.expBits - 1) :
    roundFloat f .rne false (.fin n (2 ^ f.manBits + m) ((e : Int) - f.bias - f.manBits))
      = plain ((if n then f.signBit else 0) + (m + 2 ^ f.manBits * e)) := by
  have hpos : 0 < 2 ^ f.manBits := Nat.two_pow_pos _
  have h0 : 2 ^ f.manBits + m ≠ 0 := by omega
  have hlog : Nat.log2 (2 ^ f.manBits + m) = f.manBits := by
    rw [Nat.log2_eq_iff h0, Nat.pow_succ]
    omega
  have hq : max (1 - (f.bias : Int) - f.manBits)
      ((f.manBits : Int) + ((e : Int) - f.bias - f.manBits) - f.manBits) = (e : Int) - f.bias - f.manBits := by omega
  have hne : 2 ^ f.manBits + m ≠ 2 ^ (f.manBits + 1) := by rw [Nat.pow_succ]; omega
  have hlow : ¬2 ^ f.manBits + m < 2 ^ f.manBits := by omega
  have hexp : ((e : Int) - f.bias - f.manBits - (1 - (f.bias : Int) - f.manBits) + 1).toNat = e := by omega
  have hval : e * 2 ^ f.manBits + (2 ^ f.manBits + m - 2 ^ f.manBits) = m + 2 ^ f.manBits * e := by
    rw [Nat.add_sub_cancel_left, Nat.mul_comm, Nat.add_comm]
  have hmax : ¬m + 2 ^ f.manBits * e > f.maxBits := by
    have h1 := maxBits_add_one hf
    have h2 : (e + 1) * 2 ^ f.manBits ≤ f.infBits := Nat.mul_le_mul_right _ htop
    rw [Nat.succ_mul, Nat.mul_comm] at h2
    omega
  simp only [roundFloat, if_neg h0, hlog, hq, quantize_self, if_neg hne, encodeMag, if_neg hlow, hexp, hval,
    if_neg hmax, plain]

/-- R32, R38: the value of an encoding, with a sign given to it, is rounded to the encoding with that sign. -/
theorem roundFloat_withSign_decodeFloat {f : FFmt} (hf : f.hasInf = true) (n : Bool) {b : Nat}
    (hb : decodeFloat f b ≠ .nan) : roundFloat f .rne false ((decodeFloat f b).withSign n)
      = plain ((if n then f.signBit else 0) + b % f.signBit) := by
  have hfields : b % f.signBit = bits b 0 f.manBits + 2 ^ f.manBits * bits b f.manBits f.expBits := by
    rw [FFmt.signBit, Nat.pow_add, Nat.mod_mul, bits, bits, Nat.pow_zero, Nat.div_one]
  have hm : bits b 0 f.manBits < 2 ^ f.manBits := Nat.mod_lt _ (Nat.two_pow_pos _)
  have he : bits b f.manBits f.expBits < 2 ^ f.expBits := Nat.mod_lt _ (Nat.two_pow_pos _)
  have hf4 : (f == .e4m3) = false := beq_false_of_ne fun h => by simp [h, FFmt.hasInf] at hf
  rw [hfields]
  rw [decodeFloat] at hb ⊢
  simp only [hf, hf4, Bool.true_and, Bool.false_and, beq_iff_eq, Bool.false_eq_true, if_false] at hb ⊢
  by_cases htop : bits b f.manBits f.expBits = 2 ^ f.expBits - 1
  · have hm0 : bits b 0 f.manBits = 0 := by
      refine Decidable.byContradiction fun hne => ?_
      simp [htop, hne] at hb
    rw [if_pos htop, if_pos hm0, hm0, htop, Nat.zero_add, Nat.mul_comm]
    cases f with
    | fp32 | bf16 | e5m2 => rfl
    | e4m3 | e2m1 => cases hf
  · rw [if_neg htop]
    by_cases h0 : bits b f.manBits f.expBits = 0
    · rw [if_pos h0, h0, Nat.mul_zero, Nat.add_zero]
      exact roundFloat_subnormal hf n hm
    · rw [if_neg h0]
      exact roundFloat_normal hf n hm (by omega) (by omega)

theorem isNeg_decodeFloat {f : FFmt} {b : Nat} (hb : decodeFloat f b ≠ .nan) :
    (decodeFloat f b).isNeg = bitOf b (f.manBits + f.expBits) := by
  revert hb
  rw [decodeFloat]
  split
  · split <;> simp [Ext.isNeg]
  · split
    · simp
    · split <;> simp [Ext.isNeg]

/-- R43, R218: changing the sign of an encoding. -/
theorem flipped_sign {f : FFmt} {b : Nat} (hb : b < 2 * f.signBit) :
    (if !bitOf b (f.manBits + f.expBits) then f.signBit else 0) + b % f.signBit
      = if b < f.signBit then b + f.signBit else b - f.signBit := by
  rw [bitOf, ← FFmt.signBit]
  by_cases hlow : b < f.signBit
  · rw [Nat.div_eq_of_lt hlow, Nat.mod_eq_of_lt hlow, if_pos hlow, Nat.add_comm]
    rfl
  · have hq : b / f.signBit = 1 := Nat.div_eq_of_lt_le (by omega) (by omega)
    have hr : b % f.signBit = b - f.signBit := by
      rw [Nat.mod_eq_sub_mod (by omega), Nat.mod_eq_of_lt (by omega)]
    rw [hq, hr, if_neg hlow]
    exact Nat.zero_add _

/-- R218: `vabs` and `vneg` of a floating element. -/
theorem roundFloat_sign {f : FFmt} (hf : f.hasInf = true) (neg : Bool) {b : Nat} (hb : b < 2 * f.signBit) :
    roundFloat f .rne false (if neg then (decodeFloat f b).neg else (decodeFloat f b).abs)
      = plain (if decodeFloat f b = .nan then f.canonNaN
          else if neg then (if b < f.signBit then b + f.signBit else b - f.signBit) else b % f.signBit) := by
  by_cases hn : decodeFloat f b = .nan
  · have hx : (if neg then (decodeFloat f b).neg else (decodeFloat f b).abs) = .nan := by
      rw [hn]
      exact ite_self _
    rw [hx, if_pos hn, roundFloat, hf]
    rfl
  · rw [if_neg hn, Ext.neg_eq_withSign, Ext.abs_eq_withSign, isNeg_decodeFloat hn]
    cases neg with
    | true =>
      rw [if_pos rfl, roundFloat_withSign_decodeFloat hf _ hn, flipped_sign hb]
      rfl
    | false =>
      rw [if_neg Bool.false_ne_true, roundFloat_withSign_decodeFloat hf _ hn]
      exact congrArg plain (Nat.zero_add _)

/-- R218: `vabs` and `vneg` of an integer element. -/
theorem lowBits_sign (neg : Bool) {a : Nat} (ha : a < 2 ^ 32) :
    lowBits 32 (if neg then -intValue 32 true a else ((intValue 32 true a).natAbs : Int))
      = if neg || (BitVec.ofNat 32 a).msb then (-BitVec.ofNat 32 a).toNat else a := by
  have hneg : BitVec.ofInt 32 (-intValue 32 true a) = -BitVec.ofNat 32 a := by rw [BitVec.ofInt_neg, ofInt_intValue]
  have hpos : (BitVec.ofInt 32 (intValue 32 true a)).toNat = a := by
    rw [ofInt_intValue, BitVec.toNat_ofNat, Nat.mod_eq_of_lt ha]
  rw [lowBits_eq_toNat, BitVec.msb_eq_toInt, ← intValue_signed ha]
  cases neg with
  | true => exact congrArg BitVec.toNat hneg
  | false =>
    by_cases h : intValue 32 true a < 0
    · have habs : ((intValue 32 true a).natAbs : Int) = -intValue 32 true a := by omega
      simp [habs, hneg, h]
    · have habs : ((intValue 32 true a).natAbs : Int) = intValue 32 true a := by omega
      simp [habs, hpos, h]

/-- R218: one element of `vabs` or `vneg`, as the statements say it. -/
theorem signElem_eq_signValue {ty : VTy} (hty : ty.absNeg = true) (neg : Bool) {a : Nat} (ha : a < 2 ^ ty.width) :
    signElem ty neg a = plain (signValue neg ty a) := by
  cases ty with
  | f32 => exact roundFloat_sign (f := .fp32) rfl neg ha
  | bf16 => exact roundFloat_sign (f := .bf16) rfl neg ha
  | s32 => exact congrArg plain (lowBits_sign neg ha)
  | _ => cases hty

/-! ### Comparisons (R43, R226) -/

/-- R226: the comparison of two elements as integers. -/
theorem compare_intValue_unsigned (a b : Nat) : compare (intValue 32 false a) (intValue 32 false b) = compare a b := by
  simp only [intValue_unsigned, compare, compareOfLessAndEq, Int.ofNat_lt, Int.ofNat_inj]

/-- R226: the bit of a lane of the predicate that a compare gives. -/
theorem getLsbD_cmpBits (s : State) (va vb : VReg) (ty : VTy) (c : Cond) (half : Bool) (j : Fin 32) :
    (cmpBits s va vb ty c half).getLsbD j
      = cmpElem c ty (at_ s ty va (cmpIndex ty half j)) (at_ s ty vb (cmpIndex ty half j)) := by
  simp only [at_, toNat_elem]
  exact getLsbD_packBits (fun i => cmpElem c ty (bits (s.vr va).data.toNat (ty.width * cmpIndex ty half i) ty.width)
    (bits (s.vr vb).data.toNat (ty.width * cmpIndex ty half i) ty.width)) j.isLt

theorem cmpIndex_eq (ty : VTy) (half : Bool) (j : Nat) :
    cmpIndex ty half j = if ty = .bf16 then 2 * j + (if half then 1 else 0) else j := by
  simp only [cmpIndex, beq_iff_eq]

/-- R43, R226: one comparison, as the statements say it. -/
theorem cmpElem_eq {ty : VTy} (hty : ty.arith = true) (c : Cond) {p q : Nat} (hp : p < 2 ^ 32) (hq : q < 2 ^ 32) :
    cmpElem c ty p q =
      if ty = .f32 ∨ ty = .bf16 then
        let u := decodeFloat ty.ffmt p
        let w := decodeFloat ty.ffmt q
        if u = .nan ∨ w = .nan then c == .ne else c.holds (u.cmp w)
      else if ty = .s32 then c.holds (compare (BitVec.ofNat 32 p).toInt (BitVec.ofNat 32 q).toInt)
      else c.holds (compare p q) := by
  cases ty with
  | f32 | bf16 => rfl
  | s32 => exact congrArg c.holds (by rw [← intValue_signed hp, ← intValue_signed hq]; rfl)
  | n32 => exact congrArg c.holds (compare_intValue_unsigned p q)
  | _ => cases hty

end Sys2Proof.Machine
end

section
/-! SUPPORT. Comparisons, selections and the predicate forms (R226–R228). -/

namespace Sys2Proof.Machine

open Sys2Proof.Claims

@[simp] theorem cmpBits_issued (s : State) (va vb : VReg) (ty : VTy) (c : Cond) (half : Bool) :
    cmpBits (issued s) va vb ty c half = cmpBits s va vb ty c half := by simp only [cmpBits, vr_issued]

/-- R226: what `vcmp` leaves in its predicate. -/
def cmpResult (s : State) (pd : PReg) (va vb : VReg) (pm : Option PReg) (ty : VTy) (c : Cond) (half : Bool) : Pred :=
  (cmpBits s va vb ty c half &&& predOf s pm) ||| (s.pr pd &&& ~~~predOf s pm)

theorem getLsbD_cmpResult (s : State) (pd : PReg) (va vb : VReg) (pm : Option PReg) (ty : VTy) (c : Cond) (half : Bool)
    (j : Fin 32) : (cmpResult s pd va vb pm ty c half).getLsbD j =
      if !picks s pm j then (s.pr pd).getLsbD j
      else cmpElem c ty (at_ s ty va (cmpIndex ty half j)) (at_ s ty vb (cmpIndex ty half j)) := by
  rw [cmpResult, BitVec.getLsbD_or, BitVec.getLsbD_and, BitVec.getLsbD_and, BitVec.getLsbD_not, getLsbD_predOf,
    getLsbD_cmpBits]
  cases picks s pm j <;> simp

theorem completesAt_vcmp {s : State} {pd : PReg} {va vb : VReg} {pm : Option PReg} {ty : VTy} {c : Cond} {half : Bool}
    (h : canStart s (.vcmp pd va vb pm ty c half) = true) (ha : tagged s ty va) (hb : tagged s ty vb) :
    CompletesAt s (.vcmp pd va vb pm ty c half) (goneOn s (s.cc.setPreg pd (cmpResult s pd va vb pm ty c half))) []
      fun _ => True := by
  have he : exec (.vcmp pd va vb pm ty c half) s = .next (checked s (.vcmp pd va vb pm ty c half) (tagFault ty [va, vb])
      fun s => advance (s.setP pd (cmpResult s pd va vb pm ty c half))) := rfl
  rw [checked_start _ _ h (tagFault_issued_of_tagged (by simp [ha, hb])), cmpResult, cmpBits_issued, predOf_issued,
    pr_issued] at he
  exact completesAt_of_modCc he

/-- R228: a form that only writes a predicate. -/
theorem completesAt_of_guarded_setP {s : State} {i : Instr} {pd : PReg} {f : State → Pred} {x : Pred}
    (he : exec i s = .next (guarded s i fun s => advance (s.setP pd (f s)))) (h : canStart s i = true)
    (hx : f (issued s) = x) : CompletesAt s i (goneOn s (s.cc.setPreg pd x)) [] fun _ => True := by
  rw [guarded_start _ h, hx] at he
  exact completesAt_of_modCc he

theorem writesS_pcnt (d : SReg) (pa : PReg) : WritesS (.pcnt d pa) d fun s => BitVec.ofNat 64 (popcount (s.pr pa)) :=
  writesS_of_alu (f := fun s => BitVec.ofNat 64 (popcount (s.pr pa))) (fun _ => rfl) fun s => by simp only [pr_issued]

theorem getLsbD_setWidth_word (p : Pred) (i : Nat) : (p.setWidth 64).getLsbD i = p.getLsbD i := by
  rw [BitVec.getLsbD_setWidth]
  by_cases hi : i < 64
  · simp [hi]
  · rw [BitVec.getLsbD_of_ge p i (by omega), Bool.and_false]

/-- R228: `pfirst` gives what `ctz` counts among the 32 bits. -/
theorem writesS_pfirst (d : SReg) (pa : PReg) :
    WritesS (.pfirst d pa) d fun s => BitVec.ofNat 64 (trailingZeros ((s.pr pa).setWidth 64) 32) :=
  writesS_of_alu (f := fun s => BitVec.ofNat 64 (((List.range 32).find? fun i => (s.pr pa).getLsbD i).getD 32))
    (fun _ => rfl) fun s => by simp only [pr_issued, trailingZeros, getLsbD_setWidth_word]

theorem trailingZeros_pred_spec (p : Pred) :
    trailingZeros (p.setWidth 64) 32 ≤ 32 ∧ (∀ j, j < trailingZeros (p.setWidth 64) 32 → p.getLsbD j = false)
      ∧ (trailingZeros (p.setWidth 64) 32 < 32 → p.getLsbD (trailingZeros (p.setWidth 64) 32) = true) := by
  simpa only [getLsbD_setWidth_word] using trailingZeros_spec (p.setWidth 64) 32

theorem laneWrites_vsel {s : State} {vd va vb : VReg} {pa : PReg} (h : canStart s (.vsel vd va vb pa) = true) :
    LaneWrites s (.vsel vd va vb pa) vd none (s.vr va).tag (s.vr va).sp (s.vr va).side fun j =>
      if (s.pr pa).getLsbD j then lane (s.vr va).data j else lane (s.vr vb).data j := by
  have he : exec (.vsel vd va vb pa) s = .next (guarded s (.vsel vd va vb pa) fun s =>
      advance (s.setV vd { s.vr va with data := mergeData (s.pr pa) (s.vr vb).data (s.vr va).data })) := rfl
  rw [guarded_start _ h, pr_issued, vr_issued, vr_issued] at he
  refine laneWrites_of_setV
    (x := { s.vr va with data := mergeData (s.pr pa) (s.vr vb).data (s.vr va).data }) he fun j => ?_
  rw [lane_mergeData, if_pos (picks_none s j)]

/-- Settles O38, from what each form writes, bit by bit or lane by lane. -/
theorem predicateForms : Obligations.PredicateForms := by
  intro pd pa pb d vd va vb s
  refine ⟨fun pm ty c half hwf h ha hb => ⟨_, completesAt_vcmp h ha hb, fun j => ?_⟩, laneWrites_vsel, ?_, ?_,
    fun h => ⟨_, writesS_pfirst d pa s h, trailingZeros_pred_spec _⟩⟩
  · have hty : ty.arith = true := (Bool.and_eq_true_iff.1 hwf).1
    rw [getLsbD_cmpResult, cmpElem_eq hty c (at_lt_word s ty va _) (at_lt_word s ty vb _), cmpIndex_eq]
  · intro p hp h
    simp only [List.mem_cons, List.not_mem_nil, or_false] at hp
    obtain rfl | rfl | rfl | rfl := hp
    · exact completesAt_of_guarded_setP (f := fun s => s.pr pa &&& s.pr pb) rfl h (by simp)
    · exact completesAt_of_guarded_setP (f := fun s => s.pr pa ||| s.pr pb) rfl h (by simp)
    · exact completesAt_of_guarded_setP (f := fun s => s.pr pa ^^^ s.pr pb) rfl h (by simp)
    · exact completesAt_of_guarded_setP (f := fun s => ~~~s.pr pa) rfl h (by simp)
  · intro h
    rw [List.countP_eq_length_filter]
    exact writesS_pcnt d pa s h

end Sys2Proof.Machine
end

section
/-! SUPPORT. The lane-wise vector forms: arithmetic, special functions, bits and shifts (R216, R218–R223). -/

namespace Sys2Proof.Machine

open Sys2Proof.Claims

/-! ### What the forms of one operation share -/

theorem exec_vecForm (op : VOp) (vd va vb : VReg) (pm : Option PReg) (ty : VTy) (rnd : RMode) (sat : Bool) (s : State) :
    exec (vecForm op vd va vb pm ty rnd sat) s = .next (checked s (vecForm op vd va vb pm ty rnd sat)
      (tagFault ty [va, vb]) fun s => advance (vecBin s op vd va vb pm ty rnd sat)) := by
  cases op <;> rfl

theorem exec_vecImmForm (op : VOp) (vd va : VReg) (pm : Option PReg) (ty : VTy) (rnd : RMode) (sat : Bool)
    (imm : BitVec 16) (s : State) : exec (vecImmForm op vd va pm ty rnd sat imm) s =
      .next (checked s (vecImmForm op vd va pm ty rnd sat imm) (tagFault ty [va])
        fun s => advance (vecImm s op vd va pm ty rnd sat imm)) := by
  cases op <;> rfl

/-- R220: the rounding mode and `.sat` that a special function uses. -/
theorem exec_fnForm (fn : VFn) (vd va : VReg) (pm : Option PReg) (ty : VTy) (rnd : RMode) (sat : Bool) (s : State) :
    exec (fnForm fn vd va pm ty rnd sat) s = .next (checked s (fnForm fn vd va pm ty rnd sat) (tagFault ty [va])
      fun s => advance (vecFn s fn vd va pm ty (if fn = .sqrt then rnd else .rne) (sat && fn != .sqrt))) := by
  cases fn <;> cases sat <;> rfl

theorem arith_of_wellFormed_vecForm {op : VOp} {vd va vb : VReg} {pm : Option PReg} {ty : VTy} {rnd : RMode} {sat : Bool}
    (h : wellFormed (vecForm op vd va vb pm ty rnd sat) = true) : ty.arith = true := by
  have e : wellFormed (vecForm op vd va vb pm ty rnd sat) = (ty.arith && roundOk ty rnd sat) := by cases op <;> rfl
  exact (Bool.and_eq_true_iff.1 (e ▸ h)).1

theorem arith_of_wellFormed_vecImmForm {op : VOp} {vd va : VReg} {pm : Option PReg} {ty : VTy} {rnd : RMode} {sat : Bool}
    {imm : BitVec 16} (h : wellFormed (vecImmForm op vd va pm ty rnd sat imm) = true) : ty.arith = true := by
  have e : wellFormed (vecImmForm op vd va pm ty rnd sat imm) = (ty.arith && roundOk ty rnd sat) := by cases op <;> rfl
  exact (Bool.and_eq_true_iff.1 (e ▸ h)).1

/-! ### Arithmetic (R218–R220) -/

theorem vecWrites_vecForm {s : State} {vd va vb : VReg} {pm : Option PReg} {ty : VTy} {rnd : RMode} {sat : Bool}
    (op : VOp) (hty : ty.arith = true) (h : canStart s (vecForm op vd va vb pm ty rnd sat) = true)
    (ha : tagged s ty va) (hb : tagged s ty vb) :
    VecWrites s (vecForm op vd va vb pm ty rnd sat) vd pm ty ty.tag
      fun e => vecValue op ty rnd sat (at_ s ty va e) (at_ s ty vb e) := by
  refine vecWrites_of_tagged (results := fun s =>
    List.zipWith (op.elem ty rnd sat) (ty.elems (s.vr va).data) (ty.elems (s.vr vb).data))
    (exec_vecForm op vd va vb pm ty rnd sat s) h (by simp [ha, hb]) ?_
  rw [elems_vr, elems_vr, List.zipWith_map, List.zipWith_self]
  exact List.map_congr_left fun e _ => elem_eq_vecValue hty (at_lt_word s ty va e) (at_lt_word s ty vb e) op rnd sat

theorem vecWrites_vecImmForm {s : State} {vd va : VReg} {pm : Option PReg} {ty : VTy} {rnd : RMode} {sat : Bool}
    {imm : BitVec 16} (op : VOp) (hty : ty.arith = true)
    (h : canStart s (vecImmForm op vd va pm ty rnd sat imm) = true) (ha : tagged s ty va) :
    VecWrites s (vecImmForm op vd va pm ty rnd sat imm) vd pm ty ty.tag
      fun e => vecValue op ty rnd sat (at_ s ty va e) (immValue ty imm) := by
  refine vecWrites_of_tagged (results := fun s =>
    (ty.elems (s.vr va).data).map fun a => op.elem ty rnd sat a (immElem ty imm))
    (exec_vecImmForm op vd va pm ty rnd sat imm s) h (by simp [ha]) ?_
  rw [elems_vr, List.map_map]
  refine List.map_congr_left fun e _ => ?_
  rw [Function.comp_apply, immElem_eq_immValue,
    elem_eq_vecValue hty (at_lt_word s ty va e) (immValue_lt ty imm) op rnd sat]

/-- R218: a fused form rounds `a·b + c` once, with its signs. -/
theorem vecWrites_of_vecFma {s : State} {i : Instr} {vd va vb vc : VReg} {pm : Option PReg} {ty : VTy} {rnd : RMode}
    {sat negProd negAdd : Bool}
    (he : exec i s = .next (checked s i (tagFault ty [va, vb, vc]) fun s =>
      advance (vecFma s vd va vb vc pm ty rnd sat negProd negAdd)))
    (h : canStart s i = true) (ha : tagged s ty va) (hb : tagged s ty vb) (hc : tagged s ty vc) :
    VecWrites s i vd pm ty ty.tag fun e =>
      fmaElem ty.ffmt rnd sat negProd negAdd (at_ s ty va e) (at_ s ty vb e) (at_ s ty vc e) := by
  refine vecWrites_of_tagged (results := fun s => zip3 (fmaElem ty.ffmt rnd sat negProd negAdd)
    (ty.elems (s.vr va).data) (ty.elems (s.vr vb).data) (ty.elems (s.vr vc).data)) he h (by simp [ha, hb, hc]) ?_
  rw [elems_vr, elems_vr, elems_vr, zip3_map]

/-- R218: `vabs` or `vneg`. -/
theorem vecWrites_of_vecSign {s : State} {i : Instr} {vd va : VReg} {pm : Option PReg} {ty : VTy} {neg : Bool}
    (he : exec i s = .next (checked s i (tagFault ty [va]) fun s => advance (vecSign s vd va pm ty neg)))
    (hty : ty.absNeg = true) (h : canStart s i = true) (ha : tagged s ty va) :
    VecWrites s i vd pm ty ty.tag fun e => plain (signValue neg ty (at_ s ty va e)) := by
  refine vecWrites_of_tagged (results := fun s => (ty.elems (s.vr va).data).map (signElem ty neg)) he h (by simp [ha]) ?_
  rw [elems_vr, List.map_map]
  exact List.map_congr_left fun e _ => signElem_eq_signValue hty neg (at_lt s ty va e)

theorem vecWrites_fnForm {s : State} {vd va : VReg} {pm : Option PReg} {ty : VTy} {rnd : RMode} {sat : Bool} (fn : VFn)
    (h : canStart s (fnForm fn vd va pm ty rnd sat) = true) (ha : tagged s ty va) :
    VecWrites s (fnForm fn vd va pm ty rnd sat) vd pm ty ty.tag fun e =>
      specialElem fn ty (if fn = .sqrt then rnd else .rne) (sat && fn != .sqrt) (at_ s ty va e) := by
  refine vecWrites_of_tagged (results := fun s => (ty.elems (s.vr va).data).map
    (specialElem fn ty (if fn = .sqrt then rnd else .rne) (sat && fn != .sqrt)))
    (exec_fnForm fn vd va pm ty rnd sat s) h (by simp [ha]) ?_
  rw [elems_vr, List.map_map]
  rfl

theorem vectorArithmetic : Claims.VectorArithmetic := by
  intro vd va vb vc pm ty rnd sat imm s a
  refine ⟨?_, ?_, ?_, ?_, ?_⟩
  · rintro op _ rfl hwf h ha hb
    exact vecWrites_vecForm op (arith_of_wellFormed_vecForm hwf) h ha hb
  · rintro op _ rfl hwf h ha
    exact vecWrites_vecImmForm op (arith_of_wellFormed_vecImmForm hwf) h ha
  · intro p hp _ h ha hb hc
    simp only [List.mem_cons, List.not_mem_nil, or_false] at hp
    obtain rfl | rfl | rfl := hp <;> exact vecWrites_of_vecFma rfl h ha hb hc
  · intro p hp hwf h ha
    simp only [List.mem_cons, List.not_mem_nil, or_false] at hp
    obtain rfl | rfl := hp <;> exact vecWrites_of_vecSign rfl (Bool.and_eq_true_iff.1 hwf).1 h ha
  · rintro fn _ rfl _ h ha
    exact vecWrites_fnForm fn h ha

/-! ### Tag traps (R216) -/

theorem vectorTagTraps : Claims.VectorTagTraps := by
  intro vd va vb vc pm ty rnd sat imm s i h hx hi
  obtain ⟨⟨op, rfl⟩, hn⟩ | ⟨⟨op, rfl⟩, hn⟩ | ⟨⟨fn, rfl⟩, hn⟩ | ⟨rfl, hn⟩ | ⟨rfl, hn⟩ | ⟨hm, hn⟩ := hi
  · exact trapsAt_of_not_tagged (exec_vecForm op vd va vb pm ty rnd sat s) h hx (by simpa using hn)
  · exact trapsAt_of_not_tagged (exec_vecImmForm op vd va pm ty rnd sat imm s) h hx (by simpa using hn)
  · exact trapsAt_of_not_tagged (exec_fnForm fn vd va pm ty rnd sat s) h hx (by simpa using hn)
  · exact trapsAt_of_not_tagged (rs := [va, vb, vc]) rfl h hx (by simpa using hn)
  · exact trapsAt_of_not_tagged (rs := [va, vb]) rfl h hx (by simpa using hn)
  · simp only [List.mem_cons, List.not_mem_nil, or_false] at hm
    obtain rfl | rfl | rfl := hm <;> exact trapsAt_of_not_tagged (rs := [va]) rfl h hx (by simpa using hn)

/-! ### Exact results of the special functions (R221) -/

theorem specialF32_of_nan {b : Nat} (hb : f32 (BitVec.ofNat 32 b) = .nan) (fn : VFn) (rnd : RMode) (sat : Bool) :
    specialF32 fn rnd sat b = nanEnc := by
  simp only [specialF32, hb]

/-- R221: the functions that have no value on negative numbers. -/
theorem specialF32_of_neg {b m : Nat} {e : Int} (hb : f32 (BitVec.ofNat 32 b) = .fin true m e) (hm : m ≠ 0) {fn : VFn}
    (hfn : fn ∈ [VFn.rsqrt, .sqrt, .log2]) (rnd : RMode) (sat : Bool) : specialF32 fn rnd sat b = nanEnc := by
  simp only [List.mem_cons, List.not_mem_nil, or_false] at hfn
  obtain rfl | rfl | rfl := hfn <;> simp [specialF32, hb, hm]

/-- R221: on NaN and negative numbers by the two lemmas above; an infinity or a zero names its row of the table. -/
theorem specialValues : Claims.SpecialValues := by
  intro rnd sat gives
  refine ⟨fun fn b hb => specialF32_of_nan hb fn rnd sat, fun b m e hb hm => ⟨?_, ?_, ?_⟩, ?_⟩
  · exact specialF32_of_neg hb hm (by simp) rnd sat
  · exact specialF32_of_neg hb hm (by simp) rnd sat
  · exact specialF32_of_neg hb hm (by simp) rnd sat
  · exact ⟨rfl, rfl, rfl, rfl, rfl, rfl, rfl, rfl, rfl, rfl, rfl, rfl, rfl, rfl, rfl, rfl, rfl, rfl, rfl, rfl, rfl, rfl,
      rfl, rfl, rfl, rfl, rfl, rfl⟩

/-! ### Bitwise forms, shifts and high products (R222, R223) -/

/-- R222: a bitwise form, from what its operation does to the bits of one lane. -/
theorem laneWrites_of_vecBits {s : State} {i : Instr} {vd va vb : VReg} {pm : Option PReg}
    {g : VData → VData → VData} {f : BitVec 32 → BitVec 32 → BitVec 32}
    (he : exec i s = .next (guarded s i fun s => advance (vecBits s g vd va vb pm))) (h : canStart s i = true)
    (hg : ∀ x y (j : Nat), lane (g x y) j = f (lane x j) (lane y j)) :
    LaneWrites s i vd pm (s.vr va).tag (s.vr va).sp (s.vr va).side
      fun j => f (lane (s.vr va).data j) (lane (s.vr vb).data j) := by
  rw [guarded_start _ h, vecBits, moveLanes, predOf_issued, vr_issued, vr_issued] at he
  exact laneWrites_of_setLanes (x := { s.vr va with data := g (s.vr va).data (s.vr vb).data }) he fun j => hg _ _ j

/-- R223: a form on INT32 lanes whose sources carry the tag of its type. -/
theorem laneWrites_of_vecLanes {s : State} {i : Instr} {vd : VReg} {pm : Option PReg} {ty : VTy} {rs : List VReg}
    {g : State → Nat → BitVec 32} {f : Fin 32 → BitVec 32}
    (he : exec i s = .next (checked s i (tagFault ty rs) fun s => advance (vecLanes s vd pm (g s))))
    (h : canStart s i = true) (ht : ∀ r ∈ rs, tagged s ty r) (hf : ∀ j : Fin 32, g (issued s) j = f j) :
    LaneWrites s i vd pm 0 false 0 f := by
  rw [checked_start _ _ h (tagFault_issued_of_tagged ht), vecLanes, predOf_issued] at he
  exact laneWrites_of_setLanes (x := { data := ofLanes (g (issued s)), tag := 0 }) he fun j =>
    (lane_ofLanes _ j).trans (hf j)

/-- R223: a shift, by a literal amount and by the lanes of a register. -/
theorem laneWrites_of_shift {s : State} {vd va vb : VReg} {pm : Option PReg} {ty : VTy} {form : ShiftBy → Instr}
    {op : BitVec 32 → Nat → BitVec 32}
    (he : ∀ x, exec (form x) s = .next (checked s (form x) (tagFault ty (shiftSources va x)) fun s =>
      advance (vecLanes s vd pm fun i => op (lane (s.vr va).data i) (shiftAmount s x i)))) (ha : tagged s ty va) :
    (∀ n : Fin 32, canStart s (form (.amt n)) = true →
        LaneWrites s (form (.amt n)) vd pm 0 false 0 fun j => op (lane (s.vr va).data j) n)
      ∧ (canStart s (form (.reg vb)) = true → tagged s ty vb →
        LaneWrites s (form (.reg vb)) vd pm 0 false 0
          fun j => op (lane (s.vr va).data j) ((lane (s.vr vb).data j).toNat % 32)) := by
  constructor
  · intro n h
    exact laneWrites_of_vecLanes (he (.amt n)) h (by simp [shiftSources, ha]) fun j => by simp only [vr_issued, shiftAmount]
  · intro h hb
    exact laneWrites_of_vecLanes (he (.reg vb)) h (by simp [shiftSources, ha, hb]) fun j => by
      simp only [vr_issued, shiftAmount]

theorem mulHigh_eq (ty : VTy) (x y : BitVec 32) : mulHigh (ty == .s32) x.toNat y.toNat =
    if ty = .s32 then BitVec.ofInt 32 (x.toInt * y.toInt / 2 ^ 32) else BitVec.ofNat 32 (x.toNat * y.toNat / 2 ^ 32) := by
  by_cases hty : ty = .s32
  · rw [if_pos hty, beq_iff_eq.2 hty, mulHigh_signed]
  · rw [if_neg hty, beq_false_of_ne hty, mulHigh_unsigned]

theorem vectorBitsAndShifts : Claims.VectorBitsAndShifts := by
  intro vd va vb pm ty s a la lb
  refine ⟨fun p hp h => ?_, fun p hp ha _ => ?_, fun h ha hb => ?_⟩
  · simp only [List.mem_cons, List.not_mem_nil, or_false] at hp
    obtain rfl | rfl | rfl := hp
    · exact laneWrites_of_vecBits rfl h fun _ _ _ => BitVec.extractLsb'_and
    · exact laneWrites_of_vecBits rfl h fun _ _ _ => BitVec.extractLsb'_or
    · exact laneWrites_of_vecBits rfl h fun _ _ _ => BitVec.extractLsb'_xor
  · simp only [List.mem_cons, List.not_mem_nil, or_false] at hp
    obtain rfl | rfl | rfl := hp <;> exact laneWrites_of_shift (fun _ => rfl) ha
  · refine laneWrites_of_vecLanes (g := fun s i =>
      mulHigh (ty == .s32) (lane (s.vr va).data i).toNat (lane (s.vr vb).data i).toNat) rfl h (by simp [ha, hb]) fun j => ?_
    rw [vr_issued, vr_issued, mulHigh_eq]

/-- Settles O40, from one lemma for each group of forms. -/
theorem vectorLanes : Obligations.VectorLanes :=
  ⟨vectorArithmetic, vectorTagTraps, specialValues, vectorBitsAndShifts⟩

end Sys2Proof.Machine
end
